-- ==== Sys2Proof/Word.lean ====
section
/-!
DEFINITION. The plain data the model is built from: bytes, saturating counts, sets of groups and of
slots as bit vectors, and the one sparse table (`FMap`) that holds every table of the part in one
canonical form (keys strictly rising, so that equal tables are equal lists).
-/

namespace Sys2Proof

/-- A byte, as the card image, the wing-line frames and the desk link carry them (R195, R196, R170). -/
abbrev Byte := BitVec 8

/-- A set of the 16 door groups, bit g standing for group g (R195). -/
abbrev Groups := BitVec 16

/-- A set of a minibar's 12 slots, bit s - 1 standing for slot s (R196). -/
abbrev SlotSet := BitVec 12

/-- Whether group `g` is a member of the set. -/
def Groups.has (m : Groups) (g : Nat) : Bool := m.getLsbD g

/-- The set holding slot `s` (1 to 12) alone. -/
def slotBit (s : Nat) : SlotSet := (1 : SlotSet) <<< (s - 1)

/-- Whether slot `s` (1 to 12) is a member of the set. -/
def SlotSet.has (m : SlotSet) (s : Nat) : Bool := m.getLsbD (s - 1)

/-- The largest minute (R1). -/
def maxMinute : Nat := 4294967294

/-- The largest 32-bit number, at which the tallies saturate and the sequences end. -/
def max32 : Nat := 4294967295

/-- One added to a count that saturates at `top`. -/
def satSucc (top n : Nat) : Nat := if n < top then n + 1 else top

/-- A sparse table: the entries that differ from the table's start value, keys strictly rising. -/
abbrev FMap (α : Type) := List (Nat × α)

namespace FMap

/-- The entry at key `k`, if the table holds one. -/
def get {α : Type} : FMap α → Nat → Option α
  | [], _ => none
  | (i, v) :: t, k => if k = i then some v else get t k

/-- The table with the entry at `k` set to `v`. -/
def put {α : Type} : FMap α → Nat → α → FMap α
  | [], k, v => [(k, v)]
  | (i, w) :: t, k, v =>
    if k < i then (k, v) :: (i, w) :: t
    else if k = i then (k, v) :: t
    else (i, w) :: put t k v

/-- The table with no entry at `k`. -/
def del {α : Type} (m : FMap α) (k : Nat) : FMap α := m.filter (fun e => e.1 != k)

/-- The entry at `k` set, or removed where the new value is the table's start value. -/
def set {α : Type} (m : FMap α) (k : Nat) : Option α → FMap α
  | none => del m k
  | some v => put m k v

/-- Every entry changed by `f`, which sees the key. -/
def mapVals {α : Type} (m : FMap α) (f : Nat → α → α) : FMap α := m.map (fun e => (e.1, f e.1 e.2))

/-- The canonical form: keys strictly rising. -/
abbrev wf {α : Type} (m : FMap α) : Prop := m.Pairwise (fun a b => a.1 < b.1)

end FMap

/-- The numbers `lo` to `hi`. -/
def rangeInc (lo hi : Nat) : List Nat := (List.range (hi + 1 - lo)).map (· + lo)

/-- `x` inserted into a list sorted by `key`, before the first element of a larger key. -/
def insertBy {α : Type} (key : α → Nat) (x : α) : List α → List α
  | [] => [x]
  | y :: t => if key x < key y then x :: y :: t else y :: insertBy key x t

/-- The list sorted by `key`, smallest first, equal keys in the order they stood. -/
def sortBy {α : Type} (key : α → Nat) (l : List α) : List α :=
  l.foldl (fun acc x => insertBy key x acc) []

end Sys2Proof
end

