-- ==== Sys2Proof/Config.lean ====
section
/-!
DEFINITION. The constants of the part (the numbers the rules fix) and the free values.
-/

namespace Sys2Proof.Config

/-- Places of the staging queue (R138). -/
def stagingPlaces : Nat := 64
/-- Places of the table change queue (R160). -/
def changePlaces : Nat := 64
/-- Orders a line's queue holds (R70). -/
def orderPlaces : Nat := 16
/-- Orders a line's queue may hold for an order of class other to be placed (R70). -/
def otherOrderPlaces : Nat := 12
/-- Slots of a sector (R153). -/
def sectorSlots : Nat := 128
/-- Characters of the inbound buffer (R170). -/
def inboundChars : Nat := 2048
/-- Credential slots (R19). -/
def credSlots : Nat := 2048
/-- Places of the revocation list (R37). -/
def listPlaces : Nat := 256
/-- The ceiling of a room's tab (R8). -/
def tabCeiling : Nat := 9999999
/-- Head timeout of WRITE IMAGE in milliseconds (R45). -/
def writeTimeout : Nat := 400
/-- Head timeout of READ IMAGE in milliseconds (R45). -/
def readTimeout : Nat := 200
/-- The level HALF of the uncollected count (R150). -/
def levelHalf : Nat := 5632
/-- The level NEAR of the uncollected count (R150). -/
def levelNear : Nat := 9856

/-- FREE VALUE (notes/assumptions/11). Whether a sector whose erase has failed is left so that the next
cold start finds it interrupted: the spec says that its records stay in it (R164) and that it may be
found for a start-up erase (R169), and does not say which slots a failed erase has cleared. Applied to
`State.freeUses`, so that each failed erase has a value of its own. -/
opaque failedEraseCut : Nat → Bool

/-- FREE VALUE (notes/assumptions/14). Whether a program still in progress as a cold start begins without a loss of
power ends sound: it runs to its end (R156, R188), and the spec gives no value for how it ends. Applied to
`State.freeUses`. -/
opaque coldStartSound : Nat → Bool

/-- FREE VALUE (notes/assumptions/28). The byte of this number of a REPLY body that is shorter than its status, tag
echo and event byte: such a reply passes its check and is taken (R196), and the spec does not say what those bytes
then are. -/
opaque shortReplyByte : List Byte → Nat → Byte

end Sys2Proof.Config
end

