-- ==== Sys2Proof/Syntax.lean ====
section
/-!
DEFINITION. The commands of the part: one constructor of `Instr` for each row of
spec/opcode_table.json, in the table's order. A request's command carries the request as the desk link
interface has it after its line is read (`ReqHead` and one `Arg` per field key of the verb); the
characters themselves arrive through CHARACTER_RECEIVED and are read by `Sys2Proof/Decode.lean`.
-/

namespace Sys2Proof

/-- A field of a request as it was sent: not carried, carried in a form or word that breaks its form
(R197), or given a value (which may still lie outside its range). -/
inductive Arg (α : Type) where
  | absent
  | malformed
  | given (v : α)
  deriving DecidableEq, Repr

/-- What every request carries: its tag, the 1 to 4 digits as written (R175), and whether the line
breaks the third test of R175 (a key the verb does not take, a key twice, a part that is not key=value). -/
structure ReqHead where
  tag : List (Fin 10)
  badField : Bool
  deriving DecidableEq, Repr

/-- The four wing lines. -/
inductive LineId where
  | l1 | l2 | l3 | l4
  deriving DecidableEq, Repr

/-- The two legs of a wing line (R64). -/
inductive Leg where
  | a | b
  deriving DecidableEq, Repr

/-- The four desk link rates the straps select (R170, R184). -/
inductive LinkRate where
  | r57600 | r115200 | r230400 | r460800
  deriving DecidableEq, Repr

/-- What a node is (01 section 1.4). -/
inductive NodeKind where
  | roomDoor | commonDoor | minibar
  deriving DecidableEq, Repr

/-- The journal full policy (R17). -/
inductive Policy where
  | hold | overwrite
  deriving DecidableEq, Repr

/-- The mode of ISSUE (R24). -/
inductive IssueMode where
  | newStay | extraKey | staff | restock | master
  deriving DecidableEq, Repr

/-- Why a credential was revoked (R19). -/
inductive RevReason where
  | lost | checkout | security | issueAborted
  deriving DecidableEq, Repr

/-- The head's answer to WRITE IMAGE (R45). -/
inductive WriteAnswer where
  | ok | noCard | writeFault
  deriving DecidableEq, Repr

/-- The head's answer to READ IMAGE (R45). -/
inductive ReadAnswer where
  | image (bytes : List Byte)
  | noCard
  deriving DecidableEq, Repr

/-- An end of validity: a hotel minute, or `none` for open, later than every minute (00 section 4.3). -/
abbrev EndMinute := Option Nat

/-- The commands. -/
inductive Instr where
  /-- POWER_ON: the straps as they stand, and whether the backup domain will report a loss (R1, R184). -/
  | powerOn (straps : LinkRate) (clockLost : Bool)
  /-- PFW_ASSERTED -/
  | pfwAsserted
  /-- PFW_DEASSERTED: the straps as they stand, should a cold start begin. -/
  | pfwDeasserted (straps : LinkRate)
  /-- RESET_ASSERTED -/
  | resetAsserted
  /-- RESET_RELEASED: the straps as they stand. -/
  | resetReleased (straps : LinkRate)
  /-- POWER_DOWN: the supply monitor's offer at the end of the drain. -/
  | powerDown
  /-- POST_DRAIN_COLD_START: the straps as they stand. -/
  | postDrainColdStart (straps : LinkRate)
  /-- HOTEL_CLOCK_TICK -/
  | hotelClockTick
  /-- DESK_LINE_RECEIVED: the LF arrives, with or without a framing error. -/
  | deskLineReceived (framingError : Bool)
  /-- LINE_DISCARD_CHARACTER: the character 0x18. -/
  | lineDiscardCharacter
  /-- TAKE_REQUEST -/
  | takeRequest
  /-- HOLD_IN_ASSERTED -/
  | holdInAsserted
  /-- HOLD_IN_RELEASED -/
  | holdInReleased
  /-- TRANSMIT_LINE_COMPLETE -/
  | transmitLineComplete
  /-- STATUS -/
  | status (h : ReqHead)
  /-- COMMISSION: `site=`, `seed=`, `name=`. -/
  | commission (h : ReqHead) (site seed : Arg Nat) (name : Arg (List Byte))
  /-- IDENTITY_PROGRAM_COMPLETE: whether the program read back sound. -/
  | identityProgramComplete (sound : Bool)
  /-- IDENTITY -/
  | identity (h : ReqHead)
  /-- CLOCK SET -/
  | clockSet (h : ReqHead) (minute second : Arg Nat)
  /-- CLOCK GET -/
  | clockGet (h : ReqHead)
  /-- SETUP -/
  | setup (h : ReqHead) (fresh unlatch latch grace checkout wait : Arg Nat) (policy : Arg Policy)
  /-- ROOM SET -/
  | roomSet (h : ReqHead) (room label : Arg Nat) (access : Arg (List Nat)) (limit discount : Arg Nat)
  /-- ROOM GET -/
  | roomGet (h : ReqHead) (room : Arg Nat)
  /-- ROOM RESET-ISSUE -/
  | roomResetIssue (h : ReqHead) (room : Arg Nat)
  /-- ROOM LOCKOUT -/
  | roomLockout (h : ReqHead) (room : Arg Nat) (lockout : Arg Bool)
  /-- NODE SET -/
  | nodeSet (h : ReqHead) (line addr : Arg Nat) (kind : Arg NodeKind) (pos room group : Arg Nat)
      (enabled : Arg Bool)
  /-- NODE GET -/
  | nodeGet (h : ReqHead) (line addr : Arg Nat)
  /-- NODE REMOVE -/
  | nodeRemove (h : ReqHead) (line addr : Arg Nat)
  /-- STOCK: the item codes of `s1=` to `s12=`, slot 1 first. -/
  | stock (h : ReqHead) (line addr : Arg Nat) (codes : List (Arg Nat))
  /-- GROUP SET -/
  | groupSet (h : ReqHead) (group : Arg Nat) (offline : Arg Bool)
  /-- GROUP RELEASE -/
  | groupRelease (h : ReqHead) (group : Arg Nat)
  /-- GROUP SECURE -/
  | groupSecure (h : ReqHead) (group : Arg Nat)
  /-- GROUP NORMAL -/
  | groupNormal (h : ReqHead) (group : Arg Nat)
  /-- PRICE SET -/
  | priceSet (h : ReqHead) (item price tax : Arg Nat)
  /-- PRICE GET -/
  | priceGet (h : ReqHead) (item : Arg Nat)
  /-- ISSUE: `until` given `none` is the word `open`. -/
  | issue (h : ReqHead) (mode : Arg IssueMode) (room validFrom : Arg Nat) (validUntil : Arg EndMinute)
      (groups : Arg (List Nat)) (window : Arg (Nat × Nat)) (minibar : Arg Bool)
  /-- CANCEL -/
  | cancel (h : ReqHead) (number : Arg Nat)
  /-- REVOKE -/
  | revoke (h : ReqHead) (number : Arg Nat) (reason : Arg RevReason)
  /-- CHECKOUT -/
  | checkout (h : ReqHead) (room : Arg Nat)
  /-- CRED GET -/
  | credGet (h : ReqHead) (number room : Arg Nat)
  /-- CARD READ with no field -/
  | cardRead (h : ReqHead)
  /-- CARD READ carrying `last=`; given `true` is the word `yes`. -/
  | cardReadLast (h : ReqHead) (last : Arg Bool)
  /-- ENCODER RESET -/
  | encoderReset (h : ReqHead)
  /-- TAB GET -/
  | tabGet (h : ReqHead) (room : Arg Nat)
  /-- TAB SETTLE -/
  | tabSettle (h : ReqHead) (room : Arg Nat)
  /-- MINIBAR HOLD -/
  | minibarHold (h : ReqHead) (room : Arg Nat) (hold : Arg Bool)
  /-- JREAD -/
  | jread (h : ReqHead) (start count : Arg Nat)
  /-- JRELEASE -/
  | jrelease (h : ReqHead) (through : Arg Nat)
  /-- DOOR UNLOCK -/
  | doorUnlock (h : ReqHead) (line addr time : Arg Nat)
  /-- LINE ENABLE -/
  | lineEnable (h : ReqHead) (line : Arg Nat)
  /-- LINE DISABLE -/
  | lineDisable (h : ReqHead) (line : Arg Nat)
  /-- LINE RESET -/
  | lineReset (h : ReqHead) (line : Arg Nat)
  /-- LINE SET -/
  | lineSet (h : ReqHead) (line period timeout : Arg Nat)
  /-- LINE GET -/
  | lineGet (h : ReqHead) (line : Arg Nat)
  /-- NOTICES: given `true` is the word `on`. -/
  | notices (h : ReqHead) (alarm power store line issue journal minibar clock : Arg Bool)
  /-- RESTART -/
  | restart (h : ReqHead)
  /-- INTENT_RECORD_PROGRAMMED -/
  | intentRecordProgrammed
  /-- CARD_IN_CHANGE: the level after the change. -/
  | cardInChange (present : Bool)
  /-- CARD_WAIT_EXPIRY -/
  | cardWaitExpiry
  /-- WRITE_IMAGE_ANSWER -/
  | writeImageAnswer (answer : WriteAnswer)
  /-- READ_IMAGE_ANSWER -/
  | readImageAnswer (answer : ReadAnswer)
  /-- HEAD_TIMEOUT -/
  | headTimeout
  /-- HELD_OUTCOME_RETRY -/
  | heldOutcomeRetry
  /-- CYCLE_BEGIN: the poll period's end of this line is reached. -/
  | cycleBegin (line : LineId)
  /-- NODE_REPLY: the bytes that arrived at this leg's receiver as one frame. -/
  | nodeReply (line : LineId) (leg : Leg) (frame : List Byte)
  /-- REPLY_TIMEOUT -/
  | replyTimeout (line : LineId)
  /-- BROADCAST_SENT -/
  | broadcastSent (line : LineId)
  /-- LATCH_END: the latch end of the minibar at this line and address. -/
  | latchEnd (line : LineId) (addr : Nat)
  /-- GRACE_END: the grace end of the minibar at this line and address. -/
  | graceEnd (line : LineId) (addr : Nat)
  /-- CHARGE_WAIT_RETRY -/
  | chargeWaitRetry
  /-- JOURNAL_PROGRAM_COMPLETE -/
  | journalProgramComplete (sound : Bool)
  /-- HELD_OVERRUN_ACCEPT -/
  | heldOverrunAccept
  /-- PRE_ERASE -/
  | preErase
  /-- TABLE_LOG_PROGRAM_COMPLETE -/
  | tableLogProgramComplete (sound : Bool)
  /-- WAITING_SET_PLACEMENT -/
  | waitingSetPlacement
  /-- COPY_FORWARD_COMPLETE -/
  | copyForwardComplete (sound : Bool)
  /-- ERASE_COMPLETE -/
  | eraseComplete (sound : Bool)
  /-- ERASE_SUSPEND: the erase has run 1 ms since its start or last resumption. -/
  | eraseSuspend
  /-- ERASE_RUN_LIMIT -/
  | eraseRunLimit
  /-- PROGRAM_TIMEOUT -/
  | programTimeout
  /-- POWER_LOSS -/
  | powerLoss
  /-- CHARACTER_RECEIVED: a character other than LF and 0x18. -/
  | characterReceived (c : Byte) (framingError : Bool)
  /-- DIRECTED_FRAME_SENT -/
  | directedFrameSent (line : LineId)
  /-- SUSPENSION_TAKES_EFFECT -/
  | suspensionTakesEffect
  deriving DecidableEq, Repr

end Sys2Proof
end

