-- ==== Sys2Proof/Machine/State.lean ====
section
/-!
DEFINITION. The state of the part as plain data, block by block (00 section 2), the reasons a step could
stop, and `State.reset`. INVENTORY.md lists every field with its rule and its reset value.
-/

namespace Sys2Proof.Machine

/-! ## Supply monitor and hotel clock -/

/-- The power state (R183); `off` is the model's own: no core supply, or RESET held (notes/assumptions/12). -/
inductive PowerState where
  | run | draining | parked | off
  deriving DecidableEq, Repr

/-- What began a storm drain (R190). -/
inductive DrainCause where
  | pfw | restart
  deriving DecidableEq, Repr

/-- A storm drain in progress: its cause, whether POWER_DOWN has been offered and the sequence it was
accepted under, and whether the drain has ended (R191). -/
structure DrainInfo where
  cause : DrainCause
  offered : Bool
  seq : Option Nat
  ended : Bool
  deriving DecidableEq, Repr

/-- The supply monitor (R183): the power state and the levels it watches. -/
structure PowerUnit where
  state : PowerState
  supply : Bool
  pfw : Bool
  resetPin : Bool
  drain : Option DrainInfo
  deriving DecidableEq, Repr

/-- Whether the hotel clock may be relied on (R1). -/
inductive ClockState where
  | valid | invalid
  deriving DecidableEq, Repr

/-- The hotel clock (R1); `lost` is the backup domain's loss report, not yet read by a cold start. -/
structure HotelClock where
  minute : Nat
  second : Nat
  valid : ClockState
  lost : Bool
  deriving DecidableEq, Repr

/-! ## Site tables -/

/-- The durable fields of a defined room (01 section 1.3). -/
structure RoomEntry where
  label : Nat
  access : Groups
  issue : Nat
  lockout : Bool
  tab : Nat
  limit : Nat
  discount : Nat
  deriving DecidableEq, Repr

/-- A defined room: its entry, its privacy (R9) and its minibar hold mark (R109). -/
structure Room where
  entry : RoomEntry
  privacy : Bool
  hold : Bool
  deriving DecidableEq, Repr

/-- The durable fields of a present node (01 section 1.4); `codes` has one item code per slot. -/
structure NodeEntry where
  kind : NodeKind
  pos : Nat
  room : Option Nat
  group : Nat
  enabled : Bool
  codes : List Nat
  baseline : SlotSet
  deriving DecidableEq, Repr

/-- A node's link state (04 section 4.5). -/
inductive LinkState where
  | unknown | onA | onB | lost | disabled
  deriving DecidableEq, Repr

/-- A status report (R78) with the order tag it echoes (R196). -/
structure NodeStatus where
  doorOpen : Bool
  latchReleased : Bool
  privacy : Bool
  batteryLow : Bool
  tamper : Bool
  echo : Nat
  deriving DecidableEq, Repr

/-- What a line master holds for a node (R65). `modeSent` and `groupSent` are the model's own: an owed order
has been sent since its mark was last set, so that its delivery clears the mark (R73; notes/assumptions/25). -/
structure NodeLink where
  state : LinkState
  miss : Nat
  garble : Nat
  modeOwed : Bool
  groupOwed : Bool
  modeSent : Bool
  groupSent : Bool
  status : Option NodeStatus
  deriving DecidableEq, Repr

/-- A door's condition (R88). -/
inductive DoorCondition where
  | closed | opened | alarm
  deriving DecidableEq, Repr

/-- What raised a door's alarm (R88). -/
inductive AlarmCause where
  | forced | held
  deriving DecidableEq, Repr

/-- The most recent grant or remote unlock since the door last opened or closed (R88). -/
inductive LastRelease where
  | none
  | card (number : Nat)
  | remote
  deriving DecidableEq, Repr

/-- A door record (R88). -/
structure DoorRec where
  condition : DoorCondition
  cause : Option AlarmCause
  release : LastRelease
  deriving DecidableEq, Repr

/-- Where a minibar stands (R109). -/
inductive BarState where
  | locked | openGuest | settling | chargeWait | openRestock | held
  deriving DecidableEq, Repr

/-- A pending line (R110); the slot is the key it is held under. -/
structure PendingLine where
  amount : Nat
  item : Nat
  issue : Nat
  minute : Nat
  deriving DecidableEq, Repr

/-- A minibar record (R109). A timer holds the length it was started with while it runs
(notes/assumptions/5). -/
structure BarRec where
  state : BarState
  opened : Bool
  latchEnd : Option Nat
  graceEnd : Option Nat
  backToSettling : Bool
  opener : Option Nat
  present : Option SlotSet
  missing : SlotSet
  lines : FMap PendingLine
  deriving DecidableEq, Repr

/-- A present node: its entry, what its line master holds, its door record and its minibar record. A
record that does not apply to the node's kind holds its starting value. -/
structure Node where
  entry : NodeEntry
  link : NodeLink
  door : DoorRec
  bar : BarRec
  deriving DecidableEq, Repr

/-- A group's release state (01 section 1.5). -/
inductive ReleaseState where
  | normal | released | secured
  deriving DecidableEq, Repr

/-- A group table entry (R15). -/
structure GroupEntry where
  offline : Bool
  release : ReleaseState
  deriving DecidableEq, Repr

/-- A price table entry (R16). -/
structure PriceEntry where
  price : Nat
  tax : Nat
  deriving DecidableEq, Repr

/-- One value for each wing line. -/
structure PerLine (α : Type) where
  l1 : α
  l2 : α
  l3 : α
  l4 : α
  deriving DecidableEq, Repr

/-- The settings record (R17). -/
structure Settings where
  period : PerLine Nat
  timeout : PerLine Nat
  fresh : Nat
  unlatch : Nat
  latch : Nat
  grace : Nat
  checkout : Nat
  wait : Nat
  policy : Policy
  deriving DecidableEq, Repr

/-! ## Credential unit -/

/-- What a card is (R19); VOID (R48) is no record's kind. -/
inductive CredKind where
  | guest | staff | restock | master
  deriving DecidableEq, Repr

/-- Where a credential stands (R22). -/
inductive CredState where
  | pending | active | superseded | revoked | lapsed
  deriving DecidableEq, Repr

/-- A credential record (R19). Fields that do not apply to the kind hold 0; `reason` and `revokedAt`
are present once the record is REVOKED. -/
structure CredRec where
  number : Nat
  kind : CredKind
  state : CredState
  room : Nat
  issue : Nat
  validFrom : Nat
  validUntil : EndMinute
  mask : Groups
  winStart : Nat
  winEnd : Nat
  minibar : Bool
  reason : Option RevReason
  revokedAt : Nat
  deriving DecidableEq, Repr

/-- An entry of the revocation list (R37); its sequence is held by its place. -/
structure RevEntry where
  number : Nat
  reason : RevReason
  revokedAt : Nat
  expiry : EndMinute
  reach : Groups
  carried : Nat
  deriving DecidableEq, Repr

/-- A list place that holds an entry or has held one: the sequence of the last entry, and the entry
while it is held (R37). -/
structure ListPlace where
  seq : Nat
  entry : Option RevEntry
  deriving DecidableEq, Repr

/-- The credential unit (R19, R23, R37). -/
structure CredUnit where
  slots : FMap CredRec
  serial : Nat
  list : FMap ListPlace
  revCount : Nat
  deriving DecidableEq, Repr

/-! ## Encoder controller -/

/-- The kind of the encoder job (R49). -/
inductive JobKind where
  | issue | read
  deriving DecidableEq, Repr

/-- The state of the encoder job; IDLE is the absence of a job (R49). -/
inductive JobState where
  | preparing | waitingCard | writing | verifying | voiding | reading
  deriving DecidableEq, Repr

/-- The cause of an issue job's ending (R55). -/
inductive JobCause where
  | noCard | writeFault | verifyFault | headTimeout | cancelled
  deriving DecidableEq, Repr

/-- The outcome an issue job reports (R55). -/
inductive JobOutcome where
  | success | released | aborted
  deriving DecidableEq, Repr

/-- The encoder job (R49); `after` is the mark of R30 on a held success. The card wait end and the head timeout
end are held as the lengths they were started with (notes/assumptions/5). -/
structure Job where
  kind : JobKind
  mode : IssueMode
  state : JobState
  number : Nat
  slot : Nat
  image : Option (List Byte)
  carried : Nat
  writeStarted : Bool
  rewriteUsed : Bool
  cancel : Bool
  cause : Option JobCause
  outcome : Option JobOutcome
  after : Option RevReason
  cardWait : Option Nat
  headEnd : Option Nat
  deriving DecidableEq, Repr

/-- An operation outstanding at the head (R45). -/
inductive HeadOp where
  | write (bytes : List Byte)
  | read
  deriving DecidableEq, Repr

/-- The kind shown for a read card (R63). -/
inductive ShownKind where
  | known (k : CredKind)
  | void
  | unknown (code : Nat)
  deriving DecidableEq, Repr

/-- Every field of a card image as read (R195). -/
structure CardFields where
  version : Nat
  kind : ShownKind
  flags : Byte
  carriedCount : Nat
  site : Nat
  number : Nat
  label : Nat
  room : Nat
  issue : Nat
  mask : Groups
  validFrom : Nat
  validUntil : Nat
  winStart : Nat
  winEnd : Nat
  encodeMinute : Nat
  grace : Nat
  fill : List Byte
  carried : List (Nat × Nat)
  check : Nat
  deriving DecidableEq, Repr

/-- The last read result (R63). `none` stands for unknown. -/
inductive ReadResult where
  | card (fields : CardFields) (checkHolds siteMatches : Option Bool) (keyState : Option CredState)
      (listed : Option (Nat × RevReason))
  | noCard
  | headTimeout
  | cancelled
  deriving DecidableEq, Repr

/-- The encoder controller (R45, R46, R49, R50, R63). -/
structure Encoder where
  job : Option Job
  headOp : Option HeadOp
  cardIn : Bool
  lastRead : Option ReadResult
  report : Option Nat
  deriving DecidableEq, Repr

/-! ## Line masters -/

/-- The kind of an order (R70). -/
inductive OrderKind where
  | unlatch | denySignal | relatch | standalone | online | release | restore
  deriving DecidableEq, Repr

/-- The class of an order (R70). -/
inductive OrderClass where
  | decision | other
  deriving DecidableEq, Repr

/-- An order: its kind, its class, its target address (`none` for all nodes) and its parameter (R70). -/
structure Order where
  kind : OrderKind
  cls : OrderClass
  target : Option Nat
  param : Nat
  deriving DecidableEq, Repr

/-- What an exchange carries (R66). `removed` is an exchange whose node has been removed (R13). -/
inductive ExchKind where
  | poll (repoll : Bool)
  | order (o : Order)
  | owedMode
  | owedGroup
  | broadcast (o : Order)
  | drainStandalone
  | removed
  deriving DecidableEq, Repr

/-- The outstanding exchange (R66): the leg, the address, whether this is the second leg tried, whether
the frame is still being sent, the reply timeout it keeps, the frame's bytes (R196), and whether a reply in it
has failed its check or named another address, so that it counts as unanswered. -/
structure Exchange where
  kind : ExchKind
  leg : Leg
  addr : Nat
  second : Bool
  sending : Bool
  timeout : Nat
  frame : List Byte
  spoiled : Bool
  deriving DecidableEq, Repr

/-- The visit in progress (R68): the node, the owed orders due at it, the re-polls made, whether the next
poll is a re-poll, whether the last poll has ended, and the leg of the visit's last taken reply. -/
structure Visit where
  addr : Nat
  modeDue : Bool
  groupDue : Bool
  repolls : Nat
  repollNext : Bool
  done : Bool
  lastLeg : Option Leg
  deriving DecidableEq, Repr

/-- The cycle in progress (R67): the visits still to come and the visit in progress. -/
structure Cycle where
  rest : List Nat
  visit : Option Visit
  deriving DecidableEq, Repr

/-- The line condition (R81). -/
inductive LineCond where
  | whole
  | split (p : Nat)
  | irregular
  | dark
  deriving DecidableEq, Repr

/-- The report of the line condition (R81): for SPLIT the gap, the LOST positions in it and the count of
LOST nodes outside it; for IRREGULAR the lowest ON_B and the highest ON_A position. -/
structure CondReport where
  gapFrom : Nat
  gapTo : Nat
  lostIn : List Nat
  lostOut : Nat
  lowestB : Nat
  highestA : Nat
  deriving DecidableEq, Repr

/-- A line master (R65). `periodEnd` holds the length of the running poll period, and `none` once its end
has been reached; `restart` says that the next cycle takes phase 1 without advancing (R67). -/
structure Line where
  running : Bool
  exch : Option Exchange
  queue : List Order
  cycle : Option Cycle
  phase : Nat
  restart : Bool
  count : Nat
  periodEnd : Option Nat
  tag : Nat
  cond : LineCond
  report : CondReport
  deriving DecidableEq, Repr

/-! ## Journal unit -/

/-- The outcome of a decision on a presentation (05 section 5.2, 06 section 6.4). -/
inductive Decision where
  | grant | grantOverride | grantHeld
  | denyStale | denySite | denyVoid | denyUnknown | denyRevoked | denySuperseded | denyExpired
  | denyMismatch | denyNotYet | denyWindow | denyWrongRoom | denyLockout | denyGroup | denyPrivacy
  | denySecured | denyNoPrivilege | denyChargeWait | denyHeld | denyInUse | denyNotReady | denyTabLimit
  deriving DecidableEq, Repr

/-- Why an order was lost (R136). -/
inductive LostCause where
  | undelivered | disabled | reset | drain | removed
  deriving DecidableEq, Repr

/-- Why a sector was retired (R166). -/
inductive RetireCause where
  | spoiledSlots | eraseFailed
  deriving DecidableEq, Repr

/-- Why a tab was settled (R136). -/
inductive SettleReason where
  | newStay | desk
  deriving DecidableEq, Repr

/-- A record's value: a number, or one of the named codes of 07 section 7.2. -/
inductive JVal where
  | num (n : Nat)
  | decision (d : Decision)
  | lostCause (c : LostCause)
  | order (k : OrderKind)
  | release (r : ReleaseState)
  | yesNo (b : Bool)
  | cause (c : JobCause)
  | freed
  | aborted
  | reason (r : RevReason)
  | openEnd
  | guest
  | restock
  | link (l : LinkState)
  | cond (c : LineCond)
  | retire (c : RetireCause)
  | clean
  | unclean
  | clock (c : ClockState)
  | drain (c : DrainCause)
  | complete
  | incomplete
  | card
  | remote
  | noRelease
  | door (c : DoorCondition)
  deriving DecidableEq, Repr

/-- The kind of a journal record (07 section 7.2). -/
inductive JKind where
  | admitted | refuse | remoteUnlock | doorOpened | doorForced | doorHeld | orderLost | groupState | lockout
  | issued | issueFailed | revoked | checkout | revocationDisplaced | minibarOpen | charge | lateReturn
  | minibarTamper | restock | settle | nodeLost | nodeRestored | lineCondition | clockStep | gap | overrun
  | storeFault | start | powerDown
  deriving DecidableEq, Repr

/-- The money part, or the group a GROUP_STATE record carries in its place (R136). -/
inductive JPart where
  | none
  | charge (item slot issue : Nat) (saturation priorStay : Bool)
  | settle (reason : SettleReason)
  | group (g : Nat)
  deriving DecidableEq, Repr

/-- A node's name: its line and address; address 0 names the line (R135). -/
abbrev NodeName := LineId × Nat

/-- A record as its producer offers it (R135). -/
structure JBody where
  kind : JKind
  node : Option NodeName
  cred : Option Nat
  room : Option Nat
  v1 : JVal
  v2 : JVal
  part : JPart
  deriving DecidableEq, Repr

/-- An accepted record: its sequence, its stamp and what was offered (R135). -/
structure JRec where
  seq : Nat
  minute : Nat
  second : Nat
  body : JBody
  deriving DecidableEq, Repr

/-- The journal writer's state (07 section 7.5). -/
inductive WriterState where
  | writing | waitingSpare | full | overrun | fault
  deriving DecidableEq, Repr

/-- The journal unit (R137 to R151). `oldest` is the oldest retained sequence while a sector holds records, and `none`
while none does, when it is the next sequence (R143; `Journal.oldestRetained`). -/
structure Journal where
  staging : List JRec
  nextSeq : Nat
  mark : Nat
  oldest : Option Nat
  newest : Nat
  head : Nat
  spare : Nat
  writer : WriterState
  dropAdm : Nat
  dropOther : Nat
  heldOverruns : List (Nat × Nat)
  programmedMark : Nat
  deriving DecidableEq, Repr

/-! ## Store unit -/

/-- The durable singleton of the journal unit (R147). -/
structure JournalState where
  mark : Nat
  oldest : Nat
  deriving DecidableEq, Repr

/-- A table entry's name (R160). -/
inductive EntryKey where
  | cred (slot : Nat)
  | room (i : Nat)
  | node (line : LineId) (addr : Nat)
  | group (g : Nat)
  | price (item : Nat)
  | listPlace (i : Nat)
  | serial
  | settings
  | journalState
  deriving DecidableEq, Repr

/-- A table entry's contents (R160); `none` is the start value FREE, undefined, absent or never held. -/
inductive EntryVal where
  | cred (r : Option CredRec)
  | room (r : Option RoomEntry)
  | node (n : Option NodeEntry)
  | group (g : GroupEntry)
  | price (p : PriceEntry)
  | listPlace (p : Option ListPlace)
  | serial (n : Nat)
  | settings (s : Settings)
  | journalState (j : JournalState)
  deriving DecidableEq, Repr

/-- A place of the table change queue; `fresh` says that its contents were given since the engine last
took this place's program (R161). -/
structure ChangePlace where
  key : EntryKey
  val : EntryVal
  fresh : Bool
  deriving DecidableEq, Repr

/-- A table-log record (R162). -/
structure LogRec where
  append : Nat
  key : EntryKey
  val : EntryVal
  deriving DecidableEq, Repr

/-- A sector (R153, R169): its used slots in slot order, `none` for a spoiled slot; whether an erase of it
was cut off or left it interrupted; and the working marks of the running part, retired (R166) and
waiting for its start-up erase (R169). A blank sector is not listed. -/
structure Sector (α : Type) where
  cells : List (Option α)
  cut : Bool
  retired : Bool
  awaitErase : Bool
  deriving DecidableEq, Repr

/-- The part's identity (R154). -/
structure Identity where
  site : Nat
  seed : Nat
  name : List Byte
  deriving DecidableEq, Repr

/-- One of the four identity places (R154). -/
inductive IdPlace where
  | erased
  | written (i : Identity)
  | spoiled
  deriving DecidableEq, Repr

/-- The kind of an item of the reclaimer's list (R159). -/
inductive WorkKind where
  | reclaim | evacuation | journalErase | startUp
  deriving DecidableEq, Repr

/-- An item of the reclaimer's list (R159). -/
structure Work where
  sector : Nat
  kind : WorkKind
  deriving DecidableEq, Repr

/-- The three requesters of the store engine (R157). -/
inductive Requester where
  | tableWriter | journalWriter | reclaimer
  deriving DecidableEq, Repr

/-- A program the engine carries out, with its target (R156). -/
inductive Program where
  | table (sector : Nat) (key : EntryKey) (val : EntryVal)
  | identity (place : Nat) (id : Identity)
  | journal (sector : Nat) (rec : JRec)
  | copy (sector : Nat) (key : EntryKey) (val : EntryVal)
  deriving DecidableEq, Repr

/-- An erase begun (R158): whether it has run 1 ms since its start or last resumption, its suspension
count, and whether a suspension has been ordered. -/
structure EraseRun where
  work : Work
  ran : Bool
  suspensions : Nat
  ordered : Bool
  deriving DecidableEq, Repr

/-- What the store engine is doing (R156). -/
inductive Engine where
  | idle
  | programming (p : Program)
  | erasing (e : EraseRun)
  deriving DecidableEq, Repr

/-- The store unit (R153 to R169). `held` says that the table writer's programs wait for the end of the listed
reclaim's erase (R163). -/
structure Store where
  tlog : FMap (Sector LogRec)
  jreg : FMap (Sector JRec)
  idPlaces : List IdPlace
  identity : Option Identity
  nextAppend : Nat
  head : Nat
  queue : List ChangePlace
  waiting : List EntryKey
  idRequest : Option Identity
  work : List Work
  engine : Engine
  suspended : Option EraseRun
  lastServed : Requester
  readOnly : Bool
  stalled : Bool
  held : Bool
  deriving DecidableEq, Repr

/-! ## Desk link interface -/

/-- The error codes (R175). -/
inductive ErrCode where
  | verb | field | notFound | state | busy | full | locked | store | clock | power | uncommissioned
  deriving DecidableEq, Repr

/-- The notice classes, in the order of R177. -/
inductive NoticeClass where
  | alarm | power | store | line | issue | journal | minibar | clock
  deriving DecidableEq, Repr

/-- The detail of an occurrence, as the rule that posts it gives it. -/
inductive Detail where
  | displaced (number : Nat)
  | tamper (node : NodeName)
  | forced (node : NodeName)
  | held (node : NodeName)
  | minibarDoor (node : NodeName)
  | slots (node : NodeName)
  | draining (cause : DrainCause)
  | parked
  | sector (n : Nat) (cause : RetireCause)
  | readOnly
  | journalFault
  | stalled
  | node (node : NodeName)
  | battery (node : NodeName)
  | lineCond (line : LineId) (cond : LineCond)
  | issueEnd (number : Nat) (outcome : JobOutcome) (cause : Option JobCause)
  | readEnd (result : ReadResult)
  | half (count : Nat)
  | near (count : Nat)
  | full (count : Nat)
  | overrun (first last : Nat)
  | exhausted
  | tabLimit (room sum : Nat)
  | charges (room count : Nat)
  | clock (old new : Nat)
  deriving DecidableEq, Repr

/-- A notice table entry (R178). -/
structure Notice where
  enabled : Bool
  pending : Bool
  count : Nat
  detail : Option Detail
  deriving DecidableEq, Repr

/-- The notice table (R178). -/
structure Notices where
  alarm : Notice
  power : Notice
  store : Notice
  line : Notice
  issue : Notice
  journal : Notice
  minibar : Notice
  clock : Notice
  deriving DecidableEq, Repr

/-- What a cancel did (R58). -/
inductive CancelResult where
  | ended | marked | none
  deriving DecidableEq, Repr

/-- A slot of a minibar as NODE GET shows it (R13). -/
structure SlotShown where
  code : Nat
  baseline : Bool
  present : Option Bool
  missing : Bool
  line : Option PendingLine
  deriving DecidableEq, Repr

/-- A revocation list entry as CRED GET shows it (R43). -/
structure ListShown where
  place : Nat
  seq : Nat
  expiry : EndMinute
  reach : Groups
  carried : Nat
  deriving DecidableEq, Repr

/-- A door record as NODE GET shows it beside the door condition (R13). -/
structure ReleaseShown where
  cause : Option AlarmCause
  release : LastRelease
  deriving DecidableEq, Repr

/-- One line of a reply, by its named fields; its form and its characters are `RLine.form` and `TxLine.chars`
(R175, R197). -/
inductive RLine where
  | err (e : ErrCode)
  | ok
  | status (power : PowerState) (clock : ClockState) (minute second : Nat) (commissioned : Bool)
  | statusLink (errors chars : Nat) (holdOut deferred : Bool) (pending : List Bool)
  | statusEncoder (job : Option (JobKind × JobState × Nat)) (held : Bool)
  | statusLine (line : LineId) (running : Bool) (orders decisions : Nat) (cond : LineCond)
  | statusJournal (staged dropAdm dropOther uncollected mark oldest programmed accepted head spare : Nat)
      (writer : WriterState)
  | statusStore (places listed : Nat) (item : Option Work) (usableLog usableJournal : Nat)
      (readOnly stalled fault : Bool) (chargeWait : Nat)
  | commissioned (site : Nat) (name : List Byte)
  | identity (id : Option (Nat × List Byte))
  | clockSet (minute second : Nat) (state : ClockState)
  | clockGet (minute second minuteOfDay day : Nat) (state : ClockState)
  | settings (s : Settings)
  | room (i : Nat) (r : RoomEntry)
  | roomGet (i : Nat) (r : Room) (pendingTotal : Nat) (door bar : Option NodeName) (occupied : Bool)
      (barState : Option BarState)
  | lockout (value : Bool)
  | node (name : NodeName) (n : NodeEntry)
  | nodeGet (name : NodeName) (n : NodeEntry) (state : LinkState) (miss garble : Nat)
      (status : Option NodeStatus) (condition : DoorCondition) (door : Option ReleaseShown)
      (bar : Option BarState) (slots : List SlotShown)
  | codes (l : List Nat)
  | group (g : Nat) (e : GroupEntry)
  | groupState (r : ReleaseState) (placed owed disabled : Nat)
  | price (item : Nat) (p : PriceEntry)
  | issued (number slot : Nat) (issue : Option Nat) (validFrom : Nat) (validUntil : EndMinute)
  | cancelled (job : Option JobState) (result : CancelResult)
  | revoked (state : CredState) (reason : Option RevReason) (seq : Nat) (displaced : Bool)
  | checkout (revoked entered : Nat) (pending : Bool)
  | cred (slot : Nat) (rec : CredRec) (expiry : EndMinute) (listed : Option ListShown)
  | credListed (number : Nat) (reason : RevReason) (revokedAt : Nat) (listed : ListShown)
  | credCount (n : Nat)
  | readStarted
  | lastRead (r : ReadResult)
  | tab (tab limit discount pendingTotal : Nat) (bar : Option (NodeName × BarState)) (hold : Bool)
      (lines : Nat)
  | tabLine (slot : Nat) (line : PendingLine)
  | settled (amount : Nat)
  | hold (mark : Bool) (bar : Option BarState)
  | jread (first : Option Nat) (count : Nat) (atOldest : Bool) (accepted programmed mark : Nat)
  | record (r : JRec) (stored : Bool)
  | jrelease (mark uncollected : Nat)
  | unlock (time : Nat)
  | lineState (running : Bool)
  | lineReset (orders decisions : Nat)
  | lineSet (period timeout : Nat)
  | lineGet (running : Bool) (period timeout phase count orders decisions : Nat)
      (exch : Option (ExchKind × Nat × Leg)) (states : List (LinkState × Nat)) (cond : LineCond)
      (report : CondReport)
  | notices (enabled pending : List Bool)
  deriving DecidableEq, Repr

/-- The reply slot (R173): the tag, every line of the reply, and how many of them have been begun. -/
structure ReplySlot where
  tag : List (Fin 10)
  lines : List RLine
  begun : Nat
  deriving DecidableEq, Repr

/-- The form of a reply's line: what follows the tag (R175, R197). -/
inductive ReplyForm where
  | ok | accepted | err | continuation
  deriving DecidableEq, Repr

/-- The line the transmitter is sending (R177, R180). -/
inductive TxLine where
  | reply (tag : List (Fin 10)) (form : ReplyForm) (line : RLine)
  | notice (cls : NoticeClass) (count : Nat) (detail : Option Detail)
  deriving DecidableEq, Repr

/-- The inbound buffer (R170): complete requests, oldest first, and the partly received line with the
count of its characters that have arrived and its marks. -/
structure Inbound where
  requests : List (List Byte)
  part : List Byte
  seen : Nat
  bad : Bool
  overlong : Bool
  overflowed : Bool
  deriving DecidableEq, Repr

/-- The desk link interface (09). -/
structure Link where
  rate : LinkRate
  inbound : Inbound
  holdOut : Bool
  holdIn : Bool
  slot : Option ReplySlot
  deferred : Option (List (Fin 10) × Identity)
  deferredDone : Option (List (Fin 10) × List RLine)
  tx : Option TxLine
  notices : Notices
  errors : Nat
  deriving DecidableEq, Repr

/-- Space signals not yet acted on by the four that wait for them (R140, R161; notes/assumptions/8). -/
structure Signals where
  minibar : Bool
  credential : Bool
  overrun : Bool
  waiting : Bool
  deriving DecidableEq, Repr

/-! ## The part -/

/-- The whole part, with the queue of commands that wait. -/
structure State where
  power : PowerUnit
  clock : HotelClock
  rooms : FMap Room
  nodes : FMap Node
  groups : FMap GroupEntry
  prices : FMap PriceEntry
  settings : Settings
  cred : CredUnit
  enc : Encoder
  lines : PerLine Line
  journal : Journal
  store : Store
  link : Link
  signals : Signals
  freeUses : Nat
  pending : List Instr
  deriving DecidableEq, Repr

/-- Why a step could stop with a fault. The spec gives no command that stops the part, so there is none:
an empty type, which is safe (no step can claim to have stopped). -/
inductive Fault : Type
  deriving DecidableEq, Repr

/-- Why a step could be refused. -/
inductive Refusal where
  /-- Raised by an arm of `exec` whose command has no meaning yet; safe (nothing is claimed of it). -/
  | notModelled (mnemonic : String)
  deriving DecidableEq, Repr

/-! ## Start values -/

/-- The default settings (01 section 1.6). -/
def Settings.default : Settings where
  period := ⟨250, 250, 250, 250⟩
  timeout := ⟨5, 5, 5, 5⟩
  fresh := 10
  unlatch := 5
  latch := 20
  grace := 120
  checkout := 30
  wait := 15
  policy := .hold

/-- The start value of a group (01 section 1.2). -/
def GroupEntry.start : GroupEntry := ⟨false, .normal⟩

/-- The start value of a price (01 section 1.2). -/
def PriceEntry.start : PriceEntry := ⟨0, 0⟩

/-- A door record as it starts (R88). -/
def DoorRec.start : DoorRec := ⟨.closed, none, .none⟩

/-- A minibar record as it starts (R109). -/
def BarRec.start : BarRec := ⟨.locked, false, none, none, false, none, none, 0, []⟩

/-- A blank sector: every slot erased, usable (R153). -/
def Sector.blank {α : Type} : Sector α := ⟨[], false, false, false⟩

/-- An empty condition report. -/
def CondReport.empty : CondReport := ⟨0, 0, [], 0, 0, 0⟩

/-- A line master in DISABLED as a cold start leaves it (R65). -/
def Line.start : Line where
  running := false
  exch := none
  queue := []
  cycle := none
  phase := 1
  restart := true
  count := 0
  periodEnd := none
  tag := 0
  cond := .whole
  report := .empty

/-- A notice class after a cold start (R178). -/
def Notice.start : Notice := ⟨true, false, 0, none⟩

/-- The notice table after a cold start (R178). -/
def Notices.start : Notices :=
  ⟨.start, .start, .start, .start, .start, .start, .start, .start⟩

/-- An empty inbound buffer (R170). -/
def Inbound.empty : Inbound := ⟨[], [], 0, false, false, false⟩

/-- The desk link interface after a cold start at this rate, with HOLD_IN at this level (R170 to R178). -/
def Link.start (rate : LinkRate) (holdIn : Bool) : Link where
  rate := rate
  inbound := .empty
  holdOut := false
  holdIn := holdIn
  slot := none
  deferred := none
  deferredDone := none
  tx := none
  notices := .start
  errors := 0

/-- The encoder controller after a cold start, with CARD_IN at this level (R45, R49, R63). -/
def Encoder.start (cardIn : Bool) : Encoder := ⟨none, none, cardIn, none, none⟩

/-- The credential unit of an empty table log (R19, R23, R44). -/
def CredUnit.start : CredUnit := ⟨[], 0, [], 0⟩

/-- The journal unit of an empty journal region (R137, R141, R147, R186). -/
def Journal.start : Journal where
  staging := []
  nextSeq := 1
  mark := 0
  oldest := none
  newest := 0
  head := 40
  spare := 41
  writer := .writing
  dropAdm := 0
  dropOther := 0
  heldOverruns := []
  programmedMark := 0

/-- The store of a new part (R154, R160, R169). DESIGN CHOICE: the first append count is 1
(notes/assumptions/76). -/
def Store.start : Store where
  tlog := []
  jreg := []
  idPlaces := [.erased, .erased, .erased, .erased]
  identity := none
  nextAppend := 1
  head := 0
  queue := []
  waiting := []
  idRequest := none
  work := []
  engine := .idle
  suspended := none
  lastServed := .reclaimer
  readOnly := false
  stalled := false
  held := false

/-- No space signal waits. -/
def Signals.none : Signals := ⟨false, false, false, false⟩

/-- The START record of a new part's first cold start (R136, R187). -/
def startRecord : JRec where
  seq := 1
  minute := 0
  second := 0
  body := ⟨.start, none, none, none, .clean, .clock .invalid, .none⟩

/-- The part right after reset: a new part (R154) whose first cold start has just ended, the backup domain
having reported a loss (notes/assumptions/1, 2, 3). Its START record is staged (R187) and the store
engine has taken the program of it (R141, R157). -/
def State.reset : State where
  power := ⟨.run, true, false, false, none⟩
  clock := ⟨0, 0, .invalid, false⟩
  rooms := []
  nodes := []
  groups := []
  prices := []
  settings := .default
  cred := .start
  enc := .start false
  lines := ⟨.start, .start, .start, .start⟩
  journal := { Journal.start with staging := [startRecord], nextSeq := 2 }
  store := { Store.start with
    engine := .programming (.journal 40 startRecord), lastServed := .journalWriter }
  link := .start .r57600 false
  signals := .none
  freeUses := 0
  pending := []

end Sys2Proof.Machine
end

