-- ==== Sys2Proof/Machine/Formats.lean ====
section
/-!
DEFINITION. The byte layouts of Chapter 11: byte order, the two checks, the card image (R195) and the
wing-line frames (R196).
-/

namespace Sys2Proof.Machine

/-! ## Byte order and checks -/

/-- `n` as `k` bytes, least significant byte first (Chapter 11). -/
def leBytes : Nat → Nat → List Byte
  | 0, _ => []
  | k + 1, n => BitVec.ofNat 8 n :: leBytes k (n / 256)

/-- The number whose bytes these are, least significant byte first. -/
def ofLeBytes : List Byte → Nat
  | [] => 0
  | b :: t => b.toNat + 256 * ofLeBytes t

/-- The number held in `len` bytes from byte `off`. -/
def fieldAt (bytes : List Byte) (off len : Nat) : Nat := ofLeBytes ((bytes.drop off).take len)

/-- One bit of the CRC-16 with polynomial 0x1021, most significant bit first (R171, R196). -/
def crc16Bit (c : BitVec 16) : BitVec 16 := if c.msb then (c <<< 1) ^^^ 0x1021 else c <<< 1

/-- One byte of the CRC-16. -/
def crc16Byte (c : BitVec 16) (b : Byte) : BitVec 16 :=
  (List.range 8).foldl (fun r _ => crc16Bit r) (c ^^^ (b.setWidth 16 <<< 8))

/-- The CRC-16 over the bytes in order, its register starting at `init`. -/
def crc16 (init : BitVec 16) (bytes : List Byte) : BitVec 16 := bytes.foldl crc16Byte init

/-- One bit of the reflected CRC-32 with polynomial 0xEDB88320, least significant bit first (R195). -/
def crc32Bit (c : BitVec 32) : BitVec 32 := if c.getLsbD 0 then (c >>> 1) ^^^ 0xEDB88320 else c >>> 1

/-- One byte of the CRC-32. -/
def crc32Byte (c : BitVec 32) (b : Byte) : BitVec 32 :=
  (List.range 8).foldl (fun r _ => crc32Bit r) (c ^^^ b.setWidth 32)

/-- The check of a card image's bytes 0 to 123, its register starting at the site seed (R195). -/
def cardCheck (seed : Nat) (bytes : List Byte) : BitVec 32 :=
  bytes.foldl crc32Byte (BitVec.ofNat 32 seed)

/-! ## The card image (R195) -/

/-- The kind byte of a card (R195). -/
def CredKind.code : CredKind → Nat
  | .guest => 1
  | .staff => 2
  | .restock => 3
  | .master => 4

/-- The kind byte of a void image (R195). -/
def voidCode : Nat := 5

/-- The fields of a card image, before they are laid out (R47, R48). -/
structure ImageFields where
  version : Nat
  kind : Nat
  flags : Nat
  site : Nat
  number : Nat
  label : Nat
  room : Nat
  issue : Nat
  mask : Nat
  validFrom : Nat
  validUntil : Nat
  winStart : Nat
  winEnd : Nat
  encodeMinute : Nat
  grace : Nat
  entries : List (Nat × Nat)
  deriving DecidableEq, Repr

/-- The 72 bytes of the carried entries: those given, then zeros (R195). -/
def entryBytes (entries : List (Nat × Nat)) : List Byte :=
  ((entries.flatMap fun (e : Nat × Nat) => leBytes 4 e.1 ++ leBytes 2 e.2) ++ List.replicate 72 0).take 72

/-- Bytes 0 to 123 of the image (R195). -/
def imageBody (f : ImageFields) : List Byte :=
  leBytes 1 f.version ++ leBytes 1 f.kind ++ leBytes 1 f.flags ++ leBytes 1 f.entries.length ++
  leBytes 4 f.site ++ leBytes 4 f.number ++ leBytes 2 f.label ++ leBytes 2 f.room ++
  leBytes 2 f.issue ++ leBytes 2 f.mask ++ leBytes 4 f.validFrom ++ leBytes 4 f.validUntil ++
  leBytes 2 f.winStart ++ leBytes 2 f.winEnd ++ leBytes 4 f.encodeMinute ++ leBytes 2 f.grace ++
  List.replicate 14 0 ++ entryBytes f.entries

/-- The 128 bytes of the image (R195). -/
def imageBytes (seed : Nat) (f : ImageFields) : List Byte :=
  imageBody f ++ leBytes 4 (cardCheck seed (imageBody f)).toNat

/-- The kind a kind byte is shown as (R63). -/
def shownKind : Nat → ShownKind
  | 1 => .known .guest
  | 2 => .known .staff
  | 3 => .known .restock
  | 4 => .known .master
  | 5 => .void
  | n => .unknown n

/-- Every field of the image as read (R63, R195). -/
def cardFields (b : List Byte) : CardFields where
  version := fieldAt b 0 1
  kind := shownKind (fieldAt b 1 1)
  flags := BitVec.ofNat 8 (fieldAt b 2 1)
  carriedCount := fieldAt b 3 1
  site := fieldAt b 4 4
  number := fieldAt b 8 4
  label := fieldAt b 12 2
  room := fieldAt b 14 2
  issue := fieldAt b 16 2
  mask := BitVec.ofNat 16 (fieldAt b 18 2)
  validFrom := fieldAt b 20 4
  validUntil := fieldAt b 24 4
  winStart := fieldAt b 28 2
  winEnd := fieldAt b 30 2
  encodeMinute := fieldAt b 32 4
  grace := fieldAt b 36 2
  fill := (b.drop 38).take 14
  carried := (List.range 12).map fun k => (fieldAt b (52 + 6 * k) 4, fieldAt b (56 + 6 * k) 2)
  check := fieldAt b 124 4

/-- Whether a read image's check holds under this site seed (R195). -/
def checkHolds (seed : Nat) (b : List Byte) : Bool :=
  (cardCheck seed (b.take 124)).toNat == fieldAt b 124 4

/-! ## Wing-line frames (R196) -/

/-- The frame of this address, type and body, with its check (R196). -/
def frameBytes (addr type : Nat) (body : List Byte) : List Byte :=
  let checked := BitVec.ofNat 8 addr :: BitVec.ofNat 8 type :: BitVec.ofNat 8 body.length :: body
  0x7E :: checked ++ leBytes 2 (crc16 0 checked).toNat

/-- The code of an order kind (R196). -/
def OrderKind.code : OrderKind → Nat
  | .unlatch => 1
  | .denySignal => 2
  | .relatch => 3
  | .standalone => 4
  | .online => 5
  | .release => 6
  | .restore => 7

/-- The frame of a poll (R196). -/
def pollFrame (addr : Nat) : List Byte := frameBytes addr 1 []

/-- The frame of a directed order under its tag (R196). -/
def orderFrame (addr tag : Nat) (k : OrderKind) (param : Nat) : List Byte :=
  frameBytes addr 2 (leBytes 1 tag ++ leBytes 1 k.code ++ leBytes 1 param)

/-- The frame of a broadcast order (R196). -/
def broadcastFrame (k : OrderKind) (param : Nat) : List Byte :=
  frameBytes 0 3 (leBytes 1 k.code ++ leBytes 1 param)

/-- A PRESENTATION as the node read it (R79, R196). -/
structure Presentation where
  number : Nat
  issue : Nat
  kind : Nat
  room : Nat
  site : Nat
  age : Nat
  deriving DecidableEq, Repr

/-- The twelve slots of a minibar in order. -/
def allSlots : List Nat := rangeInc 1 12

/-- An event of a reply (R196); `unread` is one whose code or length the table does not give. -/
inductive NodeEvent where
  | none
  | presentation (p : Presentation)
  | doorOpened | doorClosed | doorForced | doorHeld
  | slots (present : SlotSet)
  | minibarDoor (isOpen : Bool)
  | unread
  deriving DecidableEq, Repr

/-- A reply frame that passes its check (R196). -/
structure ReplyFrame where
  addr : Nat
  status : NodeStatus
  more : Bool
  event : NodeEvent
  deriving DecidableEq, Repr

/-- The status byte with the tag echo (R196). -/
def readStatus (b : Byte) (echo : Nat) : NodeStatus :=
  ⟨b.getLsbD 0, b.getLsbD 1, b.getLsbD 2, b.getLsbD 3, b.getLsbD 4, echo⟩

/-- The event of this code and body (R196). DESIGN CHOICE: bits 12 to 15 of a SLOTS body, which R196 says are 0, are
ignored (notes/assumptions/28). -/
def readEvent (code : Nat) (body : List Byte) : NodeEvent :=
  match code, body.length with
  | 0, 0 => .none
  | 1, 14 => .presentation
      ⟨fieldAt body 0 4, fieldAt body 4 2, fieldAt body 6 1, fieldAt body 7 2, fieldAt body 9 4, fieldAt body 13 1⟩
  | 2, 0 => .doorOpened
  | 3, 0 => .doorClosed
  | 4, 0 => .doorForced
  | 5, 0 => .doorHeld
  | 6, 2 => .slots (BitVec.ofNat 12 (fieldAt body 0 2))
  | 7, 1 => if fieldAt body 0 1 = 1 then .minibarDoor true
            else if fieldAt body 0 1 = 0 then .minibarDoor false else .unread
  | _, _ => .unread

/-- A byte of a reply's body; of one that has no such byte, a free value (notes/assumptions/28). -/
def replyByte (body : List Byte) (k : Nat) : Byte := (body[k]?).getD (Config.shortReplyByte body k)

/-- The reply a REPLY body makes (R196); a body with no event byte has no event. -/
def replyOf (addr : Nat) (body : List Byte) : ReplyFrame :=
  let ev := replyByte body 2
  ⟨addr, readStatus (replyByte body 0) (replyByte body 1).toNat, ev.getLsbD 7,
    if body.length < 3 then .unread else readEvent (ev.toNat % 128) (body.drop 3)⟩

/-- The reply a received frame holds, or none where it fails its check (R66, R196): a wrong sync, an end before its
length says, a check that differs, or a type other than REPLY. -/
def readReply (frame : List Byte) : Option ReplyFrame :=
  match frame with
  | sync :: addr :: type :: len :: rest =>
    let n := len.toNat
    let body := rest.take n
    let checked := addr :: type :: len :: body
    if sync != 0x7E || decide (rest.length < n + 2) || (crc16 0 checked).toNat != fieldAt rest n 2 || type != 0x81
    then none
    else some (replyOf addr.toNat body)
  | _ => none

end Sys2Proof.Machine
end

