-- ==== Sys2Proof/Decode.lean ====
section
/-!
DEFINITION. The reader of desk lines (R171, R175, R197): from the characters of a line to the command that
carries its request. The rows of spec/opcode_table.json give no bits, so no word spells a command
(`decodeTableWord`).
-/

namespace Sys2Proof

open Sys2Proof.Machine

/-! ## Characters -/

/-- The characters of a string, as their codes. -/
def codes (s : String) : List Nat := s.toList.map Char.toNat

/-- Whether received characters spell a string. -/
def spells (b : List Byte) (s : String) : Bool := decide (b.map BitVec.toNat = codes s)

/-- The value of a decimal digit. -/
def digitVal (b : Byte) : Option Nat := if 48 ≤ b.toNat ∧ b.toNat ≤ 57 then some (b.toNat - 48) else none

/-- The value of a hexadecimal digit in either case (R171). -/
def hexVal (b : Byte) : Option Nat :=
  let n := b.toNat
  if 48 ≤ n ∧ n ≤ 57 then some (n - 48)
  else if 65 ≤ n ∧ n ≤ 70 then some (n - 55)
  else if 97 ≤ n ∧ n ≤ 102 then some (n - 87)
  else none

/-- The values of characters that all have one. -/
def allVals (f : Byte → Option Nat) : List Byte → Option (List Nat)
  | [] => some []
  | b :: t =>
    match f b, allVals f t with
    | some v, some l => some (v :: l)
    | _, _ => none

/-- The number these digits of a base spell. -/
def inBase (base : Nat) (l : List Nat) : Nat := l.foldl (fun m d => m * base + d) 0

/-- The parts between separators. -/
def splitAt (sep : Byte) : List Byte → List (List Byte)
  | [] => [[]]
  | b :: t =>
    match splitAt sep t with
    | [] => [[b]]
    | h :: r => if b = sep then [] :: h :: r else (b :: h) :: r

/-! ## The tests of a line (R171) -/

/-- A tag: 1 to 4 decimal digits. -/
def readTag (b : List Byte) : Option (List (Fin 10)) :=
  if b.length = 0 ∨ 4 < b.length then none
  else (allVals digitVal b).map fun l => l.map fun d => Fin.ofNat 10 d

/-- The characters before the `;` of a line whose check holds: its LF last, CR before it, four hexadecimal
digits before that, and a `;` ahead of them. -/
def checkedBody (line : List Byte) : Option (List Byte) :=
  match line.reverse with
  | 0x0A :: 0x0D :: d :: c :: b :: a :: 0x3B :: rest =>
    let body := rest.reverse
    match allVals hexVal [a, b, c, d] with
    | some v => if inBase 16 v = (crc16 0xFFFF body).toNat then some body else none
    | none => none
  | _ => none

/-- The request a line is, if it passes the tests of R171: its tag and the parts that follow the tag. -/
def readLine (line : List Byte) : Option (List (Fin 10) × List (List Byte)) :=
  match checkedBody line with
  | none => none
  | some body =>
    match splitAt 0x20 body with
    | [] => none
    | t :: parts => (readTag t).map fun tag => (tag, parts)

/-! ## Fields (R175, R197) -/

/-- A field as written: its key and its value. -/
abbrev Field := List Byte × List Byte

/-- A part read as `key=value`. -/
def readField (part : List Byte) : Option Field :=
  match part.span (fun b => b != 0x3D) with
  | (key, 0x3D :: value) => some (key, value)
  | _ => none

/-- The fields of a request, and whether it breaks the third test of R175. -/
structure Fields where
  list : List Field
  bad : Bool

/-- The parts of a request after its verb read as fields of these keys; a request whose last part is not the
empty one before `;` has no space there and is malformed (notes/assumptions/22). -/
def readFields (keys : List String) (parts : List (List Byte)) : Fields :=
  let closed := decide (parts.getLast? = some [])
  let read := parts.dropLast.map readField
  let fields := read.filterMap id
  ⟨fields, !closed || read.any Option.isNone || !(decide (fields.map Prod.fst).Nodup) ||
    fields.any fun f => !(keys.any fun k => spells f.1 k)⟩

/-- The value of a key, if the request carries it. -/
def Fields.get (f : Fields) (key : String) : Option (List Byte) :=
  (f.list.find? fun x => spells x.1 key).map Prod.snd

/-- A field's value read by its form. -/
def Fields.arg {α : Type} (f : Fields) (form : List Byte → Option α) (key : String) : Arg α :=
  match f.get key with
  | none => .absent
  | some v => match form v with
    | some x => .given x
    | none => .malformed

/-! ## The forms of values (R197) -/

/-- A number: 1 to 10 decimal digits. -/
def readNum (b : List Byte) : Option Nat :=
  if b.length = 0 ∨ 10 < b.length then none else (allVals digitVal b).map (inBase 10)

/-- One of these words. -/
def readWord {α : Type} (words : List (String × α)) (b : List Byte) : Option α :=
  (words.find? fun w => spells b w.1).map Prod.snd

/-- Numbers that are all well formed. -/
def readNums : List (List Byte) → Option (List Nat)
  | [] => some []
  | p :: t =>
    match readNum p, readNums t with
    | some n, some l => some (n :: l)
    | _, _ => none

/-- A set of numbers. -/
def readSet (b : List Byte) : Option (List Nat) :=
  match b with
  | 0x7B :: t =>
    match t.reverse with
    | 0x7D :: r => if r = [] then some [] else readNums (splitAt 0x2C r.reverse)
    | _ => none
  | _ => none

/-- A window: start and end. -/
def readWindow (b : List Byte) : Option (Nat × Nat) :=
  match readNums (splitAt 0x2C b) with
  | some [s, e] => some (s, e)
  | _ => none

/-- A name between double quotes. -/
def readName (b : List Byte) : Option (List Byte) :=
  match b with
  | 0x22 :: t =>
    match t.reverse with
    | 0x22 :: r => if 0x22 ∈ r then none else some r.reverse
    | _ => none
  | _ => none

/-- An end of validity: a number, or `open`. -/
def readEnd (b : List Byte) : Option EndMinute := if spells b "open" then some none else (readNum b).map some

/-- `yes` or `no`. -/
def readYes : List Byte → Option Bool := readWord [("yes", true), ("no", false)]

/-- `on` or `off`. -/
def readOn : List Byte → Option Bool := readWord [("on", true), ("off", false)]

/-- A node kind. -/
def readKind : List Byte → Option NodeKind :=
  readWord [("ROOM_DOOR", .roomDoor), ("COMMON_DOOR", .commonDoor), ("MINIBAR", .minibar)]

/-- A journal full policy. -/
def readPolicy : List Byte → Option Policy := readWord [("HOLD", .hold), ("OVERWRITE", .overwrite)]

/-- An issue mode. -/
def readMode : List Byte → Option IssueMode :=
  readWord [("NEW_STAY", .newStay), ("EXTRA_KEY", .extraKey), ("STAFF", .staff), ("RESTOCK", .restock),
    ("MASTER", .master)]

/-- A revocation reason; the reasons REVOKE takes are its rule's matter (R34). -/
def readReason : List Byte → Option RevReason :=
  readWord [("LOST", .lost), ("CHECKOUT", .checkout), ("SECURITY", .security), ("ISSUE_ABORTED", .issueAborted)]

/-! ## The catalogue of verbs (09 section 9.9) -/

/-- A verb: its words, the keys it takes, and its command. -/
structure Verb where
  words : String
  keys : List String
  make : ReqHead → Fields → Instr

/-- The keys of STOCK's slots, slot 1 first. -/
def slotKeys : List String := ["s1", "s2", "s3", "s4", "s5", "s6", "s7", "s8", "s9", "s10", "s11", "s12"]

/-- The verbs of the clock, the part and the site tables. -/
def tableVerbs : List Verb := [
  ⟨"STATUS", [], fun h _ => .status h⟩,
  ⟨"COMMISSION", ["site", "seed", "name"], fun h f =>
    .commission h (f.arg readNum "site") (f.arg readNum "seed") (f.arg readName "name")⟩,
  ⟨"IDENTITY", [], fun h _ => .identity h⟩,
  ⟨"CLOCK SET", ["minute", "second"], fun h f => .clockSet h (f.arg readNum "minute") (f.arg readNum "second")⟩,
  ⟨"CLOCK GET", [], fun h _ => .clockGet h⟩,
  ⟨"SETUP", ["fresh", "unlatch", "latch", "grace", "checkout", "wait", "policy"], fun h f =>
    .setup h (f.arg readNum "fresh") (f.arg readNum "unlatch") (f.arg readNum "latch") (f.arg readNum "grace")
      (f.arg readNum "checkout") (f.arg readNum "wait") (f.arg readPolicy "policy")⟩,
  ⟨"ROOM SET", ["room", "label", "access", "limit", "discount"], fun h f =>
    .roomSet h (f.arg readNum "room") (f.arg readNum "label") (f.arg readSet "access") (f.arg readNum "limit")
      (f.arg readNum "discount")⟩,
  ⟨"ROOM GET", ["room"], fun h f => .roomGet h (f.arg readNum "room")⟩,
  ⟨"ROOM RESET-ISSUE", ["room"], fun h f => .roomResetIssue h (f.arg readNum "room")⟩,
  ⟨"ROOM LOCKOUT", ["room", "lockout"], fun h f =>
    .roomLockout h (f.arg readNum "room") (f.arg readYes "lockout")⟩,
  ⟨"NODE SET", ["line", "addr", "kind", "pos", "room", "group", "enabled"], fun h f =>
    .nodeSet h (f.arg readNum "line") (f.arg readNum "addr") (f.arg readKind "kind") (f.arg readNum "pos")
      (f.arg readNum "room") (f.arg readNum "group") (f.arg readYes "enabled")⟩,
  ⟨"NODE GET", ["line", "addr"], fun h f => .nodeGet h (f.arg readNum "line") (f.arg readNum "addr")⟩,
  ⟨"NODE REMOVE", ["line", "addr"], fun h f => .nodeRemove h (f.arg readNum "line") (f.arg readNum "addr")⟩,
  ⟨"STOCK", ["line", "addr"] ++ slotKeys, fun h f =>
    .stock h (f.arg readNum "line") (f.arg readNum "addr") (slotKeys.map (f.arg readNum))⟩,
  ⟨"GROUP SET", ["group", "offline"], fun h f => .groupSet h (f.arg readNum "group") (f.arg readYes "offline")⟩,
  ⟨"GROUP RELEASE", ["group"], fun h f => .groupRelease h (f.arg readNum "group")⟩,
  ⟨"GROUP SECURE", ["group"], fun h f => .groupSecure h (f.arg readNum "group")⟩,
  ⟨"GROUP NORMAL", ["group"], fun h f => .groupNormal h (f.arg readNum "group")⟩,
  ⟨"PRICE SET", ["item", "price", "tax"], fun h f =>
    .priceSet h (f.arg readNum "item") (f.arg readNum "price") (f.arg readNum "tax")⟩,
  ⟨"PRICE GET", ["item"], fun h f => .priceGet h (f.arg readNum "item")⟩]

/-- The verbs of cards, tabs, the journal, the doors, the lines and the link. -/
def workVerbs : List Verb := [
  ⟨"ISSUE", ["mode", "room", "from", "until", "groups", "window", "minibar"], fun h f =>
    .issue h (f.arg readMode "mode") (f.arg readNum "room") (f.arg readNum "from") (f.arg readEnd "until")
      (f.arg readSet "groups") (f.arg readWindow "window") (f.arg readYes "minibar")⟩,
  ⟨"CANCEL", ["number"], fun h f => .cancel h (f.arg readNum "number")⟩,
  ⟨"REVOKE", ["number", "reason"], fun h f => .revoke h (f.arg readNum "number") (f.arg readReason "reason")⟩,
  ⟨"CHECKOUT", ["room"], fun h f => .checkout h (f.arg readNum "room")⟩,
  ⟨"CRED GET", ["number", "room"], fun h f => .credGet h (f.arg readNum "number") (f.arg readNum "room")⟩,
  ⟨"CARD READ", ["last"], fun h f =>
    if (f.get "last").isSome then .cardReadLast h (f.arg readYes "last") else .cardRead h⟩,
  ⟨"ENCODER RESET", [], fun h _ => .encoderReset h⟩,
  ⟨"TAB GET", ["room"], fun h f => .tabGet h (f.arg readNum "room")⟩,
  ⟨"TAB SETTLE", ["room"], fun h f => .tabSettle h (f.arg readNum "room")⟩,
  ⟨"MINIBAR HOLD", ["room", "hold"], fun h f => .minibarHold h (f.arg readNum "room") (f.arg readYes "hold")⟩,
  ⟨"JREAD", ["from", "count"], fun h f => .jread h (f.arg readNum "from") (f.arg readNum "count")⟩,
  ⟨"JRELEASE", ["through"], fun h f => .jrelease h (f.arg readNum "through")⟩,
  ⟨"DOOR UNLOCK", ["line", "addr", "time"], fun h f =>
    .doorUnlock h (f.arg readNum "line") (f.arg readNum "addr") (f.arg readNum "time")⟩,
  ⟨"LINE ENABLE", ["line"], fun h f => .lineEnable h (f.arg readNum "line")⟩,
  ⟨"LINE DISABLE", ["line"], fun h f => .lineDisable h (f.arg readNum "line")⟩,
  ⟨"LINE RESET", ["line"], fun h f => .lineReset h (f.arg readNum "line")⟩,
  ⟨"LINE SET", ["line", "period", "timeout"], fun h f =>
    .lineSet h (f.arg readNum "line") (f.arg readNum "period") (f.arg readNum "timeout")⟩,
  ⟨"LINE GET", ["line"], fun h f => .lineGet h (f.arg readNum "line")⟩,
  ⟨"NOTICES", ["alarm", "power", "store", "line", "issue", "journal", "minibar", "clock"], fun h f =>
    .notices h (f.arg readOn "alarm") (f.arg readOn "power") (f.arg readOn "store") (f.arg readOn "line")
      (f.arg readOn "issue") (f.arg readOn "journal") (f.arg readOn "minibar") (f.arg readOn "clock")⟩,
  ⟨"RESTART", [], fun h _ => .restart h⟩]

/-- The catalogue. -/
def catalogue : List Verb := tableVerbs ++ workVerbs

/-- The verb a request names, with the parts after it: two words where they name one, and otherwise one. DESIGN CHOICE:
a doubled space ahead of the verb makes an empty verb, which is refused E_VERB (R175; notes/assumptions/71). -/
def findVerb (parts : List (List Byte)) : Option (Verb × List (List Byte)) :=
  match parts with
  | [] => none
  | a :: t =>
    let two := match t with
      | [] => none
      | b :: r => (catalogue.find? fun (v : Verb) => spells (a ++ 0x20 :: b) v.words).map fun v => (v, r)
    match two with
    | some x => some x
    | none => (catalogue.find? fun (v : Verb) => spells a v.words).map fun v => (v, t)

/-- The command of a request: its tag and the parts after it; none for a verb not in the catalogue (R175). -/
def readRequest (tag : List (Fin 10)) (parts : List (List Byte)) : Option Instr :=
  (findVerb parts).map fun (v, rest) =>
    let f := readFields v.keys rest
    v.make ⟨tag, f.bad⟩ f

/-- The command a word of the table spells: none, since no row gives bits. -/
def decodeTableWord (_nbits _w : Nat) : Option Instr := none

end Sys2Proof
end

