-- ==== Sys2Proof/Machine/LineForms.lean ====
section
/-!
DEFINITION. The lines the part sends, character by character (09 section 9.1, R171, R175, R180, R197): the form of a
reply and of a notice, the forms of values, and the check. The spec gives the parts of a line and the forms of values;
the keys a reply's fields are written under, and the spelling of the names it gives, are the model's where the spec
shows none (DESIGN CHOICE, notes/assumptions/10). Keys are in lower case, and a word is in capitals, with `_` for a
space, but for `yes`, `no`, `on`, `off` and `open` (R197).
-/

namespace Sys2Proof.Machine

/-! ## Values (R197) -/

/-- Characters as they are sent. -/
abbrev Text := List Byte

/-- The characters of a word. -/
def wordText (w : String) : Text := w.toList.map fun c => BitVec.ofNat 8 c.toNat

/-- A number: its decimal digits, without leading zeros. -/
def numText (n : Nat) : Text := (Nat.toDigits 10 n).map fun c => BitVec.ofNat 8 c.toNat

/-- `yes` or `no`. -/
def yesText (b : Bool) : Text := wordText (if b then "yes" else "no")

/-- `on` or `off`. -/
def onText (b : Bool) : Text := wordText (if b then "on" else "off")

/-- A value that may be absent. -/
def optText {α : Type} (f : α → Text) : Option α → Text
  | some x => f x
  | none => wordText "NONE"

/-- Texts joined by a separating character. -/
def joinText (sep : Byte) : List Text → Text
  | [] => []
  | [x] => x
  | x :: t => x ++ sep :: joinText sep t

/-- Numbers separated by commas. -/
def commaText (l : List Nat) : Text := joinText 0x2C (l.map numText)

/-- A set: its members between braces. -/
def setText (l : List Nat) : Text := 0x7B :: commaText l ++ [0x7D]

/-- A wing line: its number. -/
def lineText : LineId → Text
  | .l1 => numText 1
  | .l2 => numText 2
  | .l3 => numText 3
  | .l4 => numText 4

/-- A node: its line, `/`, its address. -/
def nodeText (n : NodeName) : Text := lineText n.1 ++ 0x2F :: numText n.2

/-- A name between double quotes. -/
def nameText (b : List Byte) : Text := 0x22 :: b ++ [0x22]

/-- An end of validity: its minute, or `open`. -/
def endText : EndMinute → Text
  | some m => numText m
  | none => wordText "open"

/-- The members of a set of groups. -/
def groupList (g : Groups) : List Nat := (List.range 16).filter fun k => g.getLsbD k

/-- Bytes as numbers separated by commas. -/
def bytesText (b : List Byte) : Text := commaText (b.map BitVec.toNat)

/-- A field: its key, `=` and its value. -/
def field (key : String) (value : Text) : Text := wordText key ++ 0x3D :: value

/-- A field holding a number. -/
def numField (key : String) (n : Nat) : Text := field key (numText n)

/-- A field holding a word. -/
def wordField (key w : String) : Text := field key (wordText w)

/-- A field holding `yes` or `no`. -/
def yesField (key : String) (b : Bool) : Text := field key (yesText b)

/-! ## Names -/

/-- The name of a power state (R183). -/
def PowerState.name : PowerState → String
  | .run => "RUN" | .draining => "DRAINING" | .parked => "PARKED" | .off => "OFF"

/-- The name of a drain's cause (R190). -/
def DrainCause.name : DrainCause → String
  | .pfw => "PFW" | .restart => "RESTART"

/-- The name of a clock state (R1). -/
def ClockState.name : ClockState → String
  | .valid => "VALID" | .invalid => "INVALID"

/-- The name of a node kind. -/
def kindName : NodeKind → String
  | .roomDoor => "ROOM_DOOR" | .commonDoor => "COMMON_DOOR" | .minibar => "MINIBAR"

/-- The name of a journal full policy (R17). -/
def policyName : Policy → String
  | .hold => "HOLD" | .overwrite => "OVERWRITE"

/-- The name of a revocation reason (R19). -/
def reasonName : RevReason → String
  | .lost => "LOST" | .checkout => "CHECKOUT" | .security => "SECURITY" | .issueAborted => "ISSUE_ABORTED"

/-- The name of a leg. -/
def legName : Leg → String
  | .a => "A" | .b => "B"

/-- The name of a link state (R65). -/
def LinkState.name : LinkState → String
  | .unknown => "UNKNOWN" | .onA => "ON_A" | .onB => "ON_B" | .lost => "LOST" | .disabled => "DISABLED"

/-- The key a link state's count is written under (R86, R197). -/
def LinkState.key : LinkState → String
  | .unknown => "unknown" | .onA => "ona" | .onB => "onb" | .lost => "lost" | .disabled => "disabled"

/-- The name of a door condition (R88). -/
def DoorCondition.name : DoorCondition → String
  | .closed => "CLOSED" | .opened => "OPEN" | .alarm => "ALARM"

/-- The name of an alarm cause (R88). -/
def AlarmCause.name : AlarmCause → String
  | .forced => "FORCED" | .held => "HELD"

/-- A last release (R88). -/
def LastRelease.text : LastRelease → Text
  | .none => wordText "NONE"
  | .card n => numText n
  | .remote => wordText "REMOTE"

/-- The name of a minibar state (R109). -/
def BarState.name : BarState → String
  | .locked => "LOCKED" | .openGuest => "OPEN_GUEST" | .settling => "SETTLING" | .chargeWait => "CHARGE_WAIT"
  | .openRestock => "OPEN_RESTOCK" | .held => "HELD"

/-- The name of a release state. -/
def ReleaseState.name : ReleaseState → String
  | .normal => "NORMAL" | .released => "RELEASED" | .secured => "SECURED"

/-- The name of a credential kind (R19). -/
def CredKind.name : CredKind → String
  | .guest => "GUEST" | .staff => "STAFF" | .restock => "RESTOCK" | .master => "MASTER"

/-- The kind of a read card (R63). -/
def ShownKind.name : ShownKind → String
  | .known k => k.name
  | .void => "VOID"
  | .unknown _ => "UNKNOWN"

/-- The name of a credential state (R22). -/
def CredState.name : CredState → String
  | .pending => "PENDING" | .active => "ACTIVE" | .superseded => "SUPERSEDED" | .revoked => "REVOKED"
  | .lapsed => "LAPSED"

/-- The name of a job kind (R49). -/
def JobKind.name : JobKind → String
  | .issue => "ISSUE" | .read => "READ"

/-- The name of a job state (R49). -/
def JobState.name : JobState → String
  | .preparing => "PREPARING" | .waitingCard => "WAITING_CARD" | .writing => "WRITING" | .verifying => "VERIFYING"
  | .voiding => "VOIDING" | .reading => "READING"

/-- The name of a job's cause (R55). -/
def JobCause.name : JobCause → String
  | .noCard => "NO_CARD" | .writeFault => "WRITE_FAULT" | .verifyFault => "VERIFY_FAULT"
  | .headTimeout => "HEAD_TIMEOUT" | .cancelled => "CANCELLED"

/-- The name of a job's outcome (R55). -/
def JobOutcome.name : JobOutcome → String
  | .success => "SUCCESS" | .released => "RELEASED" | .aborted => "ABORTED"

/-- The name of a cancel's result (R58). -/
def CancelResult.name : CancelResult → String
  | .ended => "ENDED" | .marked => "MARKED" | .none => "NONE"

/-- The name of an order kind (R70). -/
def OrderKind.name : OrderKind → String
  | .unlatch => "UNLATCH" | .denySignal => "DENY_SIGNAL" | .relatch => "RELATCH" | .standalone => "STANDALONE"
  | .online => "ONLINE" | .release => "RELEASE" | .restore => "RESTORE"

/-- What an outstanding exchange carries, as LINE GET shows it (R86). -/
def ExchKind.name : ExchKind → String
  | .poll false => "POLL" | .poll true => "REPOLL" | .order o => o.kind.name | .owedMode => "OWED_MODE"
  | .owedGroup => "OWED_GROUP" | .broadcast o => o.kind.name | .drainStandalone => "STANDALONE"
  | .removed => "REMOVED"

/-- The name of a line condition's kind (R81). -/
def LineCond.name : LineCond → String
  | .whole => "WHOLE" | .split _ => "SPLIT" | .irregular => "IRREGULAR" | .dark => "DARK"

/-- The p of a line condition, 0 for the other kinds (R82). -/
def LineCond.after : LineCond → Nat
  | .split p => p
  | _ => 0

/-- The outcome of a decision (05 section 5.2, 06 section 6.4). -/
def Decision.name : Decision → String
  | .grant => "GRANT" | .grantOverride => "GRANT_OVERRIDE" | .grantHeld => "GRANT_HELD" | .denyStale => "DENY_STALE"
  | .denySite => "DENY_SITE" | .denyVoid => "DENY_VOID" | .denyUnknown => "DENY_UNKNOWN"
  | .denyRevoked => "DENY_REVOKED" | .denySuperseded => "DENY_SUPERSEDED" | .denyExpired => "DENY_EXPIRED"
  | .denyMismatch => "DENY_MISMATCH" | .denyNotYet => "DENY_NOT_YET" | .denyWindow => "DENY_WINDOW"
  | .denyWrongRoom => "DENY_WRONG_ROOM" | .denyLockout => "DENY_LOCKOUT" | .denyGroup => "DENY_GROUP"
  | .denyPrivacy => "DENY_PRIVACY" | .denySecured => "DENY_SECURED" | .denyNoPrivilege => "DENY_NO_PRIVILEGE"
  | .denyChargeWait => "DENY_CHARGE_WAIT" | .denyHeld => "DENY_HELD" | .denyInUse => "DENY_IN_USE"
  | .denyNotReady => "DENY_NOT_READY" | .denyTabLimit => "DENY_TAB_LIMIT"

/-- Why an order was lost (R136). -/
def LostCause.name : LostCause → String
  | .undelivered => "UNDELIVERED" | .disabled => "DISABLED" | .reset => "RESET" | .drain => "DRAIN"
  | .removed => "REMOVED"

/-- Why a sector was retired (R136). -/
def RetireCause.name : RetireCause → String
  | .spoiledSlots => "SPOILED_SLOTS" | .eraseFailed => "ERASE_FAILED"

/-- The kind of a journal record (07 section 7.2). -/
def JKind.name : JKind → String
  | .admitted => "ADMIT" | .refuse => "REFUSE" | .remoteUnlock => "REMOTE_UNLOCK" | .doorOpened => "DOOR_OPENED"
  | .doorForced => "DOOR_FORCED" | .doorHeld => "DOOR_HELD" | .orderLost => "ORDER_LOST"
  | .groupState => "GROUP_STATE" | .lockout => "LOCKOUT" | .issued => "ISSUED" | .issueFailed => "ISSUE_FAILED"
  | .revoked => "REVOKED" | .checkout => "CHECKOUT" | .revocationDisplaced => "REVOCATION_DISPLACED"
  | .minibarOpen => "MINIBAR_OPEN" | .charge => "CHARGE" | .lateReturn => "LATE_RETURN"
  | .minibarTamper => "MINIBAR_TAMPER" | .restock => "RESTOCK" | .settle => "SETTLE" | .nodeLost => "NODE_LOST"
  | .nodeRestored => "NODE_RESTORED" | .lineCondition => "LINE_CONDITION" | .clockStep => "CLOCK_STEP"
  | .gap => "GAP" | .overrun => "OVERRUN" | .storeFault => "STORE_FAULT" | .start => "START"
  | .powerDown => "POWER_DOWN"

/-- A record's value. -/
def JVal.text : JVal → Text
  | .num n => numText n
  | .decision d => wordText d.name
  | .lostCause c => wordText c.name
  | .order k => wordText k.name
  | .release r => wordText r.name
  | .yesNo b => yesText b
  | .cause c => wordText c.name
  | .freed => wordText "FREED"
  | .aborted => wordText "ABORTED"
  | .reason r => wordText (reasonName r)
  | .openEnd => wordText "open"
  | .guest => wordText "GUEST"
  | .restock => wordText "RESTOCK"
  | .link l => wordText l.name
  | .cond c => wordText c.name
  | .retire c => wordText c.name
  | .clean => wordText "CLEAN"
  | .unclean => wordText "UNCLEAN"
  | .clock c => wordText c.name
  | .drain c => wordText c.name
  | .complete => wordText "COMPLETE"
  | .incomplete => wordText "INCOMPLETE"
  | .card => wordText "GRANT"
  | .remote => wordText "REMOTE"
  | .noRelease => wordText "NONE"
  | .door c => wordText c.name

/-- The name of a writer's state (07 section 7.5). -/
def WriterState.name : WriterState → String
  | .writing => "WRITING" | .waitingSpare => "WAITING_SPARE" | .full => "FULL" | .overrun => "OVERRUN"
  | .fault => "FAULT"

/-- The name of a kind of erase work (R159). -/
def WorkKind.name : WorkKind → String
  | .reclaim => "RECLAIM" | .evacuation => "EVACUATION" | .journalErase => "JOURNAL_ERASE" | .startUp => "START_UP"

/-- An error code (R175). -/
def ErrCode.name : ErrCode → String
  | .verb => "E_VERB" | .field => "E_FIELD" | .notFound => "E_NOT_FOUND" | .state => "E_STATE" | .busy => "E_BUSY"
  | .full => "E_FULL" | .locked => "E_LOCKED" | .store => "E_STORE" | .clock => "E_CLOCK" | .power => "E_POWER"
  | .uncommissioned => "E_UNCOMMISSIONED"

/-- A notice class (R177). -/
def NoticeClass.name : NoticeClass → String
  | .alarm => "ALARM" | .power => "POWER" | .store => "STORE" | .line => "LINE" | .issue => "ISSUE"
  | .journal => "JOURNAL" | .minibar => "MINIBAR" | .clock => "CLOCK"

/-! ## The fields of a reply's lines -/

/-- The fields of a node entry (01 section 1.4). -/
def NodeEntry.fields (name : NodeName) (n : NodeEntry) : List Text :=
  [field "node" (nodeText name), wordField "kind" (kindName n.kind), numField "pos" n.pos,
    field "room" (optText numText n.room), numField "group" n.group, yesField "enabled" n.enabled]

/-- The fields of a node entry that a MINIBAR has besides: its slot item codes and its baseline (01 section 1.4). -/
def NodeEntry.barFields (n : NodeEntry) : List Text :=
  if n.kind = .minibar then
    [field "codes" (commaText n.codes), field "baseline" (setText (allSlots.filter n.baseline.has))]
  else []

/-- The fields of a room entry (01 section 1.3). -/
def RoomEntry.fields (i : Nat) (r : RoomEntry) : List Text :=
  [numField "room" i, numField "label" r.label, field "access" (setText (groupList r.access)),
    numField "issue" r.issue, yesField "lockout" r.lockout, numField "tab" r.tab, numField "limit" r.limit,
    numField "discount" r.discount]

/-- The fields of a last status (R78). -/
def NodeStatus.text (x : NodeStatus) : Text :=
  joinText 0x2C [yesText x.doorOpen, yesText x.latchReleased, yesText x.privacy, yesText x.batteryLow,
    yesText x.tamper, numText x.echo]

/-- A slot of a minibar (R13). -/
def SlotShown.text (x : SlotShown) : Text :=
  joinText 0x2C ([numText x.code, yesText x.baseline, optText yesText x.present, yesText x.missing] ++
    match x.line with
    | some l => [numText l.amount, numText l.item, numText l.issue, numText l.minute]
    | none => [])

/-- The settings (R17). -/
def Settings.fields (s : Settings) : List Text :=
  [field "period" (commaText [s.period.l1, s.period.l2, s.period.l3, s.period.l4]),
    field "timeout" (commaText [s.timeout.l1, s.timeout.l2, s.timeout.l3, s.timeout.l4]),
    numField "fresh" s.fresh, numField "unlatch" s.unlatch, numField "latch" s.latch, numField "grace" s.grace,
    numField "checkout" s.checkout, numField "wait" s.wait, wordField "policy" (policyName s.policy)]

/-- The fields of a list entry (R43). -/
def ListShown.fields (x : ListShown) : List Text :=
  [numField "place" x.place, numField "seq" x.seq, field "listexpiry" (endText x.expiry),
    field "reach" (setText (groupList x.reach)), numField "carried" x.carried]

/-- The fields of a credential record that apply to its kind (R19, R43). -/
def CredRec.fields (slot : Nat) (r : CredRec) (expiry : EndMinute) : List Text :=
  [numField "number" r.number, numField "slot" slot, wordField "kind" r.kind.name, wordField "state" r.state.name] ++
  (match r.kind with
    | .guest => [numField "room" r.room, numField "issue" r.issue, yesField "minibar" r.minibar]
    | .staff | .restock =>
      [field "groups" (setText (groupList r.mask)), field "window" (commaText [r.winStart, r.winEnd])]
    | .master => []) ++
  [numField "from" r.validFrom, field "until" (endText r.validUntil), field "expiry" (endText expiry)] ++
  match r.reason with
    | some x => [wordField "reason" (reasonName x), numField "revoked" r.revokedAt]
    | none => []

/-- The fields of a card as read (R63, R195). -/
def CardFields.fields (c : CardFields) : List Text :=
  [numField "version" c.version, wordField "kind" c.kind.name, numField "flags" c.flags.toNat,
    numField "carried" c.carriedCount, numField "site" c.site, numField "number" c.number, numField "label" c.label,
    numField "room" c.room, numField "issue" c.issue, field "groups" (setText (groupList c.mask)),
    numField "from" c.validFrom, numField "until" c.validUntil, field "window" (commaText [c.winStart, c.winEnd]),
    numField "encoded" c.encodeMinute, numField "grace" c.grace, field "fill" (bytesText c.fill),
    field "entries" (commaText (c.carried.flatMap fun e => [e.1, e.2])), numField "check" c.check]

/-- A value that may be unknown. -/
def unknownText {α : Type} (f : α → Text) : Option α → Text
  | some x => f x
  | none => wordText "UNKNOWN"

/-- The fields of a read result (R63). -/
def ReadResult.fields : ReadResult → List Text
  | .card c holds site key listed =>
    c.fields ++ [field "holds" (unknownText yesText holds), field "sitematch" (unknownText yesText site),
      field "state" (unknownText (fun k => wordText (CredState.name k)) key)] ++
    (match listed with
      | some x => [numField "seq" x.1, wordField "reason" (reasonName x.2)]
      | none => [])
  | .noCard => [wordField "result" "NO_CARD"]
  | .headTimeout => [wordField "result" "HEAD_TIMEOUT"]
  | .cancelled => [wordField "result" "CANCELLED"]

/-- The fields of a journal record (R135, R136). -/
def JRec.fields (r : JRec) : List Text :=
  [numField "seq" r.seq, numField "minute" r.minute, numField "second" r.second,
    wordField "kind" r.body.kind.name, field "node" (optText nodeText r.body.node),
    field "number" (optText numText r.body.cred), field "room" (optText numText r.body.room),
    field "v1" r.body.v1.text, field "v2" r.body.v2.text] ++
  match r.body.part with
  | .none => []
  | .charge item slot issue saturation prior =>
    [numField "item" item, numField "slot" slot, numField "issue" issue, yesField "saturation" saturation,
      yesField "prior" prior]
  | .settle why => [wordField "reason" (match why with
      | .newStay => "NEW_STAY"
      | .desk => "DESK")]
  | .group g => [numField "group" g]

/-- The fields of a line condition and its report (R81, R86). -/
def condFields (c : LineCond) (r : CondReport) : List Text :=
  [wordField "condition" c.name, numField "p" c.after] ++
  match c with
  | .split _ => [field "gap" (commaText [r.gapFrom, r.gapTo]), field "lostin" (setText r.lostIn),
      numField "lostout" r.lostOut]
  | .irregular => [numField "lowb" r.lowestB, numField "higha" r.highestA]
  | _ => []

/-- The eight classes' marks, in the order of R177. -/
def classMarks (l : List Bool) : Text := joinText 0x2C (l.map onText)

/-- The fields of one line of a reply, in the order its rule gives them. DESIGN CHOICE: a value of several parts, for
which R197 gives no form (an exchange, a last status, a slot, the marks of the classes, a work item and its sector, the
four periods, the entries of a card, a gap), has its parts joined by commas, and the LOST positions in a gap are
written as a set (notes/assumptions/10). -/
def RLine.fields : RLine → List Text
  | .err e => [wordText e.name]
  | .ok => []
  | .status p c m s has =>
    [wordField "power" p.name, wordField "clock" c.name, numField "minute" m, numField "second" s,
      yesField "commissioned" has]
  | .statusLink e n out deferred pending =>
    [numField "errors" e, numField "chars" n, field "holdout" (onText out), yesField "deferred" deferred,
      field "pending" (classMarks pending)]
  | .statusEncoder job held =>
    (match job with
      | some (k, st, n) => [wordField "job" k.name, wordField "state" st.name, numField "number" n]
      | none => [wordField "job" "IDLE"]) ++ [yesField "held" held]
  | .statusLine i run orders decisions cond =>
    [field "line" (lineText i), wordField "state" (if run then "RUNNING" else "DISABLED"), numField "orders" orders,
      numField "decisions" decisions, wordField "condition" cond.name, numField "p" cond.after]
  | .statusJournal staged adm other uncollected mark oldest programmed accepted head spare writer =>
    [numField "staged" staged, numField "dropadm" adm, numField "dropother" other,
      numField "uncollected" uncollected, numField "mark" mark, numField "oldest" oldest,
      numField "programmed" programmed, numField "accepted" accepted, numField "head" head, numField "spare" spare,
      wordField "writer" writer.name]
  | .statusStore places listed item log journal readOnly stalled fault wait =>
    [numField "places" places, numField "work" listed,
      field "item" (optText (fun w => wordText (WorkKind.name w.kind) ++ 0x2C :: numText w.sector) item),
      numField "usablelog" log, numField "usablejournal" journal, yesField "readonly" readOnly,
      yesField "stalled" stalled, yesField "fault" fault, numField "chargewait" wait]
  | .commissioned site name => [numField "site" site, field "name" (nameText name)]
  | .identity id =>
    yesField "commissioned" id.isSome :: (match id with
      | some (site, name) => [numField "site" site, field "name" (nameText name)]
      | none => [])
  | .clockSet m s st => [numField "minute" m, numField "second" s, wordField "state" st.name]
  | .clockGet m s mod day st =>
    [numField "minute" m, numField "second" s, numField "minuteofday" mod, numField "day" day,
      wordField "state" st.name]
  | .settings s => s.fields
  | .room i r => r.fields i
  | .roomGet i r pending door bar occupied barState =>
    r.entry.fields i ++ [yesField "privacy" r.privacy, yesField "hold" r.hold, numField "pending" pending,
      field "door" (optText nodeText door), field "minibar" (optText nodeText bar), yesField "occupied" occupied,
      field "state" (optText (fun b => wordText (BarState.name b)) barState)]
  | .lockout v => [yesField "lockout" v]
  | .node name n => n.fields name ++ n.barFields
  | .nodeGet name n link miss garble last condition door bar slots =>
    n.fields name ++ [wordField "link" link.name, numField "miss" miss, numField "garble" garble,
      field "status" (optText NodeStatus.text last), wordField "door" condition.name] ++
    (match door with
      | some d => [field "cause" (optText (fun c => wordText (AlarmCause.name c)) d.cause),
          field "release" d.release.text]
      | none => []) ++
    (match bar with
      | some b => [wordField "state" b.name]
      | none => []) ++ slots.mapIdx fun k x => wordText "s" ++ numText (k + 1) ++ 0x3D :: x.text
  | .codes l => [field "codes" (commaText l)]
  | .group g e => [numField "group" g, yesField "offline" e.offline, wordField "state" e.release.name]
  | .groupState r placed owed disabled =>
    [wordField "state" r.name, numField "placed" placed, numField "owed" owed, numField "disabled" disabled]
  | .price item p => [numField "item" item, numField "price" p.price, numField "tax" p.tax]
  | .issued n slot issue fromMinute untilMinute =>
    [numField "number" n, numField "slot" slot, field "issue" (optText numText issue), numField "from" fromMinute,
      field "until" (endText untilMinute)]
  | .cancelled job result =>
    [wordField "state" (match job with
      | some st => st.name
      | none => "IDLE"), wordField "result" result.name]
  | .revoked st reason seq displaced =>
    [wordField "state" st.name, field "reason" (optText (fun r => wordText (reasonName r)) reason),
      numField "seq" seq, yesField "displaced" displaced]
  | .checkout gone entered pending =>
    [numField "revoked" gone, numField "entered" entered, yesField "pending" pending]
  | .cred slot r expiry listed =>
    r.fields slot expiry ++ (match listed with
      | some x => x.fields
      | none => [])
  | .credListed number reason revokedAt x =>
    [numField "number" number, wordField "state" "NONE", wordField "reason" (reasonName reason),
      numField "revoked" revokedAt] ++ x.fields
  | .credCount n => [numField "count" n]
  | .readStarted => []
  | .lastRead r => r.fields
  | .tab owed limit discount pending bar mark lines =>
    [numField "tab" owed, numField "limit" limit, numField "discount" discount, numField "pending" pending,
      field "minibar" (optText (fun b => nodeText (Prod.fst b) ++ 0x2C :: wordText (BarState.name b.2)) bar),
      yesField "hold" mark, numField "count" lines]
  | .tabLine slot l =>
    [numField "slot" slot, numField "item" l.item, numField "amount" l.amount, numField "issue" l.issue,
      numField "minute" l.minute]
  | .settled n => [numField "settled" n]
  | .hold mark bar => [yesField "hold" mark, field "state" (optText (fun b => wordText (BarState.name b)) bar)]
  | .jread first count atOldest accepted programmed mark =>
    [field "first" (optText numText first), numField "count" count, yesField "oldest" atOldest,
      numField "accepted" accepted, numField "programmed" programmed, numField "mark" mark]
  | .record r stored => r.fields ++ [wordField "mark" (if stored then "STORED" else "STAGED")]
  | .jrelease mark uncollected => [numField "mark" mark, numField "uncollected" uncollected]
  | .unlock time => [numField "time" time]
  | .lineState run => [wordField "state" (if run then "RUNNING" else "DISABLED")]
  | .lineReset orders decisions => [numField "orders" orders, numField "decisions" decisions]
  | .lineSet period timeout => [numField "period" period, numField "timeout" timeout]
  | .lineGet run period timeout phase count orders decisions exch states cond report =>
    [wordField "state" (if run then "RUNNING" else "DISABLED"), numField "period" period, numField "timeout" timeout,
      numField "phase" phase, numField "count" count, numField "orders" orders, numField "decisions" decisions,
      field "exchange" (optText (fun x => wordText (ExchKind.name x.1) ++ 0x2C :: numText x.2.1 ++
        0x2C :: wordText (legName x.2.2)) exch)] ++
    states.map (fun x => numField (LinkState.key x.1) x.2) ++ condFields cond report
  | .notices enabled pending => [field "enabled" (classMarks enabled), field "pending" (classMarks pending)]

/-! ## The detail of a notice -/

/-- The fields of an occurrence's detail, as the rule that posts it gives them (R180). DESIGN CHOICE: what R113 calls
"minibar door" is written MINIBAR_DOOR, since a value holds no space (R197; notes/assumptions/10). -/
def Detail.fields : Detail → List Text
  | .displaced n => [numField "number" n, wordField "event" "DISPLACED"]
  | .tamper n => [field "node" (nodeText n), wordField "event" "TAMPER"]
  | .forced n => [field "node" (nodeText n), wordField "event" "FORCED"]
  | .held n => [field "node" (nodeText n), wordField "event" "HELD"]
  | .minibarDoor n => [field "node" (nodeText n), wordField "event" "MINIBAR_DOOR"]
  | .slots n => [field "node" (nodeText n), wordField "event" "SLOTS"]
  | .draining c => [wordField "state" "DRAINING", wordField "cause" c.name]
  | .parked => [wordField "state" "PARKED"]
  | .sector n c => [numField "sector" n, wordField "cause" c.name]
  | .readOnly => [wordField "event" "READ_ONLY"]
  | .journalFault => [wordField "event" "JOURNAL_FAULT"]
  | .stalled => [wordField "event" "STALLED"]
  | .node n => [field "node" (nodeText n)]
  | .battery n => [field "node" (nodeText n), wordField "event" "BATTERY"]
  | .lineCond i c => [field "line" (lineText i), wordField "condition" c.name, numField "p" c.after]
  | .issueEnd n o c =>
    [numField "number" n, wordField "outcome" o.name,
      field "cause" (optText (fun x => wordText (JobCause.name x)) c)]
  | .readEnd r => r.fields
  | .half n => [wordField "level" "HALF", numField "uncollected" n]
  | .near n => [wordField "level" "NEAR", numField "uncollected" n]
  | .full n => [wordField "level" "FULL", numField "uncollected" n]
  | .overrun first last => [wordField "event" "OVERRUN", numField "first" first, numField "last" last]
  | .exhausted => [wordField "event" "EXHAUSTED"]
  | .tabLimit room sum => [numField "room" room, numField "sum" sum]
  | .charges room n => [numField "room" room, numField "waiting" n]
  | .clock old new => [numField "old" old, numField "new" new]

/-! ## Lines (09 section 9.1, R171, R175, R180, R197) -/

/-- The form a reply takes with this first line: a refusal, work begun that ends later (ISSUE and CARD READ without
`last=`), or a request carried out (R175, R176). -/
def RLine.form : RLine → ReplyForm
  | .err _ => .err
  | .issued _ _ _ _ _ | .readStarted => .accepted
  | _ => .ok

/-- What follows the tag in a line of this form (R197). -/
def ReplyForm.text : ReplyForm → Text
  | .ok => wordText "OK"
  | .accepted => wordText "ACCEPTED"
  | .err => wordText "ERR"
  | .continuation => wordText "+"

/-- A tag as the request wrote it, leading zeros included (R175). -/
def tagText (tag : List (Fin 10)) : Text := tag.map fun d => BitVec.ofNat 8 (48 + d.val)

/-- The parts of a line, before its ` ;`. -/
def TxLine.parts : TxLine → List Text
  | .reply tag form x => tagText tag :: form.text :: x.fields
  | .notice cls count detail =>
    [wordText "*", wordText cls.name, numField "count" count] ++
    match detail with
    | some d => d.fields
    | none => []

/-- The characters before the `;`: the parts separated by single spaces, and a space. -/
def TxLine.body (x : TxLine) : Text := joinText 0x20 x.parts ++ [0x20]

/-- A hexadecimal digit in upper case. -/
def hexDigit (n : Nat) : Byte := BitVec.ofNat 8 (if n < 10 then 48 + n else 55 + n)

/-- A check: four hexadecimal digits, most significant first (R171). -/
def checkText (c : BitVec 16) : Text :=
  [hexDigit (c.toNat / 4096), hexDigit (c.toNat / 256 % 16), hexDigit (c.toNat / 16 % 16), hexDigit (c.toNat % 16)]

/-- Characters closed as a line: `;`, the check over them, CR and LF. -/
def closeLine (body : Text) : Text := body ++ 0x3B :: checkText (crc16 0xFFFF body) ++ [0x0D, 0x0A]

/-- The characters of the line the transmitter sends. -/
def TxLine.chars (x : TxLine) : Text := closeLine x.body

end Sys2Proof.Machine
end

