-- ==== Sys2Proof/Machine/Ops.lean ====
section
/-!
DEFINITION. The named operations the blocks share: changing one part of the state, the lookups, the
notice table (R178), the journal unit's acceptance (R137 to R139), the table change queue and the
waiting set (R160), the order queues (R70), and the reply slot (R173).
-/

namespace Sys2Proof.Machine

/-! ## Changing one part of the state -/

/-- The state with its power part changed by `f`. -/
def State.onPower (s : State) (f : PowerUnit → PowerUnit) : State := { s with power := f s.power }
/-- The state with its clock part changed by `f`. -/
def State.onClock (s : State) (f : HotelClock → HotelClock) : State := { s with clock := f s.clock }
/-- The state with its rooms part changed by `f`. -/
def State.onRooms (s : State) (f : FMap Room → FMap Room) : State := { s with rooms := f s.rooms }
/-- The state with its nodes part changed by `f`. -/
def State.onNodes (s : State) (f : FMap Node → FMap Node) : State := { s with nodes := f s.nodes }
/-- The state with its groups part changed by `f`. -/
def State.onGroups (s : State) (f : FMap GroupEntry → FMap GroupEntry) : State := { s with groups := f s.groups }
/-- The state with its prices part changed by `f`. -/
def State.onPrices (s : State) (f : FMap PriceEntry → FMap PriceEntry) : State := { s with prices := f s.prices }
/-- The state with its settings part changed by `f`. -/
def State.onSettings (s : State) (f : Settings → Settings) : State := { s with settings := f s.settings }
/-- The state with its cred part changed by `f`. -/
def State.onCred (s : State) (f : CredUnit → CredUnit) : State := { s with cred := f s.cred }
/-- The state with its enc part changed by `f`. -/
def State.onEnc (s : State) (f : Encoder → Encoder) : State := { s with enc := f s.enc }
/-- The state with its lines part changed by `f`. -/
def State.onLines (s : State) (f : PerLine Line → PerLine Line) : State := { s with lines := f s.lines }
/-- The state with its journal part changed by `f`. -/
def State.onJournal (s : State) (f : Journal → Journal) : State := { s with journal := f s.journal }
/-- The state with its store part changed by `f`. -/
def State.onStore (s : State) (f : Store → Store) : State := { s with store := f s.store }
/-- The state with its link part changed by `f`. -/
def State.onLink (s : State) (f : Link → Link) : State := { s with link := f s.link }
/-- The state with its signals part changed by `f`. -/
def State.onSignals (s : State) (f : Signals → Signals) : State := { s with signals := f s.signals }
/-- The state with its freeUses part changed by `f`. -/
def State.onFreeUses (s : State) (f : Nat → Nat) : State := { s with freeUses := f s.freeUses }
/-- The state with its pending part changed by `f`. -/
def State.onPending (s : State) (f : List Instr → List Instr) : State := { s with pending := f s.pending }

/-! ## Lines, nodes, groups, prices -/

/-- The number of a wing line, 1 to 4. -/
def lineNum : LineId → Nat
  | .l1 => 1
  | .l2 => 2
  | .l3 => 3
  | .l4 => 4

/-- The wing line of this number. -/
def lineOfNat : Nat → Option LineId
  | 1 => some .l1
  | 2 => some .l2
  | 3 => some .l3
  | 4 => some .l4
  | _ => none

/-- The four wing lines in order. -/
def allLines : List LineId := [.l1, .l2, .l3, .l4]

/-- The value for a line. -/
def PerLine.get {α : Type} (p : PerLine α) : LineId → α
  | .l1 => p.l1
  | .l2 => p.l2
  | .l3 => p.l3
  | .l4 => p.l4

/-- The values with the one for a line replaced. -/
def PerLine.set {α : Type} (p : PerLine α) (i : LineId) (v : α) : PerLine α :=
  match i with
  | .l1 => { p with l1 := v }
  | .l2 => { p with l2 := v }
  | .l3 => { p with l3 := v }
  | .l4 => { p with l4 := v }

/-- The key a node is held under. -/
def nodeKey (line : LineId) (addr : Nat) : Nat := lineNum line * 128 + addr

/-- The line a node key lies on. -/
def keyLine (k : Nat) : LineId := (lineOfNat (k / 128)).getD .l1

/-- The address of a node key. -/
def keyAddr (k : Nat) : Nat := k % 128

/-- The node at a line and address, if present. -/
def State.node (s : State) (line : LineId) (addr : Nat) : Option Node := s.nodes.get (nodeKey line addr)

/-- The state with the node at a key changed, where one is present. -/
def State.modNodeAt (s : State) (key : Nat) (f : Node → Node) : State :=
  match s.nodes.get key with
  | none => s
  | some n => s.onNodes fun m => m.put key (f n)

/-- The state with the node at a line and address changed, where one is present. -/
def State.modNode (s : State) (line : LineId) (addr : Nat) (f : Node → Node) : State :=
  s.modNodeAt (nodeKey line addr) f

/-- The line master of a line. -/
def State.line (s : State) (i : LineId) : Line := s.lines.get i

/-- The state with one line master changed. -/
def State.modLine (s : State) (i : LineId) (f : Line → Line) : State :=
  s.onLines fun p => p.set i (f (p.get i))

/-- The state with the room of this index changed, where it is defined. -/
def State.modRoom (s : State) (i : Nat) (f : Room → Room) : State :=
  match s.rooms.get i with
  | none => s
  | some r => s.onRooms fun m => m.put i (f r)

/-- A group's entry. -/
def State.group (s : State) (g : Nat) : GroupEntry := (s.groups.get g).getD .start

/-- The group table with one entry changed; an entry at its start value is not listed. -/
def putGroup (m : FMap GroupEntry) (g : Nat) (e : GroupEntry) : FMap GroupEntry :=
  m.set g (if e = .start then none else some e)

/-- An item code's price entry. -/
def State.price (s : State) (item : Nat) : PriceEntry := (s.prices.get item).getD .start

/-- The price table with one entry changed; an entry at its start value is not listed. -/
def putPrice (m : FMap PriceEntry) (item : Nat) (e : PriceEntry) : FMap PriceEntry :=
  m.set item (if e = .start then none else some e)

/-- The groups whose offline flag is set (R38). -/
def State.offlineGroups (s : State) : Groups :=
  s.groups.foldl (fun m e => if e.2.offline then m ||| ((1 : Groups) <<< e.1) else m) 0

/-- The node of this kind bound to a room, if any (R6, R12). -/
def State.boundNode (s : State) (kind : NodeKind) (room : Nat) : Option (Nat × Node) :=
  s.nodes.find? fun e => decide (e.2.entry.kind = kind) && decide (e.2.entry.room = some room)

/-- The name of the node at a key. -/
def nodeName (k : Nat) : NodeName := (keyLine k, keyAddr k)

/-- The sum of a minibar's pending lines (R9). -/
def linesTotal (l : FMap PendingLine) : Nat := (l.map fun e => e.2.amount).sum

/-- A room's pending-line total (R9). -/
def State.pendingTotal (s : State) (room : Nat) : Nat :=
  match s.boundNode .minibar room with
  | none => 0
  | some e => linesTotal e.2.bar.lines

/-- A minibar's state at rest, by its room's hold mark (R109). -/
def State.restState (s : State) (room : Option Nat) : BarState :=
  match room.bind s.rooms.get with
  | some r => if r.hold then .held else .locked
  | none => .locked

/-! ## Power -/

/-- Whether the part is at work, so that its blocks act: RUN, or a drain that has not ended (R191, R193). -/
def State.working (s : State) : Bool :=
  match s.power.state with
  | .run => true
  | .draining => match s.power.drain with
    | some d => !d.ended
    | none => false
  | _ => false

/-- Whether the power state is RUN. -/
def State.running (s : State) : Bool := decide (s.power.state = .run)

/-- Whether the power state is DRAINING. -/
def State.draining (s : State) : Bool := decide (s.power.state = .draining)

/-! ## Notices (R178) -/

/-- The notice classes in the order of R177. -/
def allClasses : List NoticeClass := [.alarm, .power, .store, .line, .issue, .journal, .minibar, .clock]

/-- A class's entry. -/
def Notices.get (t : Notices) : NoticeClass → Notice
  | .alarm => t.alarm
  | .power => t.power
  | .store => t.store
  | .line => t.line
  | .issue => t.issue
  | .journal => t.journal
  | .minibar => t.minibar
  | .clock => t.clock

/-- The table with a class's entry replaced. -/
def Notices.set (t : Notices) (c : NoticeClass) (n : Notice) : Notices :=
  match c with
  | .alarm => { t with alarm := n }
  | .power => { t with power := n }
  | .store => { t with store := n }
  | .line => { t with line := n }
  | .issue => { t with issue := n }
  | .journal => { t with journal := n }
  | .minibar => { t with minibar := n }
  | .clock => { t with clock := n }

/-- A class's entry after an occurrence (R178). -/
def Notice.occur (n : Notice) (d : Detail) : Notice :=
  if n.enabled then { n with pending := true, count := satSucc 255 n.count, detail := some d } else n

/-- An occurrence posted to a class (R178). -/
def post (c : NoticeClass) (d : Detail) (s : State) : State :=
  s.onLink fun l => { l with notices := l.notices.set c ((l.notices.get c).occur d) }

/-! ## The journal unit's acceptance -/

/-- Whether the journal condition is FAULT or EXHAUSTED (R138). -/
def Journal.shut (j : Journal) : Bool := decide (j.writer = .fault) || decide (max32 < j.nextSeq)

/-- Whether drops are owed (R139). -/
def Journal.owed (j : Journal) : Bool := decide (0 < j.dropAdm) || decide (0 < j.dropOther)

/-- Whether a money record would be accepted (R138). -/
def Journal.takesMoney (j : Journal) : Bool := !j.shut && decide (j.staging.length ≤ 63)

/-- The oldest retained sequence: the next sequence while no sector holds records (R143; notes/assumptions/31). -/
def Journal.oldestRetained (j : Journal) : Nat := j.oldest.getD j.nextSeq

/-- The uncollected count (R150). -/
def Journal.uncollected (j : Journal) : Nat := j.newest - j.mark

/-- A dropped record counted in its tally (R139). -/
def Journal.tally (j : Journal) (k : JKind) : Journal :=
  if k = .admitted ∨ k = .refuse then { j with dropAdm := satSucc max32 j.dropAdm }
  else { j with dropOther := satSucc max32 j.dropOther }

/-- The OVERRUN record of a range of sequences (R145). -/
def overrunBody (r : Nat × Nat) : JBody := ⟨.overrun, none, none, none, .num r.1, .num r.2, .none⟩

/-- The GAP record that writes out the tallies (R139). -/
def Journal.gapBody (j : Journal) : JBody :=
  ⟨.gap, none, none, none, .num j.dropAdm, .num j.dropOther, .none⟩

/-- Held OVERRUN records dropped and tallied, once the journal is shut (R138). -/
def Journal.dropHeld (j : Journal) : Journal :=
  if j.shut then { j.heldOverruns.foldl (fun j _ => j.tally .overrun) j with heldOverruns := [] } else j

/-- The journal with a record accepted, stamped with this time (R135, R137). -/
def Journal.append (j : Journal) (c : HotelClock) (b : JBody) : Journal :=
  { j with staging := j.staging ++ [⟨j.nextSeq, c.minute, c.second, b⟩], nextSeq := j.nextSeq + 1 }

/-- A record accepted: it takes the next sequence and the stamp of the hotel clock; the record that takes
the last sequence exhausts the journal (R137). -/
def acceptRec (b : JBody) (s : State) : State :=
  let s1 := s.onJournal fun j => (j.append s.clock b).dropHeld
  if s.journal.nextSeq = max32 then post .journal .exhausted s1 else s1

/-- A dropped record (R138, R139). -/
def dropRec (b : JBody) (s : State) : State := s.onJournal fun j => j.tally b.kind

/-- The GAP record accepted and the tallies it writes out returned to 0 (R139). -/
def acceptGap (s : State) : State :=
  acceptRec s.journal.gapBody (s.onJournal fun j => { j with dropAdm := 0, dropOther := 0 })

/-- A non-money record offered (R138, R139). DESIGN CHOICE: with drops owed and one sequence left the GAP takes it and
the record is dropped (notes/assumptions/64). -/
def offer (b : JBody) (s : State) : State :=
  if s.journal.shut then dropRec b s
  else if s.journal.owed then
    if s.journal.staging.length ≤ 54 then
      if (acceptGap s).journal.shut then dropRec b (acceptGap s) else acceptRec b (acceptGap s)
    else dropRec b s
  else if s.journal.staging.length ≤ 55 then acceptRec b s
  else dropRec b s

/-- A money record offered; none where it is not accepted (R138). -/
def offerMoney (b : JBody) (s : State) : Option State :=
  if s.journal.takesMoney then some (acceptRec b s) else none

/-- An OVERRUN record offered: accepted, held, or dropped (R138, R145). -/
def offerOverrun (r : Nat × Nat) (s : State) : State :=
  if s.journal.shut then dropRec (overrunBody r) s
  else if s.journal.staging.length ≤ 63 then acceptRec (overrunBody r) s
  else s.onJournal fun j => { j with heldOverruns := j.heldOverruns ++ [r] }

/-! ## The table change queue (R160) -/

/-- An entry's contents in the working tables. -/
def State.entryVal (s : State) : EntryKey → EntryVal
  | .cred k => .cred (s.cred.slots.get k)
  | .room i => .room ((s.rooms.get i).map Room.entry)
  | .node line addr => .node ((s.node line addr).map Node.entry)
  | .group g => .group (s.group g)
  | .price i => .price (s.price i)
  | .listPlace i => .listPlace (s.cred.list.get i)
  | .serial => .serial s.cred.serial
  | .settings => .settings s.settings
  | .journalState => .journalState ⟨s.journal.mark, s.journal.oldestRetained⟩

/-- Whether an entry has a place. -/
def Store.hasPlace (t : Store) (k : EntryKey) : Bool := t.queue.any fun p => decide (p.key = k)

/-- Whether the queue can take these entries and `extra` further ones, an entry with a place counting as
placed. -/
def Store.canQueue (t : Store) (keys : List EntryKey) (extra : Nat) : Bool :=
  decide (t.queue.length + (keys.dedup.filter fun k => !t.hasPlace k).length + extra ≤ Config.changePlaces)

/-- A place's contents replaced (R160). -/
def replaceIn (k : EntryKey) (v : EntryVal) (q : List ChangePlace) : List ChangePlace :=
  q.map fun p => if p.key = k then ⟨k, v, true⟩ else p

/-- A change offered to the queue: into the entry's place, into a new place, or, with no place free, its
entry into the waiting set. Producers whose rule refuses or waits test for a place first. -/
def Store.offerChange (t : Store) (k : EntryKey) (v : EntryVal) : Store :=
  if t.hasPlace k then { t with queue := replaceIn k v t.queue }
  else if t.queue.length < Config.changePlaces then
    { t with queue := t.queue ++ [⟨k, v, true⟩], waiting := t.waiting.filter (fun w => decide (w ≠ k)) }
  else if k ∈ t.waiting then t
  else { t with waiting := t.waiting ++ [k] }

/-- A table entry queued with its contents in the working tables (R160). -/
def enqueue (k : EntryKey) (s : State) : State := s.onStore fun t => t.offerChange k (s.entryVal k)

/-! ## Order queues (R70) -/

/-- Whether a line master places an order of this class. -/
def Line.places (l : Line) (c : OrderClass) : Bool :=
  l.running && match c with
    | .decision => decide (l.queue.length < Config.orderPlaces)
    | .other => decide (l.queue.length < Config.otherOrderPlaces)

/-- An order offered to a line's queue; left out where the line master does not place it. -/
def placeOrder (i : LineId) (o : Order) (s : State) : State :=
  if (s.line i).places o.cls then s.modLine i fun l => { l with queue := l.queue ++ [o] } else s

/-- How many decision orders a line's queue holds. -/
def Line.decisions (l : Line) : Nat := (l.queue.filter fun o => decide (o.cls = .decision)).length

/-! ## Replies (R173, R175) -/

/-- A reply placed in the reply slot. -/
def placeReply (tag : List (Fin 10)) (lines : List RLine) (s : State) : State :=
  s.onLink fun l => { l with slot := some ⟨tag, lines, 0⟩ }

/-- How a verb answers: a reply with the state it leaves, a reply that is deferred (R174), or a refusal,
which changes nothing (R175). -/
inductive Answer where
  | reply (s : State) (lines : List RLine)
  | later (s : State)
  | refuse (e : ErrCode)

/-- The state after an answer, its reply in the slot (R173, R175). -/
def answer (tag : List (Fin 10)) (s : State) : Answer → State
  | .reply s' lines => placeReply tag lines s'
  | .later s' => s'
  | .refuse e => placeReply tag [.err e] s

/-- The tests every verb meets first (R175): the power state, then the field test; `always` names the two
verbs that are answered while DRAINING. -/
def common (always : Bool) (h : ReqHead) (s : State) (k : Answer) : Answer :=
  if s.draining && !always then .refuse .power
  else if h.badField then .refuse .field
  else k

/-- A request that changes a table entry, its tests in the order of R5: fields, existence, the table's
rules, read-only tables, a place for each entry changed. -/
def tableRequest (s : State) (fieldFault missing breaksRule : Bool) (keys : List EntryKey) (k : Answer) :
    Answer :=
  if fieldFault then .refuse .field
  else if missing then .refuse .notFound
  else if breaksRule then .refuse .state
  else if s.store.readOnly then .refuse .store
  else if !s.store.canQueue keys 0 then .refuse .busy
  else k

/-- Whether a request is taken now: the part takes requests, the reply slot is empty and no completed
deferred reply waits (R173, R191, R193). -/
def State.takesRequest (s : State) : Bool :=
  s.working && s.link.slot.isNone && s.link.deferredDone.isNone

end Sys2Proof.Machine
end

