-- ==== Sys2Proof/Machine/Operands.lean ====
section
/-!
DEFINITION. The operand forms of requests: reading a field that may be absent, malformed or out of its
range (R5, R175, R197), clamping and rounding (00 section 4.6, R17).
-/

namespace Sys2Proof.Machine

/-- The value given, if one is. -/
def argGet {α : Type} : Arg α → Option α
  | .given v => some v
  | _ => none

/-- Whether the field was carried, in whatever form. -/
def argSent {α : Type} : Arg α → Bool
  | .absent => false
  | _ => true

/-- A field that must be carried is missing or malformed. -/
def argMissing {α : Type} : Arg α → Bool
  | .given _ => false
  | _ => true

/-- A field that may be left out is malformed. -/
def argMalformed {α : Type} : Arg α → Bool
  | .malformed => true
  | _ => false

/-- A required number is missing, malformed or outside `lo` to `hi`. -/
def badReq (a : Arg Nat) (lo hi : Nat) : Bool :=
  match a with
  | .given n => decide (n < lo) || decide (hi < n)
  | _ => true

/-- An optional number is malformed or outside `lo` to `hi`. -/
def badOpt (a : Arg Nat) (lo hi : Nat) : Bool :=
  match a with
  | .given n => decide (n < lo) || decide (hi < n)
  | .malformed => true
  | .absent => false

/-- An optional set is malformed, repeats a member or holds one above 15 (R197). -/
def badSet (a : Arg (List Nat)) : Bool :=
  match a with
  | .given l => !(decide l.Nodup) || l.any (fun g => decide (15 < g))
  | .malformed => true
  | .absent => false

/-- The set of groups of these members. -/
def groupsOf (l : List Nat) : Groups := l.foldl (fun m g => m ||| ((1 : Groups) <<< g)) 0

/-- The number given, or 0 where none is; used only where a test has required it. -/
def argNat (a : Arg Nat) : Nat := (argGet a).getD 0

/-- The value given, or the one held. -/
def argOr {α : Type} (a : Arg α) (held : α) : α := (argGet a).getD held

/-- A number clamped to a range (00 section 4.6). -/
def clamp (lo hi n : Nat) : Nat := if n < lo then lo else if hi < n then hi else n

/-- The value given, clamped, or the one held. -/
def argClamp (a : Arg Nat) (lo hi held : Nat) : Nat :=
  match argGet a with
  | some n => clamp lo hi n
  | none => held

/-- A reply timeout rounded up to the next of 2, 5, 10 and 20; above 20 gives 20 (01 section 1.6). -/
def roundTimeout (n : Nat) : Nat := if n ≤ 2 then 2 else if n ≤ 5 then 5 else if n ≤ 10 then 10 else 20

/-- The wing line a field names, where it is 1 to 4. -/
def argLine (a : Arg Nat) : Option LineId := (argGet a).bind lineOfNat

end Sys2Proof.Machine
end

