-- ==== Sys2Proof/Machine/Flags.lean ====
section
/-!
DEFINITION. The part's own signals: the transmitter's choice of its next line (R177, R180), HOLD_OUT (R172),
and the space signals (R140, R161).
-/

namespace Sys2Proof.Machine

/-! ## The transmitter -/

/-- The next line of the reply in the slot that has not been begun (R177). -/
def ReplySlot.next (r : ReplySlot) : Option RLine := r.lines[r.begun]?

/-- The form of the next line: the reply's own for its first line, and a continuation after it (R175, R197). -/
def ReplySlot.nextForm (r : ReplySlot) (x : RLine) : ReplyForm := if r.begun = 0 then x.form else .continuation

/-- The first pending class in the order of R177. -/
def Notices.firstPending (t : Notices) : Option NoticeClass := allClasses.find? fun c => (t.get c).pending

/-- A class's entry once its notice line has been begun (R180). -/
def Notice.sent (n : Notice) : Notice := { n with pending := false, count := 0, detail := none }

/-- The link with the transmitter given its next line, if it is free and has one (R177); `notices` says
whether a notice may be begun. -/
def Link.beginLine (l : Link) (notices : Bool) : Link :=
  if l.tx.isSome || l.holdIn then l
  else match l.slot.bind fun r => r.next.map fun x => (r, x) with
  | some (r, x) => { l with tx := some (.reply r.tag (r.nextForm x) x), slot := some { r with begun := r.begun + 1 } }
  | none =>
    if l.slot.isSome || !notices then l
    else match l.notices.firstPending with
    | none => l
    | some c =>
      let n := l.notices.get c
      { l with tx := some (.notice c n.count n.detail), notices := l.notices.set c n.sent }

/-- Whether notices may be begun: not once a drain has ended in a part that is about to start again
(R191; notes/assumptions/15). -/
def State.sendsNotices (s : State) : Bool := s.working || decide (s.power.state = .parked)

/-- The transmitter begins its next line, if it can (R177, R193). -/
def pumpTx (s : State) : State :=
  if s.power.state = .off then s else s.onLink fun l => l.beginLine s.sendsNotices

/-! ## HOLD_OUT -/

/-- The characters the inbound buffer holds (R170). -/
def Inbound.chars (b : Inbound) : Nat := (b.requests.map List.length).sum + b.part.length

/-- HOLD_OUT after the count has changed (R172). -/
def Link.testHold (l : Link) : Link :=
  if 1536 ≤ l.inbound.chars then { l with holdOut := true }
  else if l.inbound.chars ≤ 512 then { l with holdOut := false }
  else l

/-! ## Space signals -/

/-- The journal unit signals space (R140). -/
def journalSpace (s : State) : State :=
  s.onSignals fun g => { g with minibar := true, credential := true, overrun := true }

/-- The store unit signals space (R161). -/
def tableSpace (s : State) : State :=
  s.onSignals fun g => { g with minibar := true, credential := true, waiting := true }

end Sys2Proof.Machine
end

