-- ==== Sys2Proof/Machine/JournalUnit.lean ====
section
/-!
DEFINITION. The journal writer: the circle of sectors, the head-full test, the OVERWRITE path, the levels,
and what an erase's completion or a retirement does to the head, the spare and the retained range
(R141 to R151).
-/

namespace Sys2Proof.Machine

/-! ## Sectors (R153) -/

/-- Whether every slot is erased. -/
def Sector.erased {α : Type} (c : Sector α) : Bool := c.cells.isEmpty && !c.cut && !c.awaitErase

/-- Whether a program may go into the sector: it is usable and has an erased slot above the last used. -/
def Sector.hasSlot {α : Type} (c : Sector α) : Bool :=
  !c.retired && !c.cut && !c.awaitErase && decide (c.cells.length < Config.sectorSlots)

/-- The count of spoiled slots (R153). -/
def Sector.spoiledCount {α : Type} (c : Sector α) : Nat := (c.cells.filter Option.isNone).length

/-- The records the sector offers; one found interrupted offers none (R169). -/
def Sector.recs {α : Type} (c : Sector α) : List α := if c.awaitErase then [] else c.cells.filterMap id

/-- The sectors with one changed; a blank sector is not listed. -/
def putSector {α : Type} [DecidableEq α] (m : FMap (Sector α)) (k : Nat) (c : Sector α) : FMap (Sector α) :=
  m.set k (if c = .blank then none else some c)

/-- A sector of the journal region. -/
def Store.jsec (t : Store) (k : Nat) : Sector JRec := (t.jreg.get k).getD .blank

/-- A sector of the table log. -/
def Store.tsec (t : Store) (k : Nat) : Sector LogRec := (t.tlog.get k).getD .blank

/-- A journal sector changed. -/
def Store.modJ (t : Store) (k : Nat) (f : Sector JRec → Sector JRec) : Store :=
  { t with jreg := putSector t.jreg k (f (t.jsec k)) }

/-- A table-log sector changed. -/
def Store.modT (t : Store) (k : Nat) (f : Sector LogRec → Sector LogRec) : Store :=
  { t with tlog := putSector t.tlog k (f (t.tsec k)) }

/-- The sector with its next slot programmed: a record, or spoiled. -/
def Sector.program {α : Type} (x : Option α) (c : Sector α) : Sector α := { c with cells := c.cells ++ [x] }

/-! ## The circle (R141) -/

/-- The journal sectors after `k` in circle order, `k` itself left out. -/
def circleAfter (k : Nat) : List Nat := rangeInc (k + 1) 127 ++ rangeInc 40 (k - 1)

/-- The next usable sector after `k` in circle order. -/
def Store.nextUsable (t : Store) (k : Nat) : Option Nat := (circleAfter k).find? fun i => !(t.jsec i).retired

/-- How many journal sectors are usable. -/
def Store.usableJournal (t : Store) : Nat :=
  ((rangeInc 40 127).filter fun i => !(t.jsec i).retired).length

/-- The newest sequence a sector holds, 0 for none. -/
def newestIn (c : Sector JRec) : Nat := c.recs.foldl (fun m r => max m r.seq) 0

/-- Whether a sector is reclaimable under this collected mark (R142). -/
def reclaimable (mark : Nat) (c : Sector JRec) : Bool := c.recs.all fun r => decide (r.seq ≤ mark)

/-- The sector serving as spare. -/
def State.spareSec (s : State) : Sector JRec := s.store.jsec s.journal.spare

/-- Whether the head is full: no usable slot remains in it (R141). -/
def State.headFull (s : State) : Bool := !(s.store.jsec s.journal.head).hasSlot

/-- The spare chosen after the present head (R141). -/
def chooseSpare (s : State) : State :=
  s.onJournal fun j => { j with spare := (s.store.nextUsable j.head).getD j.spare }

/-! ## A full head (R144 to R146) -/

/-- The OVERWRITE path, less the offer of its record: the mark is raised past the spare, the journal-state
entry is queued, the occurrence is posted (R145). -/
def raiseMark (s : State) : State :=
  let newMark := newestIn s.spareSec
  let s1 := s.onJournal fun j => { j with mark := newMark, writer := .overrun }
  post .journal (.overrun (s.journal.mark + 1) newMark) (enqueue .journalState s1)

/-- The sequences the OVERWRITE path gives up (R145). -/
def State.overrunRange (s : State) : Nat × Nat := (s.journal.mark + 1, newestIn s.spareSec)

/-- The OVERWRITE path (R145). -/
def overrunPath (s : State) : State := offerOverrun s.overrunRange (raiseMark s)

/-- The head moves to the erased spare, and the next usable sector becomes the spare (R142). -/
def moveJournalHead (s : State) : State :=
  chooseSpare (s.onJournal fun j => { j with head := j.spare, writer := .writing })

/-- The writer enters FULL and posts its occurrence (R144). -/
def enterFull (s : State) : State :=
  post .journal (.full s.journal.uncollected) (s.onJournal fun j => { j with writer := .full })

/-- The head-full test (R142, R144, R145), made when the head becomes full and whenever a full head's
spare changes. -/
def headFullTest (s : State) : State :=
  if s.spareSec.erased then moveJournalHead s
  else if reclaimable s.journal.mark s.spareSec then s.onJournal fun j => { j with writer := .waitingSpare }
  else match s.settings.policy with
    | .hold => enterFull s
    | .overwrite => overrunPath s

/-- The head-full test where it is due. -/
def testHead (s : State) : State :=
  if s.headFull && decide (s.journal.writer ≠ .fault) then headFullTest s else s

/-! ## Faults and retirement (R151, R168) -/

/-- Whether an item has been begun at the engine. -/
def Store.begun (t : Store) (w : Work) : Bool :=
  (match t.engine with
   | .erasing e => decide (e.work = w)
   | _ => false) ||
  (match t.suspended with
   | some e => decide (e.work = w)
   | none => false)

/-- The journal is declared in FAULT (R151, R168): pre-erases not begun are abandoned, held OVERRUN records
are dropped and tallied (R138). -/
def declareFault (s : State) : State :=
  let s1 := s.onJournal fun j => ({ j with writer := .fault } : Journal).dropHeld
  post .store .journalFault
    (s1.onStore fun t => { t with work := t.work.filter fun w => decide (w.kind ≠ .journalErase) || t.begun w })

/-- What the retirement of journal sector `k` does to the head and the spare (R141, R142, R145, R168). -/
def journalRetired (k : Nat) (s : State) : State :=
  if s.journal.writer = .fault then s
  else if s.store.usableJournal < 2 then declareFault s
  else if k = s.journal.head then testHead s
  else if k = s.journal.spare then testHead (chooseSpare s)
  else s

/-! ## Erases (R142, R143, R147) -/

/-- The sectors still in the retained range once the spare `k` has been erased: those from it round to the head, in
circle order. The retired sectors between the head and the spare have been passed over (R143). -/
def rangeAfter (k head : Nat) : List Nat :=
  (circleAfter k).takeWhile (fun i => decide (i ≠ head)) ++ [head]

/-- The oldest retained sequence once the spare `k` has been erased: the first of the next sector in circle order
that holds records, none with no such sector. A retired sector passed over on an earlier round holds records older
than the range and is not counted again (R143; notes/assumptions/31). -/
def oldestAfter (k : Nat) (s : State) : Option Nat :=
  ((rangeAfter k s.journal.head).findSome? fun i =>
    (s.store.jsec i).recs.head?.filter fun r => decide (s.journal.oldestRetained ≤ r.seq)).map JRec.seq

/-- The journal writer learns that sector `k` has been erased (R142, R143, R147); in FAULT it takes no
action (R159). The erase of a sector other than the spare changes nothing a full head waits for. -/
def journalErased (k : Nat) (s : State) : State :=
  if s.journal.writer = .fault then s
  else if k = s.journal.spare then
    testHead (enqueue .journalState (s.onJournal fun j => { j with oldest := oldestAfter k s }))
  else enqueue .journalState s

/-- Whether the erase of the spare is due: it is neither erased nor listed for erasure, it is reclaimable,
and a journal-state entry holding a mark at or above its newest sequence has been programmed (R142). -/
def State.preEraseDue (s : State) : Bool :=
  decide (s.journal.writer ≠ .fault) && !s.spareSec.erased && !s.spareSec.retired &&
  reclaimable s.journal.mark s.spareSec && decide (newestIn s.spareSec ≤ s.journal.programmedMark) &&
  !(s.store.work.any fun w => decide (w.sector = s.journal.spare))

/-! ## Levels (R150) -/

/-- The occurrence posted when the uncollected count rises from `old` to `new`. -/
def postLevel (old new : Nat) (s : State) : State :=
  if old < Config.levelNear ∧ Config.levelNear ≤ new then post .journal (.near new) s
  else if old < Config.levelHalf ∧ Config.levelHalf ≤ new then post .journal (.half new) s
  else s

/-! ## Programs (R141) -/

/-- A journal program has completed sound: the record leaves the staging queue and space is signalled. In a region that
held no record it is then the oldest (R143; notes/assumptions/31). -/
def journalProgrammed (sector : Nat) (r : JRec) (s : State) : State :=
  let old := s.journal.uncollected
  let s1 := (s.onStore fun t => t.modJ sector (Sector.program (some r))).onJournal fun j =>
    { j with staging := j.staging.drop 1, newest := r.seq, oldest := some (min (j.oldest.getD r.seq) r.seq) }
  testHead (postLevel old s1.journal.uncollected (journalSpace s1))

end Sys2Proof.Machine
end

