-- ==== Sys2Proof/Machine/StoreUnit.lean ====
section
/-!
DEFINITION. The store unit: the table log and its head (R162 to R165), retirement and its thresholds (R166
to R168), the store engine with its arbitration and its suspensions (R156 to R158), the reclaimer's list
(R159), what completions do, and what an interrupted operation leaves (R169).
-/

namespace Sys2Proof.Machine

/-! ## Live records (R162) -/

/-- The records of the table log that count, each with its sector. -/
def Store.logRecs (t : Store) : List (Nat × LogRec) :=
  t.tlog.flatMap fun e => e.2.recs.map fun r => (e.1, r)

/-- Whether a record is its entry's newest. -/
def Store.live (t : Store) (r : LogRec) : Bool :=
  t.logRecs.all fun q => decide (q.2.key ≠ r.key) || decide (q.2.append ≤ r.append)

/-- The live records of a table-log sector, in slot order. -/
def Store.liveIn (t : Store) (k : Nat) : List LogRec := (t.tsec k).recs.filter t.live

/-- A sector's age: the lowest append count it holds (R162). DESIGN CHOICE: one that holds no record has the age 0, and
so is the first victim (notes/assumptions/68). -/
def sectorAge (c : Sector LogRec) : Nat :=
  match c.recs with
  | [] => 0
  | r :: rest => rest.foldl (fun m x => min m x.append) r.append

/-! ## The head of the table log (R163, R165) -/

/-- The table-log sectors after `k`, counting upward and wrapping from 39 to 0. -/
def logAfter (k : Nat) : List Nat := rangeInc (k + 1) 39 ++ List.range k

/-- The erased usable sectors outside the head, in the order the head would move. -/
def Store.erasedOutside (t : Store) : List Nat :=
  (logAfter t.head).filter fun i => (t.tsec i).erased && !(t.tsec i).retired

/-- How many table-log sectors are usable. -/
def Store.usableLog (t : Store) : Nat := ((rangeInc 0 39).filter fun i => !(t.tsec i).retired).length

/-- Whether the list holds a table-log reclaim. -/
def Store.hasReclaim (t : Store) : Bool := t.work.any fun w => decide (w.kind = .reclaim)

/-- The victim of a reclaim: the oldest in-use usable sector other than the head (R163). -/
def Store.victim (t : Store) : Option Nat :=
  let inUse := (rangeInc 0 39).filter fun i =>
    decide (i ≠ t.head) && !(t.tsec i).retired && !(t.tsec i).awaitErase && !(t.tsec i).erased
  (sortBy (fun i => sectorAge (t.tsec i)) inUse).head?

/-- The table log is stalled (R165). -/
def stall (s : State) : State :=
  if s.store.stalled then s else post .store .stalled (s.onStore fun t => { t with stalled := true })

/-- The count of erased sectors: with fewer than 2 and no reclaim listed, a reclaim of the victim is placed,
or the table log stalls (R163, R165). A drain places none (R190). -/
def countErased (s : State) : State :=
  if 2 ≤ s.store.erasedOutside.length || s.store.hasReclaim || s.draining then s
  else match s.store.victim with
    | some v => s.onStore fun t => { t with work := t.work ++ [⟨v, .reclaim⟩] }
    | none => stall s

/-- The table writer's programs wait for the end of the reclaim's erase (R163). -/
def holdWriter (s : State) : State := s.onStore fun t => { t with held := true }

/-- A full head with only sector `k` erased outside it: while a reclaim is listed the sector is kept for it, a
copy-forward may take it as its head, and the table writer's programs wait from then on until the reclaim's erase
completes (R163; notes/assumptions/57). A drain releases the sector (R169). -/
def takeLast (forCopy : Bool) (k : Nat) (s : State) : State :=
  let s1 := if s.store.hasReclaim && !s.draining then holdWriter s else s
  if s1.store.held && !forCopy then s1 else countErased (s1.onStore fun t => { t with head := k })

/-- The head moves on when it is full or retired (R163). -/
def moveLogHead (forCopy : Bool) (s : State) : State :=
  if (s.store.tsec s.store.head).hasSlot then s
  else match s.store.erasedOutside with
    | [] => stall s
    | [k] => takeLast forCopy k s
    | k :: _ => countErased (s.onStore fun t => { t with head := k })

/-! ## Retirement (R166 to R168) -/

/-- The STORE_FAULT record (R136). -/
def storeFaultBody (k : Nat) (c : RetireCause) : JBody :=
  ⟨.storeFault, none, none, none, .num k, .retire c, .none⟩

/-- The tables become read-only below 30 usable sectors (R167). -/
def testReadOnly (s : State) : State :=
  if s.store.usableLog < 30 && !s.store.readOnly then
    post .store .readOnly (s.onStore fun t => { t with readOnly := true })
  else s

/-- The record and the occurrence of a retirement (R166). -/
def reportRetired (k : Nat) (c : RetireCause) (s : State) : State :=
  post .store (.sector k c) (offer (storeFaultBody k c) s)

/-- An evacuation of a retired sector that holds live records and is no reclaim's victim (R165). DESIGN CHOICE: none
is placed while DRAINING (R169; notes/assumptions/77). -/
def evacuate (k : Nat) (s : State) : State :=
  if (s.store.liveIn k).isEmpty || s.store.work.contains ⟨k, .reclaim⟩ || s.draining then s
  else s.onStore fun t => { t with work := t.work ++ [⟨k, .evacuation⟩] }

/-- A table-log sector is retired (R166). DESIGN CHOICE: an evacuation and a reclaim that one retirement places stand
in the list in that order (notes/assumptions/67). -/
def retireLog (k : Nat) (c : RetireCause) (s : State) : State :=
  let s1 := reportRetired k c (s.onStore fun t => t.modT k fun x => { x with retired := true })
  countErased (moveLogHead false (evacuate k (testReadOnly s1)))

/-- The reclaimer's list with the evacuations at its front that have nothing left to copy ended (R165). -/
def Store.dueWork (t : Store) : List Work :=
  t.work.dropWhile fun w => decide (w.kind = .evacuation) && (t.liveIn w.sector).isEmpty

/-- Evacuations with nothing left to copy have ended (R165). -/
def endEvacuations (s : State) : State := s.onStore fun t => { t with work := t.dueWork }

/-- A journal sector is retired (R166, R168). -/
def retireJournal (k : Nat) (c : RetireCause) (s : State) : State :=
  endEvacuations
    (journalRetired k (reportRetired k c (s.onStore fun t => t.modJ k fun x => { x with retired := true })))

/-! ## Failed and sound programs -/

/-- A table-log program has failed: its slot is spoiled, and the third spoiled slot retires the sector. -/
def spoilLog (k : Nat) (s : State) : State :=
  let s1 := s.onStore fun t => t.modT k (Sector.program none)
  if 3 ≤ (s1.store.tsec k).spoiledCount && !(s1.store.tsec k).retired then retireLog k .spoiledSlots s1
  else moveLogHead false s1

/-- A journal program has failed (R141, R166). -/
def spoilJournal (k : Nat) (s : State) : State :=
  let s1 := s.onStore fun t => t.modJ k (Sector.program none)
  if 3 ≤ (s1.store.jsec k).spoiledCount && !(s1.store.jsec k).retired then retireJournal k .spoiledSlots s1
  else testHead s1

/-- A record appended soundly to the table log (R162). -/
def Store.appendRec (t : Store) (k : Nat) (key : EntryKey) (v : EntryVal) : Store :=
  { t.modT k (Sector.program (some ⟨t.nextAppend, key, v⟩)) with nextAppend := t.nextAppend + 1 }

/-- The report of an entry programmed to the block that waits on it (R161). -/
def reportProgrammed (v : EntryVal) (s : State) : State :=
  match v with
  | .cred (some r) =>
    if r.state = .pending then s.onEnc fun e => { e with report := some r.number } else s
  | .journalState j => s.onJournal fun x => { x with programmedMark := j.mark }
  | _ => s

/-- The place whose program has completed leaves the queue, unless its contents are newer (R161). -/
def dropPlace (key : EntryKey) (s : State) : State :=
  if s.store.queue.any fun p => decide (p.key = key) && !p.fresh then
    tableSpace (s.onStore fun t => { t with queue := t.queue.filter fun p => decide (p.key ≠ key) })
  else s

/-- A table-log program has completed sound (R161). -/
def logProgrammed (k : Nat) (key : EntryKey) (v : EntryVal) (s : State) : State :=
  endEvacuations (moveLogHead false
    (dropPlace key (reportProgrammed v (s.onStore fun t => t.appendRec k key v))))

/-- A copy-forward has completed sound (R164). -/
def copyProgrammed (k : Nat) (key : EntryKey) (v : EntryVal) (s : State) : State :=
  endEvacuations (moveLogHead false (s.onStore fun t => t.appendRec k key v))

/-! ## The store engine (R156 to R158) -/

/-- The first identity place not yet programmed (R155). -/
def Store.freeIdPlace (t : Store) : Option Nat := t.idPlaces.findIdx? fun p => decide (p = .erased)

/-- The table writer's table-log program, if it has one: the oldest place's record (R161, R163). -/
def Store.logRequest (t : Store) : Option Program :=
  if t.held || !(t.tsec t.head).hasSlot then none
  else t.queue.head?.map fun p => .table t.head p.key p.val

/-- The table writer's request, if it has one: an identity program goes ahead of its next table-log program
(R155), and with the table log stalled it brings none (R165). DESIGN CHOICE: it goes ahead too of a table-log program
that already waits at the busy engine (notes/assumptions/69). -/
def Store.tableRequest (t : Store) : Option Program :=
  if t.stalled then none
  else match t.idRequest, t.freeIdPlace with
    | some id, some n => some (.identity n id)
    | _, _ => t.logRequest

/-- The journal writer's request, if it has one (R141, R151). -/
def State.journalRequest (s : State) : Option Program :=
  if s.journal.writer = .writing && (s.store.jsec s.journal.head).hasSlot then
    match s.journal.staging with
    | [] => none
    | r :: _ => some (.journal s.journal.head r)
  else none

/-- What the reclaimer brings for its item: the next copy-forward, or the erase (R159, R164, R165). -/
inductive ReclaimRequest where
  | copy (r : LogRec)
  | erase (w : Work)

/-- The reclaimer's request, if it has one. -/
def Store.reclaimRequest (t : Store) : Option ReclaimRequest :=
  match t.dueWork with
  | [] => none
  | w :: _ =>
    match w.kind with
    | .journalErase | .startUp => some (.erase w)
    | .reclaim | .evacuation =>
      match t.liveIn w.sector with
      | r :: _ => some (.copy r)
      | [] => some (.erase w)

/-- The order in which the engine looks at its requesters (R157). -/
def rotation : Requester → List Requester
  | .tableWriter => [.journalWriter, .reclaimer, .tableWriter]
  | .journalWriter => [.reclaimer, .tableWriter, .journalWriter]
  | .reclaimer => [.tableWriter, .journalWriter, .reclaimer]

/-- Whether a requester has a request waiting that the engine may serve now; the reclaimer is passed over
while its erase is suspended (R158) and brings nothing in a drain (R169). A copy-forward needs a slot at
the head or an erased sector to move it to (R163). -/
def State.waits (s : State) : Requester → Bool
  | .tableWriter => s.store.tableRequest.isSome
  | .journalWriter => s.journalRequest.isSome
  | .reclaimer =>
    s.running && s.store.suspended.isNone &&
    match s.store.reclaimRequest with
    | none => false
    | some (.erase _) => true
    | some (.copy _) => (s.store.tsec s.store.head).hasSlot || !s.store.erasedOutside.isEmpty

/-- The contents of the oldest place have been taken by the engine (R161). -/
def Store.takeOldest (t : Store) : Store :=
  match t.queue with
  | [] => t
  | p :: q => { t with queue := { p with fresh := false } :: q }

/-- The engine begins a requester's request (R157). -/
def serve (r : Requester) (s : State) : State :=
  match r with
  | .tableWriter =>
    match s.store.tableRequest with
    | none => s
    | some (.identity n id) => s.onStore fun t =>
        { t with engine := .programming (.identity n id), lastServed := .tableWriter, idRequest := none }
    | some p => s.onStore fun t =>
        { t.takeOldest with engine := .programming p, lastServed := .tableWriter }
  | .journalWriter =>
    match s.journalRequest with
    | none => s
    | some p => s.onStore fun t => { t with engine := .programming p, lastServed := .journalWriter }
  | .reclaimer =>
    match s.store.reclaimRequest with
    | none => s
    | some (.erase w) => s.onStore fun t =>
        { t with engine := .erasing ⟨w, false, 0, false⟩, work := t.dueWork, lastServed := .reclaimer }
    | some (.copy c) => (moveLogHead true s).onStore fun t =>
        { t with engine := .programming (.copy t.head c.key c.val), work := t.dueWork, lastServed := .reclaimer }

/-- Whether a program of the table writer or the journal writer waits (R158). DESIGN CHOICE: one the table writer
holds back under R163 does not count as waiting (notes/assumptions/58). -/
def State.programWaits (s : State) : Bool := s.waits .tableWriter || s.waits .journalWriter

/-- An erase in progress is ordered suspended when the three conditions of R158 hold. -/
def orderSuspension (e : EraseRun) (s : State) : State :=
  if e.ran && !e.ordered && decide (e.suspensions < 8) && s.programWaits then
    s.onStore fun t => { t with engine := .erasing { e with ordered := true, suspensions := e.suspensions + 1 } }
  else s

/-- A suspended erase resumes (R158). -/
def resume (s : State) : State :=
  match s.store.suspended with
  | none => s
  | some e => s.onStore fun t =>
      { t with engine := .erasing { e with ran := false, ordered := false }, suspended := none }

/-- The engine takes the next request, resumes a suspended erase, or is told to suspend the erase in progress
(R157, R158). Nothing is brought once the part is no longer at work (R193). -/
def pumpEngine (s : State) : State :=
  if !s.working then s
  else match s.store.engine with
    | .programming _ => s
    | .erasing e => orderSuspension e s
    | .idle =>
      match (rotation s.store.lastServed).find? s.waits with
      | some r => serve r s
      | none => resume s

/-- What ends every step: the engine and the transmitter take up what the step has left for them. -/
def finish (s : State) : State := pumpTx (pumpEngine s)

/-- The outcome of a command that leaves the part in `s`. -/
def done (s : State) : Host.Outcome State Fault Refusal := .next (finish s)

/-- The engine is free (R157). -/
def freeEngine (s : State) : State := s.onStore fun t => { t with engine := .idle }

/-! ## Erases (R156, R159, R164) -/

/-- Whether a sector belongs to the journal region (R153). -/
def inJournalRegion (k : Nat) : Bool := decide (40 ≤ k)

/-- An item of the reclaimer's list has ended by its erase (R159); with a reclaim's erase the table writer's programs
wait no longer (R163). -/
def endWork (w : Work) (s : State) : State :=
  s.onStore fun t => { t with work := t.work.erase w, held := t.held && decide (w.kind ≠ .reclaim) }

/-- An erase has completed sound (R142, R164, R169). -/
def eraseSound (w : Work) (s : State) : State :=
  endEvacuations <|
    if inJournalRegion w.sector then
      journalErased w.sector (endWork w (s.onStore fun t => t.modJ w.sector fun _ => .blank))
    else
      moveLogHead false (countErased (endWork w (s.onStore fun t => t.modT w.sector fun _ => .blank)))

/-- What a failed erase leaves of a sector: its records stay (R164), and whether it will be found interrupted
is a free value (notes/assumptions/11). -/
def eraseResidue {α : Type} (n : Nat) (c : Sector α) : Sector α :=
  { c with cut := c.cut || Config.failedEraseCut n }

/-- An erase has failed: its sector is retired (R142, R164, R166). -/
def eraseFailed (w : Work) (s : State) : State :=
  let n := s.freeUses
  let s1 := endWork w (s.onFreeUses fun n => n + 1)
  if inJournalRegion w.sector then
    retireJournal w.sector .eraseFailed (s1.onStore fun t => t.modJ w.sector (eraseResidue n))
  else endEvacuations (retireLog w.sector .eraseFailed (s1.onStore fun t => t.modT w.sector (eraseResidue n)))

/-! ## Interrupted operations (R169) -/

/-- A sector whose erase was cut off (R169). -/
def cutSector (k : Nat) (t : Store) : Store :=
  if inJournalRegion k then t.modJ k fun c => { c with cut := true }
  else t.modT k fun c => { c with cut := true }

/-- An identity place spoiled (R155). -/
def Store.spoilId (t : Store) (n : Nat) : Store := { t with idPlaces := t.idPlaces.set n .spoiled }

/-- What a program in progress leaves when it is cut off: its slot spoiled (R169). -/
def cutProgram (p : Program) (t : Store) : Store :=
  match p with
  | .table k _ _ => t.modT k (Sector.program none)
  | .copy k _ _ => t.modT k (Sector.program none)
  | .journal k _ => t.modJ k (Sector.program none)
  | .identity n _ => t.spoilId n

/-- What an erase in progress and a suspended erase leave when they are given up: their sectors interrupted (R169). -/
def cutErases (t : Store) : Store :=
  let t1 := match t.engine with
    | .erasing e => { cutSector e.work.sector t with engine := .idle }
    | _ => t
  match t1.suspended with
  | some e => { cutSector e.work.sector t1 with suspended := none }
  | none => t1

/-- What a loss of power leaves of the operation in progress and of a suspended erase (R169, R183). -/
def cutOff (t : Store) : Store :=
  let t1 := match t.engine with
    | .programming p => { cutProgram p t with engine := .idle }
    | _ => t
  cutErases t1

/-- What the drain's start does in the store unit: the reclaimer stops, an erase in progress leaves its sector
interrupted, an identity program not begun is not brought, and the kept sector is released (R163, R169, R190). -/
def stopReclaimer (t : Store) : Store := { cutErases t with work := [], idRequest := none, held := false }

/-- What a program leaves in the store of a part that acts on no report of it (R156). -/
def landProgram (p : Program) (sound : Bool) (t : Store) : Store :=
  match sound, p with
  | true, .table k key v => t.appendRec k key v
  | true, .copy k key v => t.appendRec k key v
  | true, .journal k r => t.modJ k (Sector.program (some r))
  | true, .identity n i => { t with idPlaces := t.idPlaces.set n (.written i) }
  | false, p => cutProgram p t

end Sys2Proof.Machine
end

