-- ==== Sys2Proof/Machine/Credential.lean ====
section
/-!
DEFINITION. The credential unit: expiry (R21), reach (R38), the revocation list (R37, R39, R40), revocation
(R33), the expiry pass and retirement (R36, R41), the carried selection (R42), and the application of an
issue outcome with the end of the encoder job (R30 to R32, R56, R57).
-/

namespace Sys2Proof.Machine

/-! ## Expiry (R21) -/

/-- A credential's expiry under this checkout grace. -/
def expiryOf (grace : Nat) (r : CredRec) : EndMinute :=
  match r.kind, r.validUntil with
  | .guest, some u => some (min (u + grace) maxMinute)
  | _, e => e

/-- A credential's expiry as now computed. -/
def State.expiry (s : State) (r : CredRec) : EndMinute := expiryOf s.settings.checkout r

/-- Whether an end has come at minute `m`; an open end never comes. -/
def endBy (m : Nat) : EndMinute → Bool
  | none => false
  | some e => decide (e ≤ m)

/-- Whether one end is earlier than another, open counting as latest. -/
def endEarlier : EndMinute → EndMinute → Bool
  | some a, some b => decide (a < b)
  | some _, none => true
  | none, _ => false

/-! ## Looking up credentials -/

/-- The record that holds a number, with its slot. -/
def State.findCred (s : State) (number : Nat) : Option (Nat × CredRec) :=
  s.cred.slots.find? fun e => decide (e.2.number = number)

/-- Whether a record is an ACTIVE GUEST credential of a room. -/
def CredRec.activeGuest (room : Nat) (r : CredRec) : Bool :=
  decide (r.kind = .guest) && decide (r.state = .active) && decide (r.room = room)

/-- Whether a record is a PENDING GUEST credential of a room. -/
def CredRec.pendingGuest (room : Nat) (r : CredRec) : Bool :=
  decide (r.kind = .guest) && decide (r.state = .pending) && decide (r.room = room)

/-- The ACTIVE GUEST credentials of a room, in slot order. -/
def State.activeGuests (s : State) (room : Nat) : List (Nat × CredRec) :=
  s.cred.slots.filter fun e => e.2.activeGuest room

/-- Whether a room is OCCUPIED (R6). -/
def State.occupied (s : State) (room : Nat) : Bool := s.cred.slots.any fun e => e.2.activeGuest room

/-- The room a GUEST credential names; absent for the other kinds. -/
def CredRec.roomOf (r : CredRec) : Option Nat := if r.kind = .guest then some r.room else none

/-! ## Reach (R38) -/

/-- The groups a credential could open. -/
def State.credGroups (s : State) (r : CredRec) : Groups :=
  match r.kind with
  | .guest => match s.rooms.get r.room with
    | some x => x.entry.access
    | none => 0
  | .staff | .restock => r.mask
  | .master => BitVec.allOnes 16

/-- The offline groups a credential could open (R38). -/
def State.reach (s : State) (r : CredRec) : Groups := s.credGroups r &&& s.offlineGroups

/-! ## The revocation list (R37, R39, R40) -/

/-- The entries of the list, each with its place. -/
def CredUnit.entries (c : CredUnit) : List (Nat × Nat × RevEntry) :=
  c.list.filterMap fun e => e.2.entry.map fun x => (e.1, e.2.seq, x)

/-- Whether a number is on the list. -/
def CredUnit.onList (c : CredUnit) (number : Nat) : Bool := c.entries.any fun e => decide (e.2.2.number = number)

/-- The lowest-numbered empty place. -/
def CredUnit.emptyPlace (c : CredUnit) : Option Nat :=
  (List.range Config.listPlaces).find? fun i => !(c.entries.any fun e => decide (e.1 = i))

/-- Whether one entry goes before another as the one to displace: the earlier expiry, and among equal
expiries the older sequence (R40). -/
def goesFirst (a b : Nat × Nat × RevEntry) : Bool :=
  endEarlier a.2.2.expiry b.2.2.expiry || (decide (a.2.2.expiry = b.2.2.expiry) && decide (a.2.1 < b.2.1))

/-- The first of a list under `goesFirst`. -/
def firstToGo : List (Nat × Nat × RevEntry) → Option (Nat × Nat × RevEntry)
  | [] => none
  | e :: t => some (t.foldl (fun m x => if goesFirst x m then x else m) e)

/-- What the list does with a credential offered to it (R39, R40). -/
inductive ListVerdict where
  | notEntered
  | enters (place : Nat)
  | displaces (place : Nat) (seq : Nat) (old : RevEntry)
  | leftOut
  deriving DecidableEq, Repr

/-- The entry test of R39 and the full-list rule of R40, at this minute. -/
def CredUnit.verdict (c : CredUnit) (minute number : Nat) (expiry : EndMinute) (reach : Groups) : ListVerdict :=
  if reach = 0 ∨ endBy minute expiry = true ∨ c.onList number = true then .notEntered
  else if max32 ≤ c.revCount then .leftOut
  else match c.emptyPlace with
    | some i => .enters i
    | none => match firstToGo c.entries with
      | none => .leftOut
      | some e => if endEarlier expiry e.2.2.expiry then .leftOut else .displaces e.1 e.2.1 e.2.2

/-- The verdict on a record as it would be revoked now. -/
def State.verdict (s : State) (r : CredRec) : ListVerdict :=
  s.cred.verdict s.clock.minute r.number (s.expiry r) (s.reach r)

/-- The list place a verdict changes. -/
def ListVerdict.place : ListVerdict → Option Nat
  | .enters i => some i
  | .displaces i _ _ => some i
  | _ => none

/-- The table entry a verdict changes. -/
def ListVerdict.keys (v : ListVerdict) : List EntryKey := v.place.toList.map .listPlace

/-- The revocation sequence a verdict gives, 0 when no entry is made (R33). -/
def ListVerdict.seqGiven (v : ListVerdict) (count : Nat) : Nat := if v.place.isSome then count + 1 else 0

/-- The entry made for a record (R39). -/
def State.newEntry (s : State) (r : CredRec) (reason : RevReason) : RevEntry :=
  ⟨r.number, reason, s.clock.minute, s.expiry r, s.reach r, 0⟩

/-- An end of validity as a record's value. -/
def endVal : EndMinute → JVal
  | none => .openEnd
  | some m => .num m

/-- The REVOCATION_DISPLACED record and its ALARM occurrence (R40). -/
def reportDisplaced (number seq : Nat) (expiry : EndMinute) (s : State) : State :=
  post .alarm (.displaced number)
    (offer ⟨.revocationDisplaced, none, some number, none, .num seq, endVal expiry, .none⟩ s)

/-- An entry placed under the next sequence (R37, R39). -/
def enterAt (i : Nat) (e : RevEntry) (s : State) : State :=
  s.onCred fun c => { c with list := c.list.put i ⟨c.revCount + 1, some e⟩, revCount := c.revCount + 1 }

/-- A verdict carried out (R39, R40). -/
def applyVerdict (v : ListVerdict) (e : RevEntry) (s : State) : State :=
  match v with
  | .notEntered => s
  | .enters i => enterAt i e s
  | .displaces i q old => reportDisplaced old.number q old.expiry (enterAt i e s)
  | .leftOut => reportDisplaced e.number 0 e.expiry s

/-! ## Revocation (R33) -/

/-- The record in a slot revoked, offered to the list, and queued with the list place (R33). -/
def revokeCred (slot : Nat) (reason : RevReason) (s : State) : State :=
  match s.cred.slots.get slot with
  | none => s
  | some r =>
    let v := s.verdict r
    let e := s.newEntry r reason
    let r' := { r with state := .revoked, reason := some reason, revokedAt := s.clock.minute }
    let s1 := applyVerdict v e (s.onCred fun c => { c with slots := c.slots.put slot r' })
    v.keys.foldl (fun x k => enqueue k x) (enqueue (.cred slot) s1)

/-- The REVOKED record (R33). -/
def revokedBody (r : CredRec) (reason : RevReason) (seq : Nat) : JBody :=
  ⟨.revoked, none, some r.number, r.roomOf, .reason reason, .num seq, .none⟩

/-- A revocation reported by its REVOKED record (R33). -/
def revokeReported (slot : Nat) (reason : RevReason) (s : State) : State :=
  match s.cred.slots.get slot with
  | none => s
  | some r => offer (revokedBody r reason ((s.verdict r).seqGiven s.cred.revCount)) (revokeCred slot reason s)

/-! ## The expiry pass and retirement (R36, R41) -/

/-- The expiry pass against a minute: ACTIVE credentials whose expiry has come are LAPSED (R36). -/
def expiryPass (m : Nat) (s : State) : State :=
  s.onCred fun c => { c with slots := c.slots.mapVals fun _ r =>
    if r.state = .active && endBy m (s.expiry r) then { r with state := .lapsed } else r }

/-- The places whose entry's expiry has come. -/
def CredUnit.expiredPlaces (m : Nat) (c : CredUnit) : List Nat :=
  (c.entries.filter fun e => endBy m e.2.2.expiry).map Prod.fst

/-- Revocation retirement against a minute (R41). -/
def retireEntries (m : Nat) (s : State) : State :=
  let places := s.cred.expiredPlaces m
  let s1 := s.onCred fun c => { c with list := c.list.mapVals fun i p =>
    if i ∈ places then { p with entry := none } else p }
  places.foldl (fun x i => enqueue (.listPlace i) x) s1

/-- The work a minute event and CLOCK SET hand the credential unit (R2, R3). -/
def minuteWork (m : Nat) (s : State) : State := retireEntries m (expiryPass m s)

/-! ## The carried selection (R42) -/

/-- The entries a card of this reach carries: up to 12, newest sequence first. -/
def CredUnit.carriedFor (c : CredUnit) (reach : Groups) : List (Nat × Nat × RevEntry) :=
  ((sortBy (fun e => e.2.1) (c.entries.filter fun e => decide (e.2.2.reach &&& reach ≠ 0))).reverse).take 12

/-- The expiry day an entry is carried with: 65,535 for open and for a day above 65,534. -/
def expiryDay : EndMinute → Nat
  | none => 65535
  | some m => if 65534 < m / 1440 then 65535 else m / 1440

/-- An entry's carried count raised, saturating at 255. -/
def raiseCarried (i : Nat) (c : CredUnit) : CredUnit :=
  match c.list.get i with
  | some ⟨q, some e⟩ => { c with list := c.list.put i ⟨q, some { e with carried := satSucc 255 e.carried }⟩ }
  | _ => c

/-- The selection's effect: each carried count raised and its place queued (R42). DESIGN CHOICE: the entries are taken
newest first (notes/assumptions/73). -/
def carry (places : List Nat) (s : State) : State :=
  places.foldl (fun x i => enqueue (.listPlace i) (x.onCred (raiseCarried i))) s

/-! ## Applying an issue outcome (R30 to R32) -/

/-- The other ACTIVE GUEST credentials of a room (R31). -/
def State.othersOf (s : State) (slot room : Nat) : List Nat :=
  ((s.activeGuests room).filter fun e => decide (e.1 ≠ slot)).map Prod.fst

/-- A room's tab. -/
def State.tab (s : State) (room : Nat) : Nat :=
  match s.rooms.get room with
  | some r => r.entry.tab
  | none => 0

/-- Whether an outcome needs a staging place: a NEW_STAY success whose room has a nonzero tab (R30). -/
def State.needsStaging (s : State) (j : Job) (o : JobOutcome) (r : CredRec) : Bool :=
  decide (o = .success) && decide (j.mode = .newStay) && decide (s.tab r.room ≠ 0)

/-- The table entries an outcome changes (R30). -/
def State.outcomeKeys (s : State) (j : Job) (o : JobOutcome) (r : CredRec) : List EntryKey :=
  (match o with
   | .success =>
     if j.mode = .newStay then
       [.cred j.slot, .room r.room] ++ (s.othersOf j.slot r.room).map .cred
     else [.cred j.slot]
   | _ => [.cred j.slot]) ++
  (if o = .aborted ∨ (o = .success ∧ j.after.isSome) then (s.verdict r).keys else [])

/-- Whether every place an outcome needs is available (R30). -/
def State.outcomeFits (s : State) (j : Job) (o : JobOutcome) (r : CredRec) : Bool :=
  s.store.canQueue (s.outcomeKeys j o r) 0 && (!s.needsStaging j o r || s.journal.takesMoney)

/-- The SETTLE record of an amount (R136). -/
def settleBody (room amount issue : Nat) (why : SettleReason) : JBody :=
  ⟨.settle, none, none, some room, .num amount, .num issue, .settle why⟩

/-- A room's tab settled: the SETTLE record accepted and the tab 0 (R31, R131). -/
def settle (room amount issue : Nat) (why : SettleReason) (s : State) : State :=
  (acceptRec (settleBody room amount issue why) s).modRoom room
    fun x => { x with entry := { x.entry with tab := 0 } }

/-- A credential record's state changed in the working table. -/
def setCredState (slot : Nat) (st : CredState) (s : State) : State :=
  s.onCred fun c => match c.slots.get slot with
    | some r => { c with slots := c.slots.put slot { r with state := st } }
    | none => c

/-- The success of a NEW_STAY (R31). -/
def newStaySuccess (slot : Nat) (r : CredRec) (s : State) : State :=
  let others := s.othersOf slot r.room
  let tab := s.tab r.room
  let s1 := (setCredState slot .active s).modRoom r.room
    fun x => { x with entry := { x.entry with issue := r.issue } }
  let s2 := others.foldl (fun x k => setCredState k .superseded x) s1
  let s3 := if tab = 0 then s2 else settle r.room tab r.issue .newStay s2
  others.foldl (fun x k => enqueue (.cred k) x) (enqueue (.room r.room) (enqueue (.cred slot) s3))

/-- The success of the other modes (R31). -/
def plainSuccess (slot : Nat) (s : State) : State := enqueue (.cred slot) (setCredState slot .active s)

/-- The success an outcome reports, by the job's mode (R31). -/
def applySuccess (j : Job) (r : CredRec) (s : State) : State :=
  if j.mode = .newStay then newStaySuccess j.slot r s else plainSuccess j.slot s

/-- The released outcome: the slot is FREE (R32). -/
def applyReleased (slot : Nat) (s : State) : State :=
  enqueue (.cred slot) (s.onCred fun c => { c with slots := c.slots.del slot })

/-! ## The end of an issue job (R56, R57) -/

/-- The ISSUED record (R57). -/
def issuedBody (j : Job) (r : CredRec) : JBody :=
  ⟨.issued, none, some r.number, r.roomOf, .num r.issue, .num j.carried, .none⟩

/-- The ISSUE_FAILED record (R57). -/
def issueFailedBody (j : Job) (r : CredRec) (o : JobOutcome) : JBody :=
  ⟨.issueFailed, none, some r.number, r.roomOf,
    match j.cause with | some c => .cause c | none => .num 0,
    if o = .released then .freed else .aborted, .none⟩

/-- The occurrence of a job's end, and the job IDLE (R56). -/
def jobEnds (j : Job) (o : JobOutcome) (s : State) : State :=
  (post .issue (.issueEnd j.number o j.cause) s).onEnc fun e => { e with job := none, headOp := none }

/-- An outcome applied, its record offered, the job ended (R30 to R33, R56). DESIGN CHOICE: where the revocation that
follows a held success leaves an entry out, the REVOCATION_DISPLACED record stands before ISSUED
(notes/assumptions/65). -/
def applyOutcome (j : Job) (o : JobOutcome) (r : CredRec) (s : State) : State :=
  match o with
  | .released => jobEnds j o (offer (issueFailedBody j r o) (applyReleased j.slot s))
  | .aborted => jobEnds j o (offer (issueFailedBody j r o) (revokeCred j.slot .issueAborted s))
  | .success =>
    let s1 := applySuccess j r s
    match j.after with
    | none => jobEnds j o (offer (issuedBody j r) s1)
    | some why =>
      let seq := (s1.verdict r).seqGiven s1.cred.revCount
      jobEnds j o (offer (revokedBody r why seq) (offer (issuedBody j r) (revokeCred j.slot why s1)))

/-- A reported outcome applied if every place it needs is available, and held otherwise (R30). -/
def tryOutcome (s : State) : State :=
  match s.enc.job with
  | none => s
  | some j =>
    match j.outcome, s.cred.slots.get j.slot with
    | some o, some r => if s.outcomeFits j o r then applyOutcome j o r s else s
    | _, _ => s

/-- An issue job reports its outcome; the head is released (R55). -/
def reportOutcome (o : JobOutcome) (cause : Option JobCause) (s : State) : State :=
  tryOutcome (s.onEnc fun e =>
    { e with headOp := none, job := e.job.map fun j => { j with outcome := some o, cause := cause, cardWait := none, headEnd := none } })

end Sys2Proof.Machine
end

