-- ==== Sys2Proof/Machine/EncoderUnit.lean ====
section
/-!
DEFINITION. The encoder controller (Chapter 3): the card images, the job's course through the head, its
cancellation, the read job, and the encoder's commands.
-/

namespace Sys2Proof.Machine

/-! ## Images (R47, R48) -/

/-- A valid_until as written on a card (R195). -/
def untilWritten : EndMinute → Nat
  | none => 4294967295
  | some m => m

/-- The part's site code, 0 where it has none. -/
def State.site (s : State) : Nat := (s.store.identity.map Identity.site).getD 0

/-- The part's site seed, 0 where it has none. -/
def State.seed (s : State) : Nat := (s.store.identity.map Identity.seed).getD 0

/-- The label a GUEST card carries: its room's at the build. -/
def State.labelOf (s : State) (r : CredRec) : Nat :=
  match r.roomOf.bind s.rooms.get with
  | some x => x.entry.label
  | none => 0

/-- The fields of the issue image of a record carrying these entries (R47). -/
def State.issueFields (s : State) (r : CredRec) (entries : List (Nat × Nat)) : ImageFields where
  version := 1
  kind := r.kind.code
  flags := if r.kind = .guest && r.minibar then 1 else 0
  site := s.site
  number := r.number
  label := s.labelOf r
  room := if r.kind = .guest then r.room else 0
  issue := if r.kind = .guest then r.issue else 0
  mask := (s.credGroups r).toNat
  validFrom := r.validFrom
  validUntil := untilWritten r.validUntil
  winStart := if r.kind = .staff ∨ r.kind = .restock then r.winStart else 0
  winEnd := if r.kind = .staff ∨ r.kind = .restock then r.winEnd else 0
  encodeMinute := s.clock.minute
  grace := if r.kind = .guest then s.settings.checkout else 0
  entries := entries

/-- The void image of a credential number (R48). -/
def State.voidImage (s : State) (number : Nat) : List Byte :=
  imageBytes s.seed
    { version := 0, kind := voidCode, flags := 0, site := s.site, number := number, label := 0, room := 0,
      issue := 0, mask := 0, validFrom := 0, validUntil := 0, winStart := 0, winEnd := 0, encodeMinute := 0,
      grace := 0, entries := [] }

/-- The job changed, where there is one. -/
def modJob (f : Job → Job) (s : State) : State := s.onEnc fun e => { e with job := e.job.map f }

/-- The issue image built and kept in the job, with the carried selection made (R42, R47). -/
def buildImage (r : CredRec) (s : State) : State :=
  let chosen := s.cred.carriedFor (s.reach r)
  let image := imageBytes s.seed (s.issueFields r (chosen.map fun e => (e.2.2.number, expiryDay e.2.2.expiry)))
  modJob (fun j => { j with image := some image, carried := chosen.length }) (carry (chosen.map Prod.fst) s)

/-! ## Operations at the head (R45) -/

/-- The head timeout of an operation, in milliseconds (R45). -/
def HeadOp.timeout : HeadOp → Nat
  | .write _ => Config.writeTimeout
  | .read => Config.readTimeout

/-- An operation sent to the head: its timeout starts (R45, R49). -/
def sendHead (op : HeadOp) (s : State) : State :=
  s.onEnc fun e => { e with headOp := some op, job := e.job.map fun j => { j with headEnd := some op.timeout } }

/-- The outstanding operation has ended: select is released and its timeout no longer runs (R45). -/
def Encoder.endOp (e : Encoder) : Encoder :=
  { e with headOp := none, job := e.job.map fun j => { j with headEnd := none } }

/-- WRITE IMAGE sent with the issue image (R51, R53). -/
def sendWrite (j : Job) (s : State) : State :=
  sendHead (.write (j.image.getD []))
    (modJob (fun j => { j with state := .writing, writeStarted := true, cardWait := none }) s)

/-- READ IMAGE sent, the job in this state. -/
def sendRead (st : JobState) (s : State) : State :=
  sendHead .read (modJob (fun j => { j with state := st, cardWait := none }) s)

/-- The job enters VOIDING with this cause (R54). -/
def enterVoiding (number : Nat) (cause : JobCause) (s : State) : State :=
  sendHead (.write (s.voidImage number)) (modJob (fun j => { j with state := .voiding, cause := some cause }) s)

/-- A failing answer, or any answer of a cancelled operation: CARD_IN is sampled; a card present is voided, and
otherwise the job ends aborted (R52, R53, R59). -/
def failOrVoid (j : Job) (cause : JobCause) (s : State) : State :=
  if s.enc.cardIn then enterVoiding j.number cause s else reportOutcome .aborted (some cause) s

/-! ## The read job (R62, R63) -/

/-- What a read card's number says of the key table and the list (R63). -/
def State.readCard (s : State) (b : List Byte) : ReadResult :=
  let f := cardFields b
  let keyState := if f.number = 0 then none else (s.findCred f.number).map fun e => e.2.state
  let listed := (s.cred.entries.find? fun e => decide (e.2.2.number = f.number)).map
    fun e => (e.2.1, e.2.2.reason)
  .card f (s.store.identity.map fun i => checkHolds i.seed b)
    (s.store.identity.map fun i => decide (i.site = f.site)) keyState listed

/-- A READ job ends: its result is kept and posted, the job is IDLE (R63). -/
def endRead (r : ReadResult) (s : State) : State :=
  (post .issue (.readEnd r) s).onEnc fun e => { e with job := none, headOp := none, lastRead := some r }

/-! ## The card wait (R51, R62) -/

/-- The card wait ended with no card (R51, R62). -/
def waitEnds (j : Job) (s : State) : State :=
  match j.kind with
  | .issue => reportOutcome .released (some .noCard) s
  | .read => endRead .noCard s

/-- A card is present while the job waits for one (R51, R62). -/
def cardArrives (j : Job) (s : State) : State :=
  match j.kind with
  | .issue => sendWrite j s
  | .read => sendRead .reading s

/-- WAITING_CARD entered: the card wait starts and CARD_IN is sampled (R51, R62). -/
def enterWaiting (s : State) : State :=
  let s1 := modJob (fun j => { j with state := .waitingCard, cardWait := some s.settings.wait }) s
  match s1.enc.job with
  | none => s1
  | some j =>
    if s1.enc.cardIn then cardArrives j s1
    else if s.settings.wait = 0 then waitEnds j s1
    else s1

/-! ## Cancellation (R58 to R61, R63) -/

/-- A cancel reaches the job (R59, R63). -/
def cancelJob (s : State) : State × CancelResult :=
  match s.enc.job with
  | none => (s, .none)
  | some j =>
    if j.outcome.isSome || j.cancel then (s, .none)
    else match j.kind, j.state with
      | .issue, .preparing | .issue, .waitingCard => (reportOutcome .released (some .cancelled) s, .ended)
      | .issue, .writing | .issue, .verifying => (modJob (fun j => { j with cancel := true }) s, .marked)
      | .read, .waitingCard => (endRead .cancelled s, .ended)
      | .read, .reading => (modJob (fun j => { j with cancel := true }) s, .marked)
      | _, _ => (s, .none)

/-- A held success marked to be followed by revocation; the first mark stays (R30). -/
def markHeld (why : RevReason) (s : State) : State :=
  modJob (fun j => if j.outcome = some .success ∧ j.after = none then { j with after := some why } else j) s

/-- A revocation reaches the PENDING credential of the job: the job is cancelled, or its held success is
marked (R30, R34, R35). -/
def reachPending (why : RevReason) (s : State) : State := (cancelJob (markHeld why s)).1

/-- The storm drain ends the job at once (R61); a READ job keeps no result. -/
def drainJob (s : State) : State :=
  match s.enc.job with
  | none => s
  | some j =>
    match j.kind with
    | .read => (post .issue (.readEnd .cancelled) s).onEnc fun e => { e with job := none, headOp := none }
    | .issue =>
      if j.outcome.isSome then s
      else if j.writeStarted then
        reportOutcome .aborted (if j.state = .voiding then j.cause else some .cancelled) s
      else reportOutcome .released (some .cancelled) s

/-! ## The head's answers (R52 to R54, R62) -/

/-- The answer to a job's WRITE IMAGE: none for success, else the cause it names (R52, R54). -/
def writeAnswered (j : Job) (fault : Option JobCause) (s : State) : State :=
  let s := s.onEnc Encoder.endOp
  match j.state with
  | .writing =>
    if j.cancel then failOrVoid j .cancelled s
    else match fault with
      | none => sendRead .verifying s
      | some c => failOrVoid j c s
  | .voiding =>
    match fault with
    | none => reportOutcome .released j.cause s
    | some _ => reportOutcome .aborted j.cause s
  | _ => s

/-- The bytes read back against the image (R53). -/
def verified (j : Job) (b : List Byte) (s : State) : State :=
  if j.image = some b then reportOutcome .success none s
  else if j.rewriteUsed then enterVoiding j.number .verifyFault s
  else sendWrite j (modJob (fun j => { j with rewriteUsed := true }) s)

/-- The answer to a job's READ IMAGE: the bytes, or the cause it names (R53, R62, R63). -/
def readAnswered (j : Job) (a : List Byte ⊕ JobCause) (s : State) : State :=
  let s := s.onEnc Encoder.endOp
  match j.state with
  | .verifying =>
    if j.cancel then failOrVoid j .cancelled s
    else match a with
      | .inl b => verified j b s
      | .inr c => failOrVoid j c s
  | .reading =>
    if j.cancel then endRead .cancelled s
    else match a with
      | .inl b => endRead (s.readCard b) s
      | .inr .noCard => endRead .noCard s
      | .inr _ => endRead .headTimeout s
  | _ => s

/-! ## The commands -/

/-- INTENT_RECORD_PROGRAMMED: the encoder controller takes the report (R50, R51). -/
def takeReport (s : State) : State :=
  match s.enc.report, s.enc.job with
  | some n, some j =>
    let s1 := s.onEnc fun e => { e with report := none }
    if j.state = .preparing ∧ j.outcome = none ∧ j.number = n then
      match s.cred.slots.get j.slot with
      | some r => enterWaiting (buildImage r s1)
      | none => s1
    else s1
  | some _, none => s.onEnc fun e => { e with report := none }
  | none, _ => s

/-- INTENT_RECORD_PROGRAMMED (R50). -/
def execIntentRecordProgrammed (s : State) : Host.Outcome State Fault Refusal :=
  if s.working then done (takeReport s) else .next s

/-- The job that waits for a card, if any (R46). -/
def Encoder.waitingJob (e : Encoder) : Option Job :=
  e.job.filter fun j => decide (j.state = .waitingCard) && j.outcome.isNone

/-- CARD_IN_CHANGE (R46, R51, R62): the level is kept; a job in WAITING_CARD acts on a card's arrival. -/
def execCardInChange (present : Bool) (s : State) : Host.Outcome State Fault Refusal :=
  let s1 := s.onEnc fun e => { e with cardIn := present }
  match s1.enc.waitingJob with
  | some j => if present && s1.working then done (cardArrives j s1) else done s1
  | none => done s1

/-- CARD_WAIT_EXPIRY (R51, R62). -/
def execCardWaitExpiry (s : State) : Host.Outcome State Fault Refusal :=
  match s.enc.waitingJob with
  | some j => if s.working && j.cardWait.isSome then done (waitEnds j s) else .next s
  | none => .next s

/-- The job whose WRITE IMAGE is outstanding, if any. -/
def Encoder.writeJob (e : Encoder) : Option Job :=
  match e.headOp with
  | some (.write _) => e.job
  | _ => none

/-- The job whose READ IMAGE is outstanding, if any. -/
def Encoder.readJob (e : Encoder) : Option Job :=
  match e.headOp with
  | some .read => e.job
  | _ => none

/-- The cause a WRITE IMAGE answer names (R52). -/
def writeFault : WriteAnswer → Option JobCause
  | .ok => none
  | .noCard => some .noCard
  | .writeFault => some .writeFault

/-- What a READ IMAGE answer brings (R53). -/
def readBrings : ReadAnswer → List Byte ⊕ JobCause
  | .image b => .inl b
  | .noCard => .inr .noCard

/-- WRITE_IMAGE_ANSWER (R45, R52, R54). -/
def execWriteImageAnswer (answer : WriteAnswer) (s : State) : Host.Outcome State Fault Refusal :=
  match s.enc.writeJob with
  | some j => done (writeAnswered j (writeFault answer) s)
  | none => .next s

/-- READ_IMAGE_ANSWER (R45, R53, R62). -/
def execReadImageAnswer (answer : ReadAnswer) (s : State) : Host.Outcome State Fault Refusal :=
  match s.enc.readJob with
  | some j => done (readAnswered j (readBrings answer) s)
  | none => .next s

/-- HEAD_TIMEOUT (R45): the outstanding operation ends as HEAD_TIMEOUT. -/
def execHeadTimeout (s : State) : Host.Outcome State Fault Refusal :=
  match s.enc.writeJob, s.enc.readJob with
  | some j, _ => done (writeAnswered j (some .headTimeout) s)
  | none, some j => done (readAnswered j (.inr .headTimeout) s)
  | none, none => .next s

/-- HELD_OUTCOME_RETRY (R30): on a space signal the held outcome is tried again. -/
def execHeldOutcomeRetry (s : State) : Host.Outcome State Fault Refusal :=
  if s.working && s.signals.credential then
    done (tryOutcome (s.onSignals fun g => { g with credential := false }))
  else .next s

end Sys2Proof.Machine
end

