-- ==== Sys2Proof/Machine/Admission.lean ====
section
/-!
DEFINITION. The admission unit (Chapter 5): the tests of a presentation, which the minibar unit shares
(R90 to R93), the decisions at room and common doors (R94 to R97), their orders and records (R98, R99), and
the door events (R101, R102).
-/

namespace Sys2Proof.Machine

/-! ## The tests of the card (R90 to R93) -/

/-- A record's credential number: the number 0 stands for no credential (00 section 4.2, R135). -/
def credOf (n : Nat) : Option Nat := if n = 0 then none else some n

/-- Test 4's refusal for a record in this state; none for ACTIVE (R91). -/
def stateRefusal : CredState → Option Decision
  | .active => none
  | .pending => some .denyUnknown
  | .revoked => some .denyRevoked
  | .superseded => some .denySuperseded
  | .lapsed => some .denyExpired

/-- Test 5: whether the card agrees with the record (R91). -/
def cardAgrees (p : Presentation) (r : CredRec) : Bool :=
  decide (p.kind = r.kind.code) &&
  (if r.kind = .guest then decide (p.issue = r.issue) && decide (p.room = r.room)
   else decide (p.issue = 0) && decide (p.room = 0))

/-- Tests 4 to 6 on the record found: the first refusal (R91, R92). -/
def State.recordTests (s : State) (p : Presentation) (r : CredRec) : Option Decision :=
  match stateRefusal r.state with
  | some d => some d
  | none =>
    if !cardAgrees p r then some .denyMismatch
    else if s.clock.minute < r.validFrom then some .denyNotYet
    else if endBy s.clock.minute (s.expiry r) then some .denyExpired
    else none

/-- Tests 1 to 6: the record that passes them, or the first refusal (R90 to R92). -/
def State.cardTests (s : State) (p : Presentation) : CredRec ⊕ Decision :=
  if s.settings.fresh < p.age then .inr .denyStale
  else if p.site ≠ s.site then .inr .denySite
  else match s.findCred p.number with
    | none => .inr (if p.kind = voidCode then .denyVoid else .denyUnknown)
    | some (_, r) =>
      match s.recordTests p r with
      | some d => .inr d
      | none => .inl r

/-- Whether minute of day `m` is inside the daily window from `b` to `e` (R93). -/
def insideWindow (b e m : Nat) : Bool :=
  if b = e then true
  else if b < e then decide (b ≤ m) && decide (m < e)
  else decide (b ≤ m) || decide (m < e)

/-- Whether the minute of day is inside a record's daily window (R93). -/
def State.inWindow (s : State) (r : CredRec) : Bool := insideWindow r.winStart r.winEnd (s.clock.minute % 1440)

/-- The group and window tests of STAFF and RESTOCK cards (R95, R96, R118). -/
def State.staffTests (s : State) (group : Nat) (r : CredRec) : Option Decision :=
  if !r.mask.has group then some .denyGroup
  else if !s.inWindow r then some .denyWindow
  else none

/-! ## The decision at a door (R94 to R97) -/

/-- Test 7, at a room door of this room and group (R94, R95). -/
def State.roomDoorTest (s : State) (room group : Nat) (r : CredRec) : Decision :=
  let x := s.rooms.get room
  let privacy := (x.map Room.privacy).getD false
  match r.kind with
  | .guest =>
    if r.room ≠ room then .denyWrongRoom
    else if x.map (fun x => x.entry.issue) ≠ some r.issue then .denySuperseded
    else if (x.map fun x => x.entry.lockout).getD false then .denyLockout
    else .grant
  | .staff | .restock =>
    match s.staffTests group r with
    | some d => d
    | none => if privacy then .denyPrivacy else .grant
  | .master => if privacy then .grantOverride else .grant

/-- The tests of a credential's kind at a common door that is not SECURED: the refusal, if any (R96). -/
def State.commonTests (s : State) (group : Nat) (r : CredRec) : Option Decision :=
  match r.kind with
  | .guest =>
    if !(s.credGroups r).has group then some .denyGroup
    else if (s.rooms.get r.room).map (fun x => x.entry.issue) ≠ some r.issue then some .denySuperseded
    else none
  | .staff | .restock => s.staffTests group r
  | .master => none

/-- Whether a node's last status shows its latch released (R78, R97). -/
def NodeLink.latchReleased (l : NodeLink) : Bool := (l.status.map NodeStatus.latchReleased).getD false

/-- A grant at a common door: held where a RELEASED group's door already shows its latch released (R97). -/
def State.commonGrant (s : State) (n : Node) : Decision :=
  if (s.group n.entry.group).release = .released ∧ n.link.latchReleased = true then .grantHeld else .grant

/-- Test 8, at a common door (R96, R97). -/
def State.commonDoorTest (s : State) (n : Node) (r : CredRec) : Decision :=
  if (s.group n.entry.group).release = .secured then
    if r.kind = .master then .grant else .denySecured
  else match s.commonTests n.entry.group r with
    | some d => d
    | none => s.commonGrant n

/-- The decision on a presentation at a door (R89). -/
def State.doorDecision (s : State) (n : Node) (p : Presentation) : Decision :=
  match s.cardTests p with
  | .inr d => d
  | .inl r =>
    match n.entry.kind with
    | .roomDoor => s.roomDoorTest (n.entry.room.getD 0) n.entry.group r
    | .commonDoor | .minibar => s.commonDoorTest n r

/-! ## Orders and records (R98, R99) -/

/-- Whether a decision is one of the three grant outcomes. -/
def Decision.isGrant : Decision → Bool
  | .grant | .grantOverride | .grantHeld => true
  | _ => false

/-- The order a decision at this address places, its UNLATCH carrying `time` (R98, R115). -/
def Decision.order (d : Decision) (addr time : Nat) : Option Order :=
  match d with
  | .grant | .grantOverride => some ⟨.unlatch, .decision, some addr, time⟩
  | .grantHeld | .denyStale => none
  | _ => some ⟨.denySignal, .decision, some addr, 0⟩

/-- A decision's order placed in its line's queue (R70, R98). -/
def placeDecision (line : LineId) (addr time : Nat) (d : Decision) (s : State) : State :=
  match d.order addr time with
  | some o => placeOrder line o s
  | none => s

/-- The bound room a door's record carries: that of a ROOM_DOOR (R99, R101). -/
def NodeEntry.doorRoom (e : NodeEntry) : Option Nat := if e.kind = .roomDoor then e.room else none

/-- The room of a decision's record: a room door's bound room, or the room of the GUEST record that holds the
presented number (R99; notes/assumptions/19). -/
def State.decisionRoom (s : State) (n : Node) (p : Presentation) : Option Nat :=
  if n.entry.kind = .roomDoor then n.entry.room
  else (s.findCred p.number).bind fun e => e.2.roomOf

/-- The ADMIT or REFUSE record of a decision (R99). -/
def State.admissionBody (s : State) (name : NodeName) (n : Node) (p : Presentation) (d : Decision) : JBody :=
  ⟨if d.isGrant then .admitted else .refuse, some name, credOf p.number, s.decisionRoom n p,
   .decision d, .num p.age, .none⟩

/-- A door's last release set by a grant (R98). -/
def setRelease (line : LineId) (addr : Nat) (v : LastRelease) (s : State) : State :=
  s.modNode line addr fun n => { n with door := { n.door with release := v } }

/-- A presentation at a door decided, its order placed and its record offered, in one step (R89, R98, R99). -/
def admitCard (line : LineId) (addr : Nat) (n : Node) (p : Presentation) (s : State) : State :=
  let d := s.doorDecision n p
  let s1 := placeDecision line addr s.settings.unlatch d s
  let s2 := if d.isGrant then setRelease line addr (.card p.number) s1 else s1
  offer (s.admissionBody (line, addr) n p d) s2

/-! ## Door events (R101, R102) -/

/-- The credential number of a last release, where it is one. -/
def LastRelease.number : LastRelease → Option Nat
  | .card n => credOf n
  | .none | .remote => Option.none

/-- The kind of release a DOOR_OPENED record names (R101). -/
def LastRelease.val : LastRelease → JVal
  | .none => .noRelease
  | .card _ => .card
  | .remote => .remote

/-- A door record changed. -/
def modDoor (line : LineId) (addr : Nat) (f : DoorRec → DoorRec) (s : State) : State :=
  s.modNode line addr fun n => { n with door := f n.door }

/-- A DOOR_OPENED event (R101). -/
def doorOpened (line : LineId) (addr : Nat) (n : Node) (s : State) : State :=
  offer ⟨.doorOpened, some (line, addr), n.door.release.number, n.entry.doorRoom,
      n.door.release.val, .door n.door.condition, .none⟩
    (modDoor line addr (fun d =>
      { d with condition := if d.condition = .closed then .opened else d.condition, release := .none }) s)

/-- A DOOR_CLOSED event (R101). -/
def doorClosed (line : LineId) (addr : Nat) (s : State) : State := modDoor line addr (fun _ => .start) s

/-- The record of a door alarm (R102). -/
def alarmBody (kind : JKind) (line : LineId) (addr : Nat) (n : Node) : JBody :=
  ⟨kind, some (line, addr), n.door.release.number, n.entry.doorRoom, .door n.door.condition, .num 0, .none⟩

/-- A DOOR_FORCED event (R102). -/
def doorForced (line : LineId) (addr : Nat) (n : Node) (s : State) : State :=
  post .alarm (.forced (line, addr)) (offer (alarmBody .doorForced line addr n)
    (modDoor line addr (fun _ => ⟨.alarm, some .forced, .none⟩) s))

/-- A DOOR_HELD event (R102). -/
def doorHeld (line : LineId) (addr : Nat) (n : Node) (s : State) : State :=
  post .alarm (.held (line, addr)) (offer (alarmBody .doorHeld line addr n)
    (modDoor line addr (fun d => { d with condition := .alarm, cause := some .held }) s))

end Sys2Proof.Machine
end

