-- ==== Sys2Proof/Machine/LineMaster.lean ====
section
/-!
DEFINITION. The line master (Chapter 4): the frames it sends, the order of its work through cycles and visits
(R66 to R74), the break locator (R81, R82), reaching RUNNING and leaving it (R65, R83 to R85, R87).
-/

namespace Sys2Proof.Machine

/-! ## The nodes of a line -/

/-- The nodes of a line, each with its address, in address order. -/
def State.nodesOn (s : State) (i : LineId) : List (Nat × Node) :=
  (s.nodes.filter fun e => decide (keyLine e.1 = i)).map fun e => (keyAddr e.1, e.2)

/-- Every node of a line changed. -/
def modNodesOn (i : LineId) (f : Node → Node) (s : State) : State :=
  s.onNodes fun m => m.mapVals fun k n => if keyLine k = i then f n else n

/-- What the line master holds for a node changed. -/
def modLink (i : LineId) (addr : Nat) (f : NodeLink → NodeLink) (s : State) : State :=
  s.modNode i addr fun n => { n with link := f n.link }

/-! ## Sending (R64, R66, R71, R74) -/

/-- The other leg. -/
def otherLeg : Leg → Leg
  | .a => .b
  | .b => .a

/-- The leg tried first for a node in this link state; `recheck` is a poll in a cycle of phase 16 (R74). -/
def LinkState.firstLeg (st : LinkState) (recheck : Bool) : Leg := if st = .onB && !recheck then .b else .a

/-- The leg tried first for the node at an address. -/
def State.legFor (s : State) (i : LineId) (addr : Nat) (recheck : Bool) : Leg :=
  match s.node i addr with
  | some n => n.link.state.firstLeg recheck
  | none => .a

/-- The mode order owed anew: an order already sent for the mark does not clear it (R73; notes/assumptions/25). -/
def NodeLink.oweMode (l : NodeLink) : NodeLink := { l with modeOwed := true, modeSent := false }

/-- The group order owed anew (R73, R105; notes/assumptions/25). -/
def NodeLink.oweGroup (l : NodeLink) : NodeLink := { l with groupOwed := true, groupSent := false }

/-- A frame sent: the exchange begins, with the reply timeout now set (R66). -/
def sendFrame (i : LineId) (kind : ExchKind) (leg : Leg) (addr : Nat) (second : Bool) (frame : List Byte)
    (s : State) : State :=
  s.modLine i fun l => { l with exch := some ⟨kind, leg, addr, second, true, s.settings.timeout.get i, frame, false⟩ }

/-- A directed order frame sent under the next order tag (R71). -/
def sendTagged (i : LineId) (kind : ExchKind) (leg : Leg) (addr : Nat) (second : Bool) (body : List Byte)
    (s : State) : State :=
  (sendFrame i kind leg addr second (frameBytes addr 2 (leBytes 1 (s.line i).tag ++ body)) s).modLine i
    fun l => { l with tag := (l.tag + 1) % 256 }

/-- The body of a directed order after its tag (R196). -/
def orderBody (k : OrderKind) (param : Nat) : List Byte := leBytes 1 k.code ++ leBytes 1 param

/-- The oldest order of the queue sent: to its target, or as a broadcast on leg A (R71, R72). -/
def sendOldest (i : LineId) (s : State) : State :=
  match (s.line i).queue with
  | [] => s
  | o :: _ =>
    match o.target with
    | some a => sendTagged i (.order o) (s.legFor i a false) a false (orderBody o.kind o.param) s
    | none => sendFrame i (.broadcast o) .a 0 false (broadcastFrame o.kind o.param) s

/-- The mode order as decided now (R73). -/
def State.modeOrder (s : State) : OrderKind := if s.clock.valid = .valid then .online else .standalone

/-- The order that carries a group's release state (R73, R105). -/
def State.groupOrder (s : State) (g : Nat) : OrderKind :=
  if (s.group g).release = .released then .release else .restore

/-- The node's owed mode order sent (R73). -/
def sendOwedMode (i : LineId) (addr : Nat) (s : State) : State :=
  modLink i addr (fun l => { l with modeSent := true })
    (sendTagged i .owedMode (s.legFor i addr false) addr false (orderBody s.modeOrder 0) s)

/-- The node's owed group order sent (R73). -/
def sendOwedGroup (i : LineId) (addr group : Nat) (s : State) : State :=
  modLink i addr (fun l => { l with groupSent := true })
    (sendTagged i .owedGroup (s.legFor i addr false) addr false (orderBody (s.groupOrder group) group) s)

/-- The leg tried first for a visit's poll: R74 for its first poll, the leg last answered on for a re-poll (R80). -/
def State.pollLeg (s : State) (i : LineId) (v : Visit) : Leg :=
  match v.repollNext, v.lastLeg with
  | true, some l => l
  | _, _ => s.legFor i v.addr (decide ((s.line i).phase = 16))

/-- The visit's poll sent (R68, R80). -/
def sendPoll (i : LineId) (v : Visit) (s : State) : State :=
  sendFrame i (.poll v.repollNext) (s.pollLeg i v) v.addr false (pollFrame v.addr) s

/-- The frame of an exchange that found no reply on its first leg sent on the other leg at once; an order's
frame takes a fresh tag (R71, R75). -/
def retry (i : LineId) (x : Exchange) (s : State) : State :=
  match x.kind with
  | .poll _ => sendFrame i x.kind (otherLeg x.leg) x.addr true x.frame s
  | _ => sendTagged i x.kind (otherLeg x.leg) x.addr true ((x.frame.drop 5).take 2) s

/-! ## Cycles and visits (R67 to R69) -/

/-- The visit in progress changed. -/
def modVisit (i : LineId) (f : Visit → Visit) (s : State) : State :=
  s.modLine i fun l => { l with cycle := l.cycle.map fun c => { c with visit := c.visit.map f } }

/-- What is next in a visit: the oldest queued order, an owed order due, or the poll (R68). -/
def workVisit (i : LineId) (v : Visit) (s : State) : State :=
  if !(s.line i).queue.isEmpty then sendOldest i s
  else match s.node i v.addr with
    | none => s
    | some n =>
      if v.modeDue && n.link.modeOwed then sendOwedMode i v.addr (modVisit i (fun v => { v with modeDue := false }) s)
      else if v.groupDue && n.link.groupOwed then
        sendOwedGroup i v.addr n.entry.group (modVisit i (fun v => { v with groupDue := false }) s)
      else sendPoll i v s

/-- The first address of a visit list whose node is present and enabled, with those after it (R67). -/
def State.nextDue (s : State) (i : LineId) : List Nat → Option (Nat × Node × List Nat)
  | [] => none
  | a :: t =>
    match s.node i a with
    | some n => if n.entry.enabled then some (a, n, t) else s.nextDue i t
    | none => s.nextDue i t

/-- A visit as it begins; the owed orders due at it are those owed at this moment (notes/assumptions/26). -/
def Visit.start (addr : Nat) (n : Node) : Visit :=
  ⟨addr, n.link.modeOwed, n.link.groupOwed, 0, false, false, none⟩

/-! ## The break locator (R81, R82) -/

/-- The nodes the break locator counts: present, enabled, ON_A, ON_B or LOST. -/
def State.counted (s : State) (i : LineId) : List Node :=
  ((s.nodesOn i).map Prod.snd).filter fun n =>
    n.entry.enabled && (decide (n.link.state = .onA) || decide (n.link.state = .onB) || decide (n.link.state = .lost))

/-- The positions, rising, of the nodes in a link state. -/
def positionsIn (st : LinkState) (l : List Node) : List Nat :=
  sortBy id ((l.filter fun n => decide (n.link.state = st)).map fun n => n.entry.pos)

/-- The line condition the counted nodes give (R81). -/
def lineCond (l : List Node) : LineCond :=
  let onA := positionsIn .onA l
  let onB := positionsIn .onB l
  let lost := positionsIn .lost l
  if !lost.isEmpty && onA.isEmpty && onB.isEmpty then .dark
  else if onB.isEmpty && lost.isEmpty then .whole
  else match onB.head?, onA.getLast? with
    | some b, some a => if b < a then .irregular else .split a
    | none, some a => .split a
    | _, none => .split 0

/-- The report of a condition (R81). -/
def condReport (c : LineCond) (l : List Node) : CondReport :=
  let lost := positionsIn .lost l
  let onB := positionsIn .onB l
  match c with
  | .split p =>
    let last := match onB.head? with
      | some b => b - 1
      | none => 120
    let inGap := fun x => decide (p < x) && decide (x ≤ last)
    { CondReport.empty with
      gapFrom := p + 1, gapTo := last, lostIn := lost.filter inGap, lostOut := (lost.filter fun x => !inGap x).length }
  | .irregular =>
    { CondReport.empty with lowestB := onB.headD 0, highestA := (positionsIn .onA l).getLastD 0 }
  | _ => .empty

/-- The LINE_CONDITION record (R82). -/
def condBody (i : LineId) (c : LineCond) : JBody :=
  ⟨.lineCondition, some (i, 0), none, none, .cond c, .num c.after, .none⟩

/-- The break locator runs (R81, R82). -/
def locate (i : LineId) (s : State) : State :=
  let l := s.counted i
  let c := lineCond l
  let s1 := s.modLine i fun x => { x with cond := c, report := condReport c l }
  if c = (s.line i).cond then s1 else post .line (.lineCond i c) (offer (condBody i c) s1)

/-! ## The course of a line's work -/

/-- A cycle is complete (R69). -/
def completeCycle (i : LineId) (s : State) : State :=
  locate i (s.modLine i fun l => { l with cycle := none, count := satSucc max32 l.count })

/-- The next visit of these listed nodes begins, or the cycle is complete (R68, R69). -/
def nextVisit (i : LineId) (listed : List Nat) (s : State) : State :=
  match s.nextDue i listed with
  | none => completeCycle i s
  | some (a, n, t) =>
    workVisit i (.start a n) (s.modLine i fun l => { l with cycle := some ⟨t, some (.start a n)⟩ })

/-- The phase the next cycle takes (R67). -/
def Line.nextPhase (l : Line) : Nat := if l.restart then 1 else if l.phase = 16 then 1 else l.phase + 1

/-- Whether a node is listed in a cycle of this phase (R67). -/
def NodeLink.listed (phase : Nat) (l : NodeLink) : Bool :=
  match l.state with
  | .unknown | .onA | .onB => true
  | .lost => decide (phase = 8) || decide (phase = 16)
  | .disabled => false

/-- The visit list of a cycle of this phase (R67). -/
def State.visitList (s : State) (i : LineId) (phase : Nat) : List Nat :=
  (sortBy (fun e => e.2.entry.pos)
    ((s.nodesOn i).filter fun e => e.2.entry.enabled && e.2.link.listed phase)).map Prod.fst

/-- The first visit of a cycle, or the cycle held until the exchange of an order sent between cycles has ended;
a cycle that lists no node ends as soon as it begins (R67). -/
def openCycle (i : LineId) (listed : List Nat) (s : State) : State :=
  if (s.line i).exch.isSome && !listed.isEmpty then
    s.modLine i fun l => { l with cycle := some ⟨listed, none⟩ }
  else nextVisit i listed s

/-- A cycle begins (R67). -/
def beginCycle (i : LineId) (s : State) : State :=
  let phase := (s.line i).nextPhase
  openCycle i (s.visitList i phase)
    (s.modLine i fun l => { l with phase := phase, restart := false, periodEnd := some (s.settings.period.get i) })

/-- Between cycles each queued order is sent as it arrives (R68). -/
def sendBetween (i : LineId) (s : State) : State :=
  if (s.line i).exch.isNone && (s.line i).cycle.isNone then sendOldest i s else s

/-- With no cycle in progress: a due cycle begins, and orders are sent between cycles. -/
def betweenCycles (i : LineId) (s : State) : State :=
  sendBetween i (if (s.line i).cycle.isNone && (s.line i).periodEnd.isNone then beginCycle i s else s)

/-- The cycle goes on (R68). -/
def workCycle (i : LineId) (c : Cycle) (s : State) : State :=
  match c.visit with
  | some v => if v.done then nextVisit i c.rest s else workVisit i v s
  | none => nextVisit i c.rest s

/-- The STANDALONE broadcast of the drain (R87). -/
def sendDrain (i : LineId) (leg : Leg) (s : State) : State :=
  sendFrame i .drainStandalone leg 0 (decide (leg = .b)) (broadcastFrame .standalone 0) s

/-- What a RUNNING line master with no outstanding exchange does next. -/
def proceed (i : LineId) (s : State) : State :=
  if !(s.line i).running || (s.line i).exch.isSome then s
  else if s.draining then sendDrain i .a s
  else match (s.line i).cycle with
    | none => betweenCycles i s
    | some c => betweenCycles i (workCycle i c s)

/-! ## Reaching and leaving RUNNING (R65, R83 to R85, R87) -/

/-- The ORDER_LOST record of an order (R136). -/
def orderLostBody (i : LineId) (o : Order) (c : LostCause) : JBody :=
  ⟨.orderLost, some (i, o.target.getD 0), none, none, .lostCause c, .order o.kind, .none⟩

/-- The decision orders among these journaled lost (R71, R84, R85, R87). -/
def journalLost (i : LineId) (c : LostCause) (l : List Order) (s : State) : State :=
  (l.filter fun o => decide (o.cls = .decision)).foldl (fun x o => offer (orderLostBody i o c) x) s

/-- A node as its line starts: UNKNOWN with miss count 0 where it is enabled, DISABLED where it is not, both
owed marks clear (R65, R73). -/
def Node.lineStarts (n : Node) : Node :=
  { n with link :=
    if n.entry.enabled then { n.link with state := .unknown, miss := 0, modeOwed := false, groupOwed := false }
    else { n.link with state := .disabled, modeOwed := false, groupOwed := false } }

/-- A node of a line that becomes DISABLED (R84). -/
def Node.lineStops (n : Node) : Node :=
  { n with link := { n.link with state := .disabled, miss := 0, modeOwed := false, groupOwed := false } }

/-- The STANDALONE broadcast of a line that starts or resets while the clock is INVALID (R72). -/
def placeStandalone (i : LineId) (s : State) : State :=
  if s.clock.valid = .invalid then placeOrder i ⟨.standalone, .other, none, 0⟩ s else s

/-- A line master as it reaches RUNNING, keeping its order tag (R65). -/
def Line.starts (l : Line) : Line := { Line.start with running := true, tag := l.tag }

/-- A line reaches RUNNING, and its first cycle begins at once (R65, R67, R72). -/
def startLine (i : LineId) (s : State) : State :=
  proceed i (placeStandalone i (modNodesOn i Node.lineStarts (s.modLine i Line.starts)))

/-- LINE DISABLE on a RUNNING line (R84). -/
def stopLine (i : LineId) (s : State) : State :=
  let s1 := journalLost i .disabled (s.line i).queue
    (s.modLine i fun l => { l with exch := none, cycle := none, queue := [] })
  (modNodesOn i Node.lineStops s1).modLine i fun l => { l with running := false }

/-- LINE RESET on a RUNNING line (R85). -/
def resetLine (i : LineId) (s : State) : State :=
  let s1 := journalLost i .reset (s.line i).queue
    (s.modLine i fun l => { l with exch := none, cycle := none, queue := [], restart := true, periodEnd := none })
  proceed i (placeStandalone i (modNodesOn i Node.lineStarts s1))

/-- The end of a line's drain: its queue emptied, DISABLED with the link states kept (R87). -/
def endLineDrain (i : LineId) (s : State) : State :=
  (journalLost i .drain (s.line i).queue
    (s.modLine i fun l => { l with exch := none, queue := [] })).modLine i fun l => { l with running := false }

/-- The drain reaches a line: its cycle is broken off, and with no exchange outstanding its broadcast begins
(R69, R87). -/
def drainLine (i : LineId) (s : State) : State :=
  if (s.line i).running then proceed i (s.modLine i fun l => { l with cycle := none }) else s

end Sys2Proof.Machine
end

