-- ==== Sys2Proof/Machine/Minibar.lean ====
section
/-!
DEFINITION. The minibar unit (Chapter 6): pricing (R124), finalisation (R126 to R128), the latch (R114),
presentations (R115 to R119), door events (R113, R122, R125), slot events (R111, R120 to R123), the drain
(R133), and the minibar's commands.
-/

namespace Sys2Proof.Machine

/-! ## The record -/

/-- A minibar record changed. -/
def modBar (line : LineId) (addr : Nat) (f : BarRec → BarRec) (s : State) : State :=
  s.modNode line addr fun n => { n with bar := f n.bar }

/-- The item code of a slot. -/
def NodeEntry.code (e : NodeEntry) (slot : Nat) : Nat := e.codes.getD (slot - 1) 0

/-- The stocked slots (R110). -/
def NodeEntry.stocked (e : NodeEntry) : SlotSet :=
  allSlots.foldl (fun m k => if e.code k = 0 then m else m ||| slotBit k) 0

/-- How many slots a set holds. -/
def slotCount (m : SlotSet) : Nat := (allSlots.filter fun k => m.has k).length

/-- The bound room of a node (R6), 0 where it has none. -/
def NodeEntry.boundRoom (e : NodeEntry) : Nat := e.room.getD 0

/-- The minibar comes to rest (R109). -/
def comeToRest (line : LineId) (addr : Nat) (s : State) : State :=
  match s.node line addr with
  | none => s
  | some n => modBar line addr (fun b => { b with state := s.restState n.entry.room }) s

/-! ## Pricing (R124) -/

/-- The amount of a line: price and tax rate of its item, discount of its room. -/
def lineAmount (p : PriceEntry) (discount : Nat) : Nat :=
  let d := (p.price * discount + 5000) / 10000
  let n := p.price - d
  n + (n * p.tax + 5000) / 10000

/-! ## Finalisation (R126 to R128) -/

/-- The CHARGE record of a line (R127, R136). -/
def chargeBody (name : NodeName) (room slot : Nat) (l : PendingLine) (saturation prior : Bool) : JBody :=
  ⟨.charge, some name, none, some room, .num l.amount, .num l.minute,
   .charge l.item slot l.issue saturation prior⟩

/-- Whether both places a line needs are available (R127). -/
def State.chargeFits (s : State) (room : Nat) : Bool :=
  s.journal.takesMoney && s.store.canQueue [.room room] 0

/-- A room's current issue number. -/
def State.currentIssue (s : State) (room : Nat) : Nat :=
  match s.rooms.get room with
  | some x => x.entry.issue
  | none => 0

/-- A line charged to the tab of its room's current stay (R127). -/
def chargeTab (name : NodeName) (room slot : Nat) (l : PendingLine) (s : State) : State :=
  let sum := s.tab room + l.amount
  enqueue (.room room)
    ((acceptRec (chargeBody name room slot l (decide (Config.tabCeiling < sum)) false) s).modRoom room
      fun x => { x with entry := { x.entry with tab := min sum Config.tabCeiling } })

/-- A line of an ended stay charged: the tab is not changed (R127). -/
def chargePrior (name : NodeName) (room slot : Nat) (l : PendingLine) (s : State) : State :=
  acceptRec (chargeBody name room slot l false true) s

/-- A finalised line leaves its slot, which leaves the baseline (R127, R129). -/
def leaveSlot (line : LineId) (addr slot : Nat) (s : State) : State :=
  enqueue (.node line addr) (s.modNode line addr fun n =>
    { n with entry := { n.entry with baseline := n.entry.baseline &&& ~~~ slotBit slot },
             bar := { n.bar with lines := n.bar.lines.del slot } })

/-- A pending line finalised, where both places are available (R127). -/
def finaliseLine (line : LineId) (addr : Nat) (room slot : Nat) (l : PendingLine) (s : State) : Option State :=
  if s.chargeFits room then
    let s1 := if l.issue = s.currentIssue room then chargeTab (line, addr) room slot l s
              else chargePrior (line, addr) room slot l s
    some (leaveSlot line addr slot s1)
  else none

/-- These lines of a minibar finalised in order, up to the first that cannot proceed; whether all were. -/
def finaliseLines (line : LineId) (addr room : Nat) : FMap PendingLine → State → State × Bool
  | [], s => (s, true)
  | (slot, l) :: t, s =>
    match finaliseLine line addr room slot l s with
    | some s1 => finaliseLines line addr room t s1
    | none => (s, false)

/-- Every pending line of a minibar finalised in slot order, as far as they proceed; whether all were. -/
def finaliseBar (line : LineId) (addr : Nat) (s : State) : State × Bool :=
  match s.node line addr with
  | none => (s, true)
  | some n => finaliseLines line addr n.entry.boundRoom n.bar.lines s

/-- The count of a minibar's pending lines. -/
def State.lineCount (s : State) (line : LineId) (addr : Nat) : Nat :=
  match s.node line addr with
  | none => 0
  | some n => n.bar.lines.length

/-- CHARGE_WAIT entered, with its occurrence (R128). -/
def enterChargeWait (line : LineId) (addr room : Nat) (s : State) : State :=
  post .minibar (.charges room (s.lineCount line addr))
    (modBar line addr (fun b => { b with state := .chargeWait }) s)

/-- The return grace has run (R126). -/
def graceEnds (line : LineId) (addr room : Nat) (s : State) : State :=
  let r := finaliseBar line addr (modBar line addr (fun b => { b with graceEnd := none }) s)
  if r.2 then comeToRest line addr r.1 else enterChargeWait line addr room r.1

/-- SETTLING entered with a full return grace; a grace of 0 expires at once (R114, R125). -/
def enterSettling (line : LineId) (addr room : Nat) (s : State) : State :=
  let s1 := modBar line addr
    (fun b => { b with state := .settling, graceEnd := some s.settings.grace }) s
  if s.settings.grace = 0 then graceEnds line addr room s1 else s1

/-- The minibar nodes in room index order, each with its line, address and node. -/
def State.minibars (s : State) : List (LineId × Nat × Node) :=
  (sortBy (fun e => e.2.entry.boundRoom) (s.nodes.filter fun e => decide (e.2.entry.kind = .minibar))).map
    fun e => (keyLine e.1, keyAddr e.1, e.2)

/-- The waiting lines of these minibars finalised in turn until one cannot proceed; a minibar whose last line
is finalised comes to rest (R128). -/
def retryWaiting : List (LineId × Nat × Node) → State → State
  | [], s => s
  | (line, addr, _) :: t, s =>
    let r := finaliseBar line addr s
    if r.2 then retryWaiting t (comeToRest line addr r.1) else r.1

/-- The lines of every minibar finalised as far as they proceed, states left as they stand (R133;
notes/assumptions/37). -/
def finaliseAll (s : State) : State := s.minibars.foldl (fun x e => (finaliseBar e.1 e.2.1 x).1) s

/-- The drain reaches the minibar unit (R133). -/
def drainMinibars (s : State) : State :=
  finaliseAll (s.onNodes fun m => m.mapVals fun _ n =>
    if n.entry.kind = .minibar then
      { n with bar := { n.bar with graceEnd := none, latchEnd := none, opened := false, backToSettling := false } }
    else n)

/-! ## The latch (R114) -/

/-- The RELATCH offered when an opening ends unused (R114). -/
def relatch (addr : Nat) : Order := ⟨.relatch, .other, some addr, 0⟩

/-- An opening ends unused (R114). DESIGN CHOICE: a minibar of a first opening comes to rest though a SLOTS report
taken before any MINIBAR_DOOR made a pending line, and the line stays (R109, R121; notes/assumptions/75). -/
def endUnused (line : LineId) (addr : Nat) (n : Node) (s : State) : State :=
  let s1 := modBar line addr
    (fun b => { b with latchEnd := none, opener := none, opened := false, backToSettling := false }) s
  let s2 := if n.bar.state = .openGuest ∧ n.bar.backToSettling = true
    then enterSettling line addr n.entry.boundRoom s1 else comeToRest line addr s1
  proceed line (placeOrder line (relatch addr) s2)

/-- Whether a state is an opening. -/
def BarState.isOpening : BarState → Bool
  | .openGuest | .openRestock => true
  | _ => false

/-! ## Presentations (R115 to R119) -/

/-- The sum the open test tests (R116). -/
def State.openSum (s : State) (room : Nat) : Nat := s.tab room + s.pendingTotal room

/-- A room's tab limit. -/
def State.tabLimit (s : State) (room : Nat) : Nat :=
  match s.rooms.get room with
  | some x => x.entry.limit
  | none => 0

/-- The refusal a minibar's state gives a guest (R116). -/
def guestStateRefusal : BarState → Option Decision
  | .chargeWait => some .denyChargeWait
  | .held => some .denyHeld
  | .openRestock => some .denyInUse
  | _ => none

/-- The guest tests (R116). -/
def State.guestTests (s : State) (n : Node) (r : CredRec) : Option Decision :=
  let room := n.entry.boundRoom
  if r.room ≠ room then some .denyWrongRoom
  else if r.issue ≠ s.currentIssue room then some .denySuperseded
  else if r.minibar = false then some .denyNoPrivilege
  else if s.tabLimit room = 0 then some .denyNoPrivilege
  else match guestStateRefusal n.bar.state with
    | some d => some d
    | none =>
      if n.bar.present = none then some .denyNotReady
      else if s.openSum room < s.tabLimit room then none
      else some .denyTabLimit

/-- The restock tests before the finalisation of SETTLING (R118). -/
def State.restockTests (s : State) (n : Node) (r : CredRec) : Option Decision :=
  match if r.kind = .restock then s.staffTests n.entry.group r else none with
  | some d => some d
  | none =>
    if n.bar.state = .openGuest then some .denyInUse
    else if n.bar.state = .chargeWait then some .denyChargeWait
    else if n.bar.present = none then some .denyNotReady
    else none

/-- The REFUSE record at a minibar (R119). -/
def refuseBody (name : NodeName) (n : Node) (p : Presentation) (d : Decision) : JBody :=
  ⟨.refuse, some name, credOf p.number, n.entry.room, .decision d, .num p.age, .none⟩

/-- The MINIBAR_OPEN record (R119). -/
def openBody (name : NodeName) (n : Node) (p : Presentation) (kind : JVal) (sum : Nat) : JBody :=
  ⟨.minibarOpen, some name, credOf p.number, n.entry.room, kind, .num sum, .none⟩

/-- A refusal at a minibar: its order, then its record (R115, R119). -/
def refuseBar (line : LineId) (addr : Nat) (n : Node) (p : Presentation) (d : Decision) (s : State) : State :=
  offer (refuseBody (line, addr) n p d) (placeDecision line addr s.settings.latch d s)

/-- A grant at a minibar: the record changed by `f`, the UNLATCH, the latch end and the opener, then the
MINIBAR_OPEN record (R114, R119). -/
def grantBar (line : LineId) (addr : Nat) (n : Node) (p : Presentation) (f : BarRec → BarRec) (kind : JVal)
    (sum : Nat) (s : State) : State :=
  let s1 := placeDecision line addr s.settings.latch .grant s
  let s2 := modBar line addr
    (fun b => { f b with latchEnd := some s.settings.latch, opener := some p.number }) s1
  offer (openBody (line, addr) n p kind sum) s2

/-- What a guest grant does to the record, by its state (R117). -/
def guestOpens (b : BarRec) : BarRec :=
  match b.state with
  | .settling => { b with state := .openGuest, opened := false, backToSettling := true, graceEnd := none }
  | .openGuest => b
  | _ => { b with state := .openGuest, opened := false, backToSettling := false }

/-- What a restock grant does to the record, by its state (R118). -/
def restockOpens (b : BarRec) : BarRec :=
  match b.state with
  | .openRestock => b
  | _ => { b with state := .openRestock, opened := false }

/-- A GUEST presentation that has passed tests 1 to 6 (R116, R117). -/
def guestPresents (line : LineId) (addr : Nat) (n : Node) (p : Presentation) (r : CredRec) (s : State) : State :=
  let room := n.entry.boundRoom
  let sum := s.openSum room
  match s.guestTests n r with
  | none => grantBar line addr n p guestOpens .guest sum s
  | some .denyTabLimit =>
    refuseBar line addr n p .denyTabLimit (post .minibar (.tabLimit room sum) s)
  | some d => refuseBar line addr n p d s

/-- A RESTOCK or MASTER presentation that has passed tests 1 to 6 (R118). -/
def restockPresents (line : LineId) (addr : Nat) (n : Node) (p : Presentation) (r : CredRec) (s : State) : State :=
  match s.restockTests n r with
  | some d => refuseBar line addr n p d s
  | none =>
    if n.bar.state = .settling then
      let f := finaliseBar line addr (modBar line addr (fun b => { b with graceEnd := none }) s)
      if f.2 then grantBar line addr n p restockOpens .restock 0 f.1
      else refuseBar line addr n p .denyChargeWait (enterChargeWait line addr n.entry.boundRoom f.1)
    else grantBar line addr n p restockOpens .restock 0 s

/-- A presentation at a minibar decided (R115). -/
def minibarPresents (line : LineId) (addr : Nat) (n : Node) (p : Presentation) (s : State) : State :=
  match s.cardTests p with
  | .inr d => refuseBar line addr n p d s
  | .inl r =>
    match r.kind with
    | .guest => guestPresents line addr n p r s
    | .restock | .master => restockPresents line addr n p r s
    | .staff => refuseBar line addr n p .denyNoPrivilege s

/-! ## Door events (R113, R122, R125) -/

/-- A MINIBAR_TAMPER record (R113, R123). -/
def tamperBody (name : NodeName) (n : Node) (removals returns : Nat) : JBody :=
  ⟨.minibarTamper, some name, none, n.entry.room, .num removals, .num returns, .none⟩

/-- The guest opening ends (R125). -/
def endGuest (line : LineId) (addr : Nat) (n : Node) (s : State) : State :=
  let s1 := modBar line addr
    (fun b => { b with latchEnd := none, opener := none, opened := false, backToSettling := false }) s
  if n.bar.lines.isEmpty then comeToRest line addr s1 else enterSettling line addr n.entry.boundRoom s1

/-- The baseline a restock closing takes (R122). -/
def Node.restocked (n : Node) : SlotSet := n.entry.stocked &&& n.bar.present.getD 0

/-- The RESTOCK record (R122). -/
def restockBody (name : NodeName) (n : Node) : JBody :=
  ⟨.restock, some name, n.bar.opener.bind credOf, n.entry.room,
   .num (slotCount (n.restocked &&& ~~~ n.entry.baseline)), .num (slotCount n.restocked), .none⟩

/-- The restock opening ends (R122). -/
def endRestock (line : LineId) (addr : Nat) (n : Node) (s : State) : State :=
  let s1 := s.modNode line addr fun n =>
    { n with entry := { n.entry with baseline := n.restocked },
             bar := { n.bar with missing := 0, latchEnd := none, opener := none, opened := false } }
  let s2 := offer (restockBody (line, addr) n) (comeToRest line addr s1)
  if n.restocked = n.entry.baseline then s2 else enqueue (.node line addr) s2

/-- A MINIBAR_DOOR event (R113). -/
def minibarDoor (line : LineId) (addr : Nat) (n : Node) (isOpen : Bool) (s : State) : State :=
  match n.bar.state, isOpen with
  | .openGuest, true | .openRestock, true => modBar line addr (fun b => { b with opened := true }) s
  | .openGuest, false => if n.bar.opened then endGuest line addr n s else s
  | .openRestock, false => if n.bar.opened then endRestock line addr n s else s
  | _, true => post .alarm (.minibarDoor (line, addr)) (offer (tamperBody (line, addr) n 0 0) s)
  | _, false => s

/-! ## Slot events (R111, R120 to R123) -/

/-- A node's first SLOTS report (R111). -/
def firstSlots (line : LineId) (addr : Nat) (n : Node) (reported : SlotSet) (s : State) : State :=
  modBar line addr (fun b =>
    { b with present := some reported,
             missing := (b.missing &&& ~~~ reported) |||
               (n.entry.stocked &&& n.entry.baseline &&& ~~~ reported) }) s

/-- The pending line a removal from a slot makes now (R121, R124). -/
def State.newLine (s : State) (n : Node) (slot : Nat) : PendingLine :=
  let room := n.entry.boundRoom
  let discount := match s.rooms.get room with
    | some x => x.entry.discount
    | none => 0
  ⟨lineAmount (s.price (n.entry.code slot)) discount, n.entry.code slot, s.currentIssue room, s.clock.minute⟩

/-- The LATE_RETURN record (R121). -/
def lateReturnBody (name : NodeName) (n : Node) (slot : Nat) : JBody :=
  ⟨.lateReturn, some name, none, n.entry.room, .num slot, .num (n.entry.code slot), .none⟩

/-- One changed slot in OPEN_GUEST and SETTLING (R121). -/
def guestSlot (line : LineId) (addr : Nat) (n : Node) (reported : SlotSet) (slot : Nat) (s : State) : State :=
  if !n.entry.stocked.has slot then s
  else if !reported.has slot then
    if n.entry.baseline.has slot then
      modBar line addr (fun b => { b with lines := b.lines.put slot (s.newLine n slot) }) s
    else s
  else if (n.bar.lines.get slot).isSome then
    modBar line addr (fun b => { b with lines := b.lines.del slot }) s
  else offer (lateReturnBody (line, addr) n slot) s

/-- Present now takes the reported set, and each slot reported present loses its missing mark (R120). -/
def takeSlots (line : LineId) (addr : Nat) (reported : SlotSet) (s : State) : State :=
  modBar line addr (fun b => { b with present := some reported, missing := b.missing &&& ~~~ reported }) s

/-- In SETTLING with no pending line left, the grace ends and the minibar comes to rest (R121). -/
def settleIfEmpty (line : LineId) (addr : Nat) (s : State) : State :=
  match s.node line addr with
  | none => s
  | some n =>
    if n.bar.state = .settling ∧ n.bar.lines.isEmpty = true then
      comeToRest line addr (modBar line addr (fun b => { b with graceEnd := none }) s)
    else s

/-- The slots that take the missing mark in LOCKED, CHARGE_WAIT and HELD: removals from baseline-present slots with
no pending line (R123). -/
def tamperMissing (n : Node) (removed : SlotSet) : SlotSet :=
  allSlots.foldl (fun m k =>
    if removed.has k && n.entry.baseline.has k && (n.bar.lines.get k).isNone then m ||| slotBit k else m) 0

/-- A slot event in LOCKED, CHARGE_WAIT and HELD (R123; notes/assumptions/17). -/
def tamperSlots (line : LineId) (addr : Nat) (n : Node) (removed returned : SlotSet) (s : State) : State :=
  post .alarm (.slots (line, addr))
    (offer (tamperBody (line, addr) n (slotCount removed) (slotCount returned))
      (modBar line addr (fun b => { b with missing := b.missing ||| tamperMissing n removed }) s))

/-- A slot event (R120 to R123). -/
def slotEvent (line : LineId) (addr : Nat) (n : Node) (present reported : SlotSet) (s : State) : State :=
  match n.bar.state with
  | .openGuest | .settling =>
    let changed := allSlots.filter fun k => present.has k != reported.has k
    settleIfEmpty line addr (takeSlots line addr reported
      (changed.foldl (fun x k => guestSlot line addr n reported k x) s))
  | .openRestock => takeSlots line addr reported s
  | .locked | .chargeWait | .held =>
    tamperSlots line addr n (present &&& ~~~ reported &&& n.entry.stocked)
      (reported &&& ~~~ present &&& n.entry.stocked) (takeSlots line addr reported s)

/-- A SLOTS report (R111, R120). -/
def slotsReported (line : LineId) (addr : Nat) (n : Node) (reported : SlotSet) (s : State) : State :=
  match n.bar.present with
  | none => firstSlots line addr n reported s
  | some present => slotEvent line addr n present reported s

/-! ## The commands -/

/-- LATCH_END (R114): reached in an opening with the door-opened mark clear, the opening ends unused. -/
def execLatchEnd (line : LineId) (addr : Nat) (s : State) : Host.Outcome State Fault Refusal :=
  match s.node line addr with
  | none => .next s
  | some n =>
    if s.working && n.bar.latchEnd.isSome && n.bar.state.isOpening && !n.bar.opened
    then done (endUnused line addr n s) else .next s

/-- GRACE_END (R126). -/
def execGraceEnd (line : LineId) (addr : Nat) (s : State) : Host.Outcome State Fault Refusal :=
  match s.node line addr with
  | none => .next s
  | some n =>
    if s.working && n.bar.graceEnd.isSome && decide (n.bar.state = .settling)
    then done (graceEnds line addr n.entry.boundRoom s) else .next s

/-- The minibars in CHARGE_WAIT, in room index order. -/
def State.waitingBars (s : State) : List (LineId × Nat × Node) :=
  s.minibars.filter fun e => decide (e.2.2.bar.state = .chargeWait)

/-- CHARGE_WAIT_RETRY (R128, R133). -/
def execChargeWaitRetry (s : State) : Host.Outcome State Fault Refusal :=
  if s.working && s.signals.minibar then
    let s1 := s.onSignals fun g => { g with minibar := false }
    done (if s.draining then finaliseAll s1 else retryWaiting s1.waitingBars s1)
  else .next s

end Sys2Proof.Machine
end

