-- ==== Sys2Proof/Machine/Wing.lean ====
section
/-!
DEFINITION. What arrives at a line master and what it does with it: replies (R75 to R80), expiries (R66, R76),
the ends of the frames it sends (R66, R72), and the wing-line commands.
-/

namespace Sys2Proof.Machine

/-- The outstanding exchange discarded or ended. -/
def endExch (i : LineId) (s : State) : State := s.modLine i fun l => { l with exch := none }

/-- The oldest order leaves the queue (R71, R72). -/
def dropOldest (i : LineId) (s : State) : State := s.modLine i fun l => { l with queue := l.queue.drop 1 }

/-- Whether an exchange awaits a reply (R66). -/
def ExchKind.awaitsReply : ExchKind → Bool
  | .broadcast _ | .drainStandalone => false
  | _ => true

/-! ## A taken reply (R75, R77, R78) -/

/-- The link state an answer on a leg gives (R75). -/
def answeredOn (st : LinkState) (leg : Leg) : LinkState :=
  if st = .disabled then .disabled
  else match leg with
    | .a => .onA
    | .b => .onB

/-- Whether a node in this link state is answering for the first time (R73, R75). -/
def firstAnswer (st : LinkState) : Bool := decide (st = .unknown) || decide (st = .lost)

/-- What an answer does to a node's link (R75). -/
def NodeLink.answers (leg : Leg) (l : NodeLink) : NodeLink :=
  { (if firstAnswer l.state then l.oweMode.oweGroup else l) with state := answeredOn l.state leg, miss := 0 }

/-- A NODE_LOST or NODE_RESTORED record (R76, R77). -/
def linkBody (k : JKind) (i : LineId) (addr : Nat) (st : LinkState) (pos : Nat) : JBody :=
  ⟨k, some (i, addr), none, none, .link st, .num pos, .none⟩

/-- A LOST node is restored (R77). -/
def restored (i : LineId) (addr : Nat) (leg : Leg) (n : Node) (s : State) : State :=
  if n.link.state = .lost then
    post .line (.node (i, addr)) (offer (linkBody .nodeRestored i addr (answeredOn .lost leg) n.entry.pos) s)
  else s

/-- An indication that has risen from no or absent to yes (R78). -/
def risen (f : NodeStatus → Bool) (old : Option NodeStatus) (new : NodeStatus) : Bool :=
  f new && !((old.map f).getD false)

/-- A reply's status recorded (R9, R78). -/
def recordStatus (i : LineId) (addr : Nat) (n : Node) (st : NodeStatus) (s : State) : State :=
  let s1 := modLink i addr (fun l => { l with status := some st }) s
  let s2 := if n.entry.kind = .roomDoor then s1.modRoom n.entry.boundRoom (fun r => { r with privacy := st.privacy })
    else s1
  let s3 := if risen NodeStatus.batteryLow n.link.status st then post .line (.battery (i, addr)) s2 else s2
  if risen NodeStatus.tamper n.link.status st then post .alarm (.tamper (i, addr)) s3 else s3

/-- What every taken reply does (R75, R77, R78). -/
def answered (i : LineId) (addr : Nat) (leg : Leg) (n : Node) (st : NodeStatus) (s : State) : State :=
  recordStatus i addr n st (restored i addr leg n (modLink i addr (NodeLink.answers leg) s))

/-! ## Events (R79) -/

/-- A door's event handed to the admission unit (R79). -/
def doorEvent (i : LineId) (addr : Nat) (n : Node) (e : NodeEvent) (s : State) : State :=
  match e with
  | .presentation p => if s.clock.valid = .valid then admitCard i addr n p s else s
  | .doorOpened => doorOpened i addr n s
  | .doorClosed => doorClosed i addr s
  | .doorForced => doorForced i addr n s
  | .doorHeld => doorHeld i addr n s
  | _ => s

/-- A minibar's event handed to the minibar unit (R79). -/
def barEvent (i : LineId) (addr : Nat) (n : Node) (e : NodeEvent) (s : State) : State :=
  match e with
  | .presentation p => if s.clock.valid = .valid then minibarPresents i addr n p s else s
  | .minibarDoor o => minibarDoor i addr n o s
  | .slots m => slotsReported i addr n m s
  | _ => s

/-- An event handed on, while the power state is RUN (R79). -/
def handOn (i : LineId) (addr : Nat) (e : NodeEvent) (s : State) : State :=
  if !s.running then s
  else match s.node i addr with
    | none => s
    | some n =>
      match n.entry.kind with
      | .roomDoor | .commonDoor => doorEvent i addr n e s
      | .minibar => barEvent i addr n e s

/-! ## The exchange ends with a reply -/

/-- A visit after the reply to its poll (R68, R80). -/
def Visit.polled (more : Bool) (v : Visit) : Visit :=
  if more && decide (v.repolls < 4) then { v with repolls := v.repolls + 1, repollNext := true }
  else { v with done := true }

/-- The leg of the visited node's last taken reply (R80). -/
def Visit.answeredBy (addr : Nat) (leg : Leg) (v : Visit) : Visit :=
  if v.addr = addr then { v with lastLeg := some leg } else v

/-- A delivered owed order clears its mark, unless the mark has been set again since the order was sent (R73, R77,
R105). DESIGN CHOICE where R105's newer order meets the delivery of an older one (notes/assumptions/25). -/
def clearOwed (i : LineId) (x : Exchange) (s : State) : State :=
  match x.kind with
  | .owedMode => modLink i x.addr (fun l => { l with modeOwed := l.modeOwed && !l.modeSent }) s
  | .owedGroup => modLink i x.addr (fun l => { l with groupOwed := l.groupOwed && !l.groupSent }) s
  | _ => s

/-- What the end of an exchange with a reply does by its kind (R71, R73, R79, R80). -/
def concluded (i : LineId) (x : Exchange) (r : ReplyFrame) (s : State) : State :=
  match x.kind with
  | .poll _ => modVisit i (Visit.polled r.more) (handOn i x.addr r.event s)
  | .order _ => dropOldest i s
  | _ => clearOwed i x s

/-- A reply is taken (R66, R75). -/
def replyTaken (i : LineId) (x : Exchange) (r : ReplyFrame) (s : State) : State :=
  let s1 := endExch i s
  match x.kind, s1.node i x.addr with
  | .removed, _ | _, none => s1
  | _, some n =>
    concluded i x r
      (modVisit i (Visit.answeredBy x.addr x.leg) (answered i x.addr x.leg n r.status s1))

/-- A reply that is not taken counts in the garble tally of the node addressed (R66). -/
def garbled (i : LineId) (addr : Nat) (s : State) : State :=
  modLink i addr (fun l => { l with garble := satSucc 65535 l.garble }) s

/-- The reply a frame brings to an exchange: it passes its check and names the address sent to (R66). -/
def taken (x : Exchange) (frame : List Byte) : Option ReplyFrame :=
  (readReply frame).filter fun r => decide (r.addr = x.addr)

/-- An exchange in which a reply has not been taken runs on to its timeout (R66, R75). -/
def spoilExch (i : LineId) (s : State) : State :=
  s.modLine i fun l => { l with exch := l.exch.map fun x => { x with spoiled := true } }

/-- What arrives on the listening leg within the timeout (R66): in an exchange that already counts as unanswered a
reply that passes both tests is not taken. -/
def received (i : LineId) (x : Exchange) (frame : List Byte) (s : State) : State :=
  match taken x frame with
  | some r => if x.spoiled then s else proceed i (replyTaken i x r s)
  | none => spoilExch i (garbled i x.addr s)

/-! ## The exchange ends unanswered (R66, R71, R75, R76) -/

/-- A poll that failed on both legs (R76). DESIGN CHOICE: a node disabled while its poll was outstanding stays
DISABLED at its third miss, with no record (notes/assumptions/56). -/
def missed (i : LineId) (addr : Nat) (s : State) : State :=
  match s.node i addr with
  | none => s
  | some n =>
    let miss := min 3 (n.link.miss + 1)
    if miss = 3 ∧ n.link.state ≠ .lost ∧ n.link.state ≠ .disabled then
      post .line (.node (i, addr)) (offer (linkBody .nodeLost i addr n.link.state n.entry.pos)
        (modLink i addr (fun l => { l with miss := 3, state := .lost }) s))
    else modLink i addr (fun l => { l with miss := miss }) s

/-- An attempt that failed on both legs (R71, R73, R76, R80). -/
def failedBoth (i : LineId) (x : Exchange) (s : State) : State :=
  let endVisit := modVisit i fun v => { v with done := true }
  match x.kind with
  | .poll false => endVisit (missed i x.addr s)
  | .poll true => endVisit s
  | .order o => journalLost i .undelivered [o] (dropOldest i s)
  | _ => s

/-- The reply timeout expires (R66, R75); in a drain a first leg unanswered is not tried again (R87;
notes/assumptions/30). -/
def expired (i : LineId) (x : Exchange) (s : State) : State :=
  if x.kind = .removed then proceed i (endExch i s)
  else if x.second then proceed i (failedBoth i x (endExch i s))
  else if s.draining then proceed i (endExch i s)
  else retry i x s

/-! ## The end of a broadcast frame (R72, R87) -/

/-- A broadcast frame has been sent. -/
def broadcastEnds (i : LineId) (x : Exchange) (s : State) : State :=
  match x.kind, x.leg with
  | .drainStandalone, .a => sendDrain i .b s
  | .drainStandalone, .b => endLineDrain i s
  | .broadcast o, .a =>
    if s.draining then proceed i (endExch i s)
    else sendFrame i (.broadcast o) .b 0 true x.frame s
  | .broadcast _, .b => proceed i (dropOldest i (endExch i s))
  | _, _ => s

/-! ## The commands -/

/-- The outstanding exchange whose frame is being sent or awaited, on a line of a part at work. -/
def State.exchange (s : State) (i : LineId) : Option Exchange := if s.working then (s.line i).exch else none

/-- The exchange whose reply the line master listens for: its frame has been sent (R64, R66). -/
def State.awaiting (s : State) (i : LineId) : Option Exchange :=
  (s.exchange i).filter fun x => x.kind.awaitsReply && !x.sending

/-- CYCLE_BEGIN (R67): the poll period's end is reached; the cycle begins now, or when the one in progress ends. -/
def execCycleBegin (line : LineId) (s : State) : Host.Outcome State Fault Refusal :=
  if s.running && (s.line line).running && (s.line line).periodEnd.isSome then
    done (betweenCycles line (s.modLine line fun l => { l with periodEnd := none }))
  else .next s

/-- NODE_REPLY (R64, R66, R75 to R80): what arrives at the leg not listened on is not taken. -/
def execNodeReply (line : LineId) (leg : Leg) (frame : List Byte) (s : State) : Host.Outcome State Fault Refusal :=
  match s.awaiting line with
  | some x => if x.leg = leg then done (received line x frame s) else .next s
  | none => .next s

/-- REPLY_TIMEOUT (R66, R71, R75, R76). -/
def execReplyTimeout (line : LineId) (s : State) : Host.Outcome State Fault Refusal :=
  match s.awaiting line with
  | some x => done (expired line x s)
  | none => .next s

/-- BROADCAST_SENT (R72, R87). -/
def execBroadcastSent (line : LineId) (s : State) : Host.Outcome State Fault Refusal :=
  match s.exchange line with
  | some x => if x.kind.awaitsReply then .next s else done (broadcastEnds line x s)
  | none => .next s

/-- DIRECTED_FRAME_SENT (R64, R66, R196): the drive enable is released and the reply timeout starts. -/
def execDirectedFrameSent (line : LineId) (s : State) : Host.Outcome State Fault Refusal :=
  match s.exchange line with
  | some x =>
    if x.kind.awaitsReply then
      done (s.modLine line fun l => { l with exch := some { x with sending := false } })
    else .next s
  | none => .next s

end Sys2Proof.Machine
end

