-- ==== Sys2Proof/Machine/Power.lean ====
section
/-!
DEFINITION. The supply monitor and the hotel clock: the cold start (R184 to R189, R44, R169), the storm drain
(R190, R191), the parked state (R193), and the commands of power, reset and clock (R183, R1, R2).
-/

namespace Sys2Proof.Machine

/-! ## What a loss of power leaves (R169, R183) -/

/-- The part with every volatile state at its start value, in this power state, at this link rate; the store's
cells, the hotel clock and the pins stand as they are (R184). -/
def State.volatileStart (s : State) (p : PowerState) (rate : LinkRate) : State where
  power := ⟨p, s.power.supply, s.power.pfw, s.power.resetPin, none⟩
  clock := s.clock
  rooms := []
  nodes := []
  groups := []
  prices := []
  settings := .default
  cred := .start
  enc := .start s.enc.cardIn
  lines := ⟨.start, .start, .start, .start⟩
  journal := .start
  store := { Store.start with tlog := s.store.tlog, jreg := s.store.jreg, idPlaces := s.store.idPlaces }
  link := .start rate s.link.holdIn
  signals := .none
  freeUses := s.freeUses
  pending := s.pending

/-- The part without power or held in RESET: the operation in progress is cut off and volatile state is gone
(R169, R183). -/
def goDark (s : State) : State := (s.onStore cutOff).volatileStart .off s.link.rate

/-! ## The scan of the table log (R169, R185) -/

/-- Whether a sector's slots show an interrupted erase (R169). -/
def Sector.interrupted {α : Type} (c : Sector α) : Bool := c.cut || decide (3 < c.spoiledCount)

/-- A sector as a cold start classes it from its slots (R169). -/
def Sector.classed {α : Type} (c : Sector α) : Sector α :=
  { c with awaitErase := c.interrupted, retired := !c.interrupted && decide (c.spoiledCount = 3) }

/-- A region as a cold start classes it. -/
def classRegion {α : Type} [DecidableEq α] (m : FMap (Sector α)) : FMap (Sector α) :=
  (m.map fun e => (e.1, e.2.classed)).filter fun e => decide (e.2 ≠ .blank)

/-- A node's volatile state after a cold start (R65, R88, R109). -/
def Node.fresh (e : NodeEntry) : Node := ⟨e, ⟨.disabled, 0, 0, false, false, false, false, none⟩, .start, .start⟩

/-- A table-log record applied to the working tables (R185). -/
def applyRec (s : State) (r : LogRec) : State :=
  match r.key, r.val with
  | .cred k, .cred v => s.onCred fun c => { c with slots := c.slots.set k v }
  | .room i, .room v => s.onRooms fun m => m.set i (v.map fun e => ⟨e, false, false⟩)
  | .node l a, .node v => s.onNodes fun m => m.set (nodeKey l a) (v.map Node.fresh)
  | .group g, .group e => s.onGroups fun m => putGroup m g e
  | .price i, .price e => s.onPrices fun m => putPrice m i e
  | .listPlace i, .listPlace p => s.onCred fun c => { c with list := c.list.set i p }
  | .serial, .serial n => s.onCred fun c => { c with serial := n }
  | .settings, .settings x => s.onSettings fun _ => x
  | .journalState, .journalState j =>
    s.onJournal fun x => { x with mark := j.mark, oldest := some j.oldest, programmedMark := j.mark }
  | _, _ => s

/-- The records a cold start applies, in ascending order of append count (R185). -/
def Store.scanOrder (t : Store) : List LogRec := sortBy LogRec.append (t.logRecs.map Prod.snd)

/-- The in-use usable sector holding the highest append count (R169). -/
def Store.newestLog (t : Store) : Option Nat :=
  ((sortBy (fun e => e.2.append) (t.logRecs.filter fun e => !(t.tsec e.1).retired)).getLast?).map Prod.fst

/-- The head of the table log as a cold start first finds it: that sector, or, in a log with no record, the
lowest-numbered erased usable one (R169). DESIGN CHOICE: the same where every record lies in retired sectors, and
sector 0 where no sector is erased and usable (notes/assumptions/61). -/
def Store.logHead (t : Store) : Nat :=
  match t.newestLog with
  | some k => k
  | none => ((rangeInc 0 39).find? fun k => (t.tsec k).erased && !(t.tsec k).retired).getD 0

/-- The interrupted sectors of both regions, in ascending order (R169). -/
def Store.interruptedSectors (t : Store) : List Nat :=
  (t.tlog.filter fun e => e.2.awaitErase).map Prod.fst ++ (t.jreg.filter fun e => e.2.awaitErase).map Prod.fst

/-- The table-log scan (R185), with the head of R169. DESIGN CHOICE: no evacuation is placed for a retired sector
that holds live records (notes/assumptions/59), and of the STORE occurrences STALLED is posted before READ_ONLY
(notes/assumptions/60), and in a table log with no record the first append count is 1 (notes/assumptions/76). -/
def scanTables (s : State) : State :=
  let s1 := s.onStore fun t => { t with tlog := classRegion t.tlog, jreg := classRegion t.jreg }
  let s2 := s1.store.scanOrder.foldl applyRec s1
  let s3 := s2.onStore fun t =>
    { t with
      nextAppend := (t.scanOrder.getLast?.map LogRec.append).getD 0 + 1,
      head := t.logHead,
      work := t.interruptedSectors.map fun k => ⟨k, .startUp⟩ }
  testReadOnly (moveLogHead false s3)

/-! ## The scan of the journal region (R186) -/

/-- The records the journal region offers, each with its sector. -/
def Store.journalRecs (t : Store) : List (Nat × JRec) := t.jreg.flatMap fun e => e.2.recs.map fun r => (e.1, r)

/-- The newest record of the region (R186). -/
def Store.newestRec (t : Store) : Option JRec :=
  ((sortBy (fun e => e.2.seq) t.journalRecs).getLast?).map Prod.snd

/-- The usable sector holding the highest sequence (R186). -/
def Store.newestJournal (t : Store) : Option Nat :=
  ((sortBy (fun e => e.2.seq) (t.journalRecs.filter fun e => !(t.jsec e.1).retired)).getLast?).map Prod.fst

/-- The head of the journal region (R186). DESIGN CHOICE: the lowest-numbered erased usable sector also where every
record lies in retired sectors, and sector 40 where there is none (notes/assumptions/62). -/
def Store.journalHead (t : Store) : Nat :=
  match t.newestJournal with
  | some k => k
  | none => ((rangeInc 40 127).find? fun k => (t.jsec k).erased && !(t.jsec k).retired).getD 40

/-- The oldest retained sequence as the region shows it, for a part with no journal-state entry: none where no sector
holds records (R143). -/
def Store.oldestFrom (t : Store) (spare : Nat) : Option Nat :=
  ((spare :: circleAfter spare).findSome? fun k => (t.jsec k).recs.head?).map JRec.seq

/-- Whether the table log holds a journal-state record. -/
def Store.hasJournalState (t : Store) : Bool := t.logRecs.any fun e => decide (e.2.key = .journalState)

/-- The journal unit's positions as the scan finds them (R137, R143, R147, R186; notes/assumptions/50). DESIGN CHOICE: where no other usable
sector exists the spare is the head itself (notes/assumptions/62). -/
def placeJournal (s : State) : State :=
  let head := s.store.journalHead
  let spare := (s.store.nextUsable head).getD head
  let newest := (s.store.newestRec.map JRec.seq).getD 0
  let oldest := if s.store.hasJournalState then s.journal.oldest else s.store.oldestFrom spare
  let mark := min newest (max s.journal.mark (oldest.getD 1 - 1))
  s.onJournal fun j =>
    { j with head := head, spare := spare, newest := newest, mark := mark,
             oldest := if s.store.journalRecs.isEmpty then none else oldest,
             nextSeq := max newest mark + 1 }

/-- The level occurrence of a cold start (R150). -/
def postStartLevel (s : State) : State :=
  let n := s.journal.uncollected
  if s.journal.writer = .full then post .journal (.full n) s
  else if Config.levelNear ≤ n then post .journal (.near n) s
  else if Config.levelHalf ≤ n then post .journal (.half n) s
  else s

/-- What the writer's state at a cold start leaves to be offered after START: the range of an OVERRUN record
(R145, R151; notes/assumptions/34). -/
abbrev OwedRange := Option (Nat × Nat)

/-- The writer's state at a cold start (R151). DESIGN CHOICE: JOURNAL_FAULT is posted after the occurrences of the
table-log scan (notes/assumptions/60); on the OVERWRITE path the journal-state entry takes its place in the table change
queue here, ahead of the credential unit's start-up work (notes/assumptions/70). -/
def startWriter (s : State) : State × OwedRange :=
  if s.store.usableJournal < 2 then (declareFault s, none)
  else if !s.headFull then (s, none)
  else if s.spareSec.erased then (moveJournalHead s, none)
  else if reclaimable s.journal.mark s.spareSec then (s.onJournal fun j => { j with writer := .waitingSpare }, none)
  else match s.settings.policy with
    | .hold => (s.onJournal fun j => { j with writer := .full }, none)
    | .overwrite => (raiseMark s, some s.overrunRange)

/-! ## START (R187) -/

/-- Whether the newest record found is a POWER_DOWN marked COMPLETE, or there is none (R187). -/
def Store.cleanStart (t : Store) : Bool :=
  match t.newestRec with
  | none => true
  | some r => decide (r.body.kind = .powerDown) && decide (r.body.v2 = .complete)

/-- The START record (R136, R187). -/
def startBody (clean : Bool) (c : ClockState) : JBody :=
  ⟨.start, none, none, none, if clean then .clean else .unclean, .clock c, .none⟩

/-! ## The credential unit's start-up work (R44) -/

/-- The highest sequence any list place holds or keeps (R44 step 5). -/
def CredUnit.highestSeq (c : CredUnit) : Nat := c.list.foldl (fun m e => max m e.2.seq) 0

/-- The highest number any record holds (R44 step 4). -/
def CredUnit.highestNumber (c : CredUnit) : Nat := c.slots.foldl (fun m e => max m e.2.number) 0

/-- The highest issue number the ACTIVE GUEST records of a room carry. -/
def highestIssue (room : Nat) (slots : FMap CredRec) : Nat :=
  slots.foldl (fun m e => if e.2.activeGuest room then max m e.2.issue else m) 0

/-- A room's issue number raised to the highest found on it (R44 step 3; notes/assumptions/35). -/
def raiseIssue (found : FMap CredRec) (s : State) (room : Nat) : State :=
  let n := highestIssue room found
  if s.currentIssue room < n then
    enqueue (.room room) (s.modRoom room fun x => { x with entry := { x.entry with issue := n } })
  else s

/-- A room's ACTIVE GUEST records of another issue superseded (R44 step 3). -/
def supersedeOld (s : State) (room : Nat) : State :=
  ((s.activeGuests room).filter fun e => decide (e.2.issue ≠ s.currentIssue room)).foldl
    (fun x e => enqueue (.cred e.1) (setCredState e.1 .superseded x)) s

/-- The start-up work (R44). DESIGN CHOICE: step 3 takes the rooms in the order of their indexes, and a room's
superseded records in slot order (notes/assumptions/74). -/
def credentialStart (s : State) : State :=
  let found := s.cred.slots
  let s1 := s.onCred fun c => { c with revCount := c.highestSeq }
  let s2 := (found.filter fun e => decide (e.2.state = .pending)).foldl
    (fun x e => revokeReported e.1 .issueAborted x) s1
  let s3 := if s2.clock.valid = .valid then minuteWork s2.clock.minute s2 else s2
  let s4 := s3.rooms.foldl (fun x e => supersedeOld (raiseIssue found x e.1) e.1) s3
  s4.onCred fun c => { c with serial := max c.serial c.highestNumber }

/-! ## The cold start (R184 to R189) -/

/-- The clock as a cold start takes it from the backup domain (R1). -/
def HotelClock.taken (c : HotelClock) : HotelClock := if c.lost then ⟨0, 0, .invalid, false⟩ else c

/-- The identity as the places show it (R154). -/
def foundIdentity (places : List IdPlace) : Option Identity :=
  places.findSome? fun p => match p with
    | .written i => some i
    | _ => none

/-- The end of a cold start (R189). -/
def endColdStart (s : State) : State :=
  if s.store.identity.isSome then allLines.foldl (fun x i => startLine i x) s else s

/-- A cold start with PFW deasserted (R184 to R189). -/
def startUp (rate : LinkRate) (s : State) : State :=
  let s1 := ((s.volatileStart .run rate).onClock HotelClock.taken).onStore
    fun t => { t with identity := foundIdentity t.idPlaces }
  let s2 := placeJournal (scanTables s1)
  let clean := s2.store.cleanStart
  let w := startWriter s2
  let s3 := offer (startBody clean w.1.clock.valid) (postStartLevel w.1)
  let s4 := match w.2 with
    | some r => offerOverrun r s3
    | none => s3
  endColdStart (credentialStart s4)

/-- A program in progress as a cold start begins without a loss of power: it runs to its end before the store is
scanned, and whether it is sound is a free value (R156; notes/assumptions/14). -/
def endProgram (s : State) : State :=
  match s.store.engine with
  | .programming p =>
    (s.onStore fun t => { landProgram p (Config.coldStartSound s.freeUses) t with engine := .idle }).onFreeUses
      fun n => n + 1
  | _ => s

/-- A cold start that finds PFW asserted: it stops, and the part is PARKED. A program in progress runs to its end
(R188). -/
def parkStart (rate : LinkRate) (s : State) : State :=
  (s.volatileStart .parked rate).onStore fun t =>
    { t with engine := s.store.engine, nextAppend := s.store.nextAppend }

/-- A cold start at this link rate (R184, R188); an erase in progress is left interrupted. -/
def coldStart (rate : LinkRate) (s : State) : State :=
  let s1 := s.onStore cutErases
  if s1.power.pfw then parkStart rate s1 else startUp rate (endProgram s1)

/-! ## The storm drain (R190, R191) -/

/-- The drain begins (R190). DESIGN CHOICE: a completed deferred reply that waits for the slot is kept and sent
(notes/assumptions/63). -/
def beginDrain (cause : DrainCause) (s : State) : State :=
  let s1 := post .power (.draining cause)
    (s.onPower fun p => { p with state := .draining, drain := some ⟨cause, false, none, false⟩ })
  let s2 := moveLogHead false ((s1.onStore stopReclaimer).onLink fun l => { l with deferred := none })
  allLines.foldl (fun x i => drainLine i x) (drainJob (drainMinibars s2))

/-- Whether the journal writer can program nothing further (R191). -/
def State.journalStuck (s : State) : Bool :=
  decide (s.journal.writer = .fault) || (s.headFull && !s.spareSec.erased)

/-- Whether a staging place cannot come (R191). -/
def State.stagingCannotCome (s : State) : Bool :=
  s.journal.shut || (decide (64 ≤ s.journal.staging.length) && s.journalStuck)

/-- Whether a table change place cannot come (R191). -/
def State.tableCannotCome (s : State) : Bool :=
  s.store.stalled && decide (Config.changePlaces ≤ s.store.queue.length)

/-- Whether the encoder job is IDLE, or its outcome is held for a place that cannot come (R191). -/
def State.jobAtRest (s : State) : Bool :=
  match s.enc.job with
  | none => true
  | some j =>
    match j.outcome, s.cred.slots.get j.slot with
    | some o, some r =>
      (!s.store.canQueue (s.outcomeKeys j o r) 0 && s.tableCannotCome) ||
      (s.needsStaging j o r && !s.journal.takesMoney && s.stagingCannotCome)
    | _, _ => false

/-- Whether a line of this room waits for a place that cannot come (R191). -/
def State.lineAtRest (s : State) (room : Nat) : Bool :=
  (!s.journal.takesMoney && s.stagingCannotCome) || (!s.store.canQueue [.room room] 0 && s.tableCannotCome)

/-- Whether every pending line waits for a place that cannot come (R191). -/
def State.barsAtRest (s : State) : Bool :=
  s.minibars.all fun e => e.2.2.bar.lines.isEmpty || s.lineAtRest e.2.2.entry.boundRoom

/-- Whether the table change queue and the waiting set are empty. -/
def Store.drained (t : Store) : Bool := t.queue.isEmpty && t.waiting.isEmpty

/-- The conditions of R191 for POWER_DOWN. -/
def State.drainDone (s : State) : Bool :=
  (allLines.all fun i => !(s.line i).running) && s.jobAtRest && s.barsAtRest &&
  (s.store.drained || s.store.stalled) && (decide (s.journal.staging.length ≤ 54) || s.journalStuck)

/-- Whether POWER_DOWN is marked COMPLETE (R191). -/
def State.drainComplete (s : State) : Bool :=
  s.store.drained && (s.minibars.all fun e => e.2.2.bar.lines.isEmpty) && s.enc.job.isNone

/-- The POWER_DOWN record (R136). -/
def powerDownBody (cause : DrainCause) (complete : Bool) : JBody :=
  ⟨.powerDown, none, none, none, .drain cause, if complete then .complete else .incomplete, .none⟩

/-- The sequence of the record last accepted, where it is a POWER_DOWN. -/
def Journal.powerDownSeq (j : Journal) : Option Nat :=
  (j.staging.getLast?.filter fun r => decide (r.body.kind = .powerDown)).map JRec.seq

/-- Whether the drain ends, POWER_DOWN having been offered (R191). -/
def State.drainOver (s : State) (d : DrainInfo) : Bool :=
  s.journalStuck ||
  match d.seq with
  | some q => decide (q ≤ s.journal.newest)
  | none => s.journal.staging.isEmpty

/-- The drain ends: parked where PFW is asserted, waiting for its cold start otherwise (R191, R193). -/
def endDrain (d : DrainInfo) (s : State) : State :=
  let s1 := post .power .parked s
  if s1.power.pfw then
    (s1.onPower fun p => { p with state := .parked, drain := none }).onEnc
      fun e => { e with job := none, headOp := none }
  else s1.onPower fun p => { p with drain := some { d with ended := true } }

/-- The end of the drain tested, in a drain whose POWER_DOWN has been offered (R191). -/
def testDrainEnd (s : State) : State :=
  match s.power.drain with
  | none => s
  | some d => if s.draining && d.offered && !d.ended && s.drainOver d then endDrain d s else s

/-- POWER_DOWN offered (R191). -/
def offerPowerDown (d : DrainInfo) (s : State) : State :=
  let s1 := offer (powerDownBody d.cause s.drainComplete) s
  testDrainEnd (s1.onPower fun p =>
    { p with drain := some { d with offered := true, seq := s1.journal.powerDownSeq } })

/-! ## The hotel clock (R1, R2) -/

/-- The clock a second later (R1). DESIGN CHOICE: at the largest minute a second below 59 goes to 59 at once
(notes/assumptions/53). -/
def HotelClock.tick (c : HotelClock) : HotelClock :=
  if maxMinute ≤ c.minute then { c with minute := maxMinute, second := 59 }
  else if c.second < 59 then { c with second := c.second + 1 }
  else { c with minute := c.minute + 1, second := if c.minute + 1 = maxMinute then 59 else 0 }

/-! ## The commands -/

/-- POWER_ON (R183): a cold start, or, with RESET asserted, the wait for its release. -/
def execPowerOn (straps : LinkRate) (clockLost : Bool) (s : State) : Host.Outcome State Fault Refusal :=
  if s.power.supply then .next s
  else
    let s1 := (s.onPower fun p => { p with supply := true }).onClock fun c => { c with lost := c.lost || clockLost }
    if s1.power.resetPin then .next s1 else done (coldStart straps s1)

/-- PFW_ASSERTED (R183). -/
def execPfwAsserted (s : State) : Host.Outcome State Fault Refusal :=
  let s1 := s.onPower fun p => { p with pfw := true }
  if s.running then done (beginDrain .pfw s1) else .next s1

/-- PFW_DEASSERTED (R183): a cold start in PARKED. -/
def execPfwDeasserted (straps : LinkRate) (s : State) : Host.Outcome State Fault Refusal :=
  let s1 := s.onPower fun p => { p with pfw := false }
  if s.power.state = .parked then done (coldStart straps s1) else .next s1

/-- RESET_ASSERTED (R183): the part stops as at a loss of power, and a drain is abandoned. -/
def execResetAsserted (s : State) : Host.Outcome State Fault Refusal :=
  .next (goDark (s.onPower fun p => { p with resetPin := true }))

/-- RESET_RELEASED (R183): a cold start, where RESET was asserted and the supply is present. -/
def execResetReleased (straps : LinkRate) (s : State) : Host.Outcome State Fault Refusal :=
  let s1 := s.onPower fun p => { p with resetPin := false }
  if s.power.resetPin && s.power.supply then done (coldStart straps s1) else .next s1

/-- POWER_DOWN (R191): offered once, when every condition holds. -/
def execPowerDown (s : State) : Host.Outcome State Fault Refusal :=
  match s.power.drain with
  | none => .next s
  | some d => if s.draining && !d.offered && s.drainDone then done (offerPowerDown d s) else .next s

/-- POST_DRAIN_COLD_START (R191, R192): a RESTART's drain keeps the link rate in use. -/
def execPostDrainColdStart (straps : LinkRate) (s : State) : Host.Outcome State Fault Refusal :=
  match s.power.drain with
  | none => .next s
  | some d =>
    if s.draining && d.ended && s.link.tx.isNone && s.link.slot.isNone then
      done (coldStart (if d.cause = .restart then s.link.rate else straps) s)
    else .next s

/-- HOTEL_CLOCK_TICK (R1, R2). -/
def execHotelClockTick (s : State) : Host.Outcome State Fault Refusal :=
  let s1 := s.onClock HotelClock.tick
  if s1.clock.minute ≠ s.clock.minute ∧ s.clock.valid = .valid ∧ s.working = true then
    done (minuteWork s1.clock.minute s1)
  else .next s1

/-- POWER_LOSS (R169): the core supply fails. -/
def execPowerLoss (s : State) : Host.Outcome State Fault Refusal :=
  .next (goDark (s.onPower fun p => { p with supply := false }))

end Sys2Proof.Machine
end

