-- ==== Sys2Proof/Machine/StoreEvents.lean ====
section
/-!
DEFINITION. The commands of the store engine and of the blocks that wait on it: completions of programs and
erases (R141, R155, R161, R164, R159), time limits and suspensions (R156, R158), the pre-erase (R142), the held
OVERRUN record (R145) and the waiting set (R160).
-/

namespace Sys2Proof.Machine

/-! ## Completions -/

/-- A journal program completes (R141). -/
def journalCompletes (k : Nat) (r : JRec) (sound : Bool) (s : State) : State :=
  testDrainEnd (if sound then journalProgrammed k r s else spoilJournal k s)

/-- A table-log program completes (R161). -/
def tableCompletes (k : Nat) (key : EntryKey) (v : EntryVal) (sound : Bool) (s : State) : State :=
  if sound then logProgrammed k key v s else spoilLog k s

/-- A copy-forward completes (R164). -/
def copyCompletes (k : Nat) (key : EntryKey) (v : EntryVal) (sound : Bool) (s : State) : State :=
  if sound then copyProgrammed k key v s else spoilLog k s

/-- The deferred request answered: into the slot if it is empty, and otherwise waiting for it (R174). -/
def answerDeferred (lines : List RLine) (s : State) : State :=
  match s.link.deferred with
  | none => s
  | some (tag, _) =>
    let s1 := s.onLink fun l => { l with deferred := none }
    if s1.link.slot.isNone && s1.link.deferredDone.isNone then placeReply tag lines s1
    else s1.onLink fun l => { l with deferredDone := some (tag, lines) }

/-- A line that is DISABLED reaches RUNNING (R155). -/
def startIfStopped (s : State) (i : LineId) : State := if (s.line i).running then s else startLine i s

/-- The part is commissioned (R155): the identity is in use, each DISABLED line reaches RUNNING, the reply is
made. -/
def commissioned (i : Identity) (s : State) : State :=
  let s1 := s.onStore fun t => { t with identity := some i }
  answerDeferred [.commissioned i.site i.name]
    (allLines.foldl startIfStopped s1)

/-- An identity program has failed: its place is spoiled and the next is tried, or the request is refused (R155). -/
def identityFailed (n : Nat) (i : Identity) (s : State) : State :=
  let s1 := s.onStore fun t => t.spoilId n
  match s1.store.freeIdPlace with
  | some _ => s1.onStore fun t => { t with idRequest := some i }
  | none => answerDeferred [.err .store] s1

/-- An identity program completes (R155); in a drain it commissions nothing and is not tried again (R190). -/
def identityCompletes (n : Nat) (i : Identity) (sound : Bool) (s : State) : State :=
  if s.draining then s.onStore fun t => landProgram (.identity n i) sound t
  else if sound then commissioned i (s.onStore fun t => { t with idPlaces := t.idPlaces.set n (.written i) })
  else identityFailed n i s

/-- A program completes: the engine is free and the requester has its report (R156). -/
def programCompletes (p : Program) (sound : Bool) (s : State) : State :=
  let s1 := freeEngine s
  if !s.working then s1.onStore (landProgram p sound)
  else match p with
    | .journal k r => journalCompletes k r sound s1
    | .table k key v => tableCompletes k key v sound s1
    | .copy k key v => copyCompletes k key v sound s1
    | .identity n i => identityCompletes n i sound s1

/-- An erase completes: the engine is free and the item has ended (R156, R159). -/
def eraseCompletes (e : EraseRun) (sound : Bool) (s : State) : State :=
  if sound then eraseSound e.work (freeEngine s) else eraseFailed e.work (freeEngine s)

/-! ## The commands -/

/-- JOURNAL_PROGRAM_COMPLETE (R141, R140). -/
def execJournalProgramComplete (sound : Bool) (s : State) : Host.Outcome State Fault Refusal :=
  match s.store.engine with
  | .programming (.journal k r) => done (programCompletes (.journal k r) sound s)
  | _ => .next s

/-- TABLE_LOG_PROGRAM_COMPLETE (R161). -/
def execTableLogProgramComplete (sound : Bool) (s : State) : Host.Outcome State Fault Refusal :=
  match s.store.engine with
  | .programming (.table k key v) => done (programCompletes (.table k key v) sound s)
  | _ => .next s

/-- COPY_FORWARD_COMPLETE (R164). -/
def execCopyForwardComplete (sound : Bool) (s : State) : Host.Outcome State Fault Refusal :=
  match s.store.engine with
  | .programming (.copy k key v) => done (programCompletes (.copy k key v) sound s)
  | _ => .next s

/-- IDENTITY_PROGRAM_COMPLETE (R155). -/
def execIdentityProgramComplete (sound : Bool) (s : State) : Host.Outcome State Fault Refusal :=
  match s.store.engine with
  | .programming (.identity n i) => done (programCompletes (.identity n i) sound s)
  | _ => .next s

/-- PROGRAM_TIMEOUT (R156): a program not completed at 2 ms is failed. -/
def execProgramTimeout (s : State) : Host.Outcome State Fault Refusal :=
  match s.store.engine with
  | .programming p => done (programCompletes p false s)
  | _ => .next s

/-- ERASE_COMPLETE (R159). -/
def execEraseComplete (sound : Bool) (s : State) : Host.Outcome State Fault Refusal :=
  match s.store.engine with
  | .erasing e => done (eraseCompletes e sound s)
  | _ => .next s

/-- ERASE_RUN_LIMIT (R156): an erase of 300 ms of run time is failed. -/
def execEraseRunLimit (s : State) : Host.Outcome State Fault Refusal :=
  match s.store.engine with
  | .erasing e => done (eraseCompletes e false s)
  | _ => .next s

/-- ERASE_SUSPEND (R158): the erase has run 1 ms; it is ordered suspended if a program waits, now or later. -/
def execEraseSuspend (s : State) : Host.Outcome State Fault Refusal :=
  match s.store.engine with
  | .erasing e =>
    if e.ran then .next s else done (s.onStore fun t => { t with engine := .erasing { e with ran := true } })
  | _ => .next s

/-- SUSPENSION_TAKES_EFFECT (R158): the erase stands suspended and the waiting program begins. -/
def execSuspensionTakesEffect (s : State) : Host.Outcome State Fault Refusal :=
  match s.store.engine with
  | .erasing e =>
    if e.ordered then
      done (s.onStore fun t => { t with engine := .idle, suspended := some { e with ordered := false } })
    else .next s
  | _ => .next s

/-- PRE_ERASE (R142, R145): the erase of the spare is placed with the reclaimer. -/
def execPreErase (s : State) : Host.Outcome State Fault Refusal :=
  if s.running && s.preEraseDue then
    done (s.onStore fun t => { t with work := t.work ++ [⟨s.journal.spare, .journalErase⟩] })
  else .next s

/-- The oldest held OVERRUN record accepted, where a place is free (R145). -/
def acceptHeld (s : State) : State :=
  match s.journal.heldOverruns with
  | [] => s
  | r :: t =>
    if s.journal.takesMoney then
      acceptRec (overrunBody r) (s.onJournal fun j => { j with heldOverruns := t })
    else s

/-- HELD_OVERRUN_ACCEPT (R145, R146): tried on a space signal. -/
def execHeldOverrunAccept (s : State) : Host.Outcome State Fault Refusal :=
  if s.working && s.signals.overrun then
    done (acceptHeld (s.onSignals fun g => { g with overrun := false }))
  else .next s

/-- An entry of the waiting set placed, while a place is free (R160). -/
def placeWaiting (s : State) (k : EntryKey) : State :=
  if s.store.queue.length < Config.changePlaces then enqueue k s else s

/-- WAITING_SET_PLACEMENT (R160): done on a space signal. -/
def execWaitingSetPlacement (s : State) : Host.Outcome State Fault Refusal :=
  if s.working && s.signals.waiting then
    done (s.store.waiting.foldl placeWaiting (s.onSignals fun g => { g with waiting := false }))
  else .next s

end Sys2Proof.Machine
end

