-- ==== Sys2Proof/Machine/DeskTables.lean ====
section
/-!
DEFINITION. The requests of the hotel clock and the site tables (Chapter 1), with the group releases and the
room lockout (R104, R105, R107).
-/

namespace Sys2Proof.Machine

/-- The outcome of a request's command: answered where a request is taken now (R173). -/
def desk (tag : List (Fin 10)) (s : State) (a : Answer) : Host.Outcome State Fault Refusal :=
  if s.takesRequest then done (answer tag s a) else .next s

/-! ## The clock (R1, R3) -/

/-- Every enabled node of a RUNNING line is owed its mode order (R73). -/
def oweModes (s : State) : State :=
  s.onNodes fun m => m.mapVals fun k n =>
    if n.entry.enabled && (s.line (keyLine k)).running then { n with link := n.link.oweMode } else n

/-- The CLOCK_STEP record (R3). -/
def clockStepBody (old new : Nat) : JBody := ⟨.clockStep, none, none, none, .num old, .num new, .none⟩

/-- The hotel clock set, with everything that follows (R3, R4). DESIGN CHOICE: set to the largest minute with a
second below 59 the clock keeps that second until its next tick (notes/assumptions/53). -/
def setClock (minute second : Nat) (s : State) : State :=
  let old := s.clock.minute
  let s1 := s.onClock fun c => { c with minute := minute, second := second, valid := .valid }
  let s2 := minuteWork minute (post .clock (.clock old minute) (offer (clockStepBody old minute) s1))
  if s.clock.valid = .invalid then oweModes s2 else s2

/-- CLOCK SET (R3). -/
def reqClockSet (h : ReqHead) (minute second : Arg Nat) (s : State) : Answer :=
  common false h s <|
    if badReq minute 0 maxMinute || badReq second 0 59 then .refuse .field
    else .reply (setClock (argNat minute) (argNat second) s) [.clockSet (argNat minute) (argNat second) .valid]

/-- CLOCK GET (R1). -/
def reqClockGet (h : ReqHead) (s : State) : Answer :=
  common false h s <|
    .reply s [.clockGet s.clock.minute s.clock.second (s.clock.minute % 1440) (s.clock.minute / 1440) s.clock.valid]

/-! ## The settings record (R17) -/

/-- SETUP (R17, R146). -/
def reqSetup (h : ReqHead) (fresh unlatch latch grace checkout wait : Arg Nat) (policy : Arg Policy) (s : State) :
    Answer :=
  common false h s <|
    let x := s.settings
    let new : Settings :=
      { x with
        fresh := argClamp fresh 2 30 x.fresh, unlatch := argClamp unlatch 3 15 x.unlatch,
        latch := argClamp latch 5 60 x.latch, grace := argClamp grace 0 600 x.grace,
        checkout := argClamp checkout 0 240 x.checkout, wait := argClamp wait 0 60 x.wait,
        policy := argOr policy x.policy }
    tableRequest s
      ([fresh, unlatch, latch, grace, checkout, wait].any argMalformed || argMalformed policy) false false [.settings] <|
      let s1 := enqueue .settings (s.onSettings fun _ => new)
      .reply (if new.policy = .overwrite ∧ s1.journal.writer = .full then overrunPath s1 else s1) [.settings new]

/-! ## Rooms (R6 to R9, R107) -/

/-- Whether a field does not name a room index. -/
def badRoom (room : Arg Nat) : Bool := badReq room 0 511

/-- Whether a field names no defined room. -/
def State.noRoom (s : State) (room : Arg Nat) : Bool := (s.rooms.get (argNat room)).isNone

/-- A room as ROOM SET first defines it (R6). -/
def RoomEntry.new (label : Nat) : RoomEntry := ⟨label, 0, 0, false, 0, 0, 0⟩

/-- The room entry a ROOM SET leaves (R6). -/
def setRoom (label : Arg Nat) (access : Arg (List Nat)) (limit discount : Arg Nat) (old : RoomEntry) : RoomEntry :=
  { old with
    label := argOr label old.label
    access := match argGet access with
      | some l => groupsOf l
      | none => old.access
    limit := argClamp limit 0 Config.tabCeiling old.limit
    discount := argClamp discount 0 5000 old.discount }

/-- Whether another room holds a label (R6). -/
def State.labelTaken (s : State) (room : Nat) (label : Arg Nat) : Bool :=
  match argGet label with
  | none => false
  | some l => s.rooms.any fun e => decide (e.1 ≠ room) && decide (e.2.entry.label = l)

/-- The room table with a room's entry set, its volatile state kept. -/
def putRoom (i : Nat) (e : RoomEntry) (s : State) : State :=
  s.onRooms fun m => m.put i (match m.get i with
    | some r => { r with entry := e }
    | none => ⟨e, false, false⟩)

/-- ROOM SET (R6). -/
def reqRoomSet (h : ReqHead) (room label : Arg Nat) (access : Arg (List Nat)) (limit discount : Arg Nat)
    (s : State) : Answer :=
  common false h s <|
    let i := argNat room
    let old := (s.rooms.get i).map Room.entry
    let new := setRoom label access limit discount (old.getD (.new 0))
    tableRequest s
      (badRoom room || badOpt label 1 9999 || badSet access || argMalformed limit || argMalformed discount ||
        (old.isNone && argMissing label))
      false (s.labelTaken i label) [.room i] <|
      .reply (enqueue (.room i) (putRoom i new s)) [.room i new]

/-- ROOM GET (R6, R8, R9). -/
def reqRoomGet (h : ReqHead) (room : Arg Nat) (s : State) : Answer :=
  common false h s <|
    if badRoom room then .refuse .field
    else
      let i := argNat room
      match s.rooms.get i with
      | none => .refuse .notFound
      | some r =>
        let door := s.boundNode .roomDoor i
        let bar := s.boundNode .minibar i
        .reply s [.roomGet i r (s.pendingTotal i) (door.map fun e => nodeName e.1) (bar.map fun e => nodeName e.1)
          (s.occupied i) (bar.map fun e => e.2.bar.state)]

/-- Whether the key table holds an ACTIVE or PENDING GUEST credential of a room (R7). -/
def State.roomHeld (s : State) (room : Nat) : Bool :=
  s.cred.slots.any fun e => e.2.activeGuest room || e.2.pendingGuest room

/-- ROOM RESET-ISSUE (R7). -/
def reqRoomResetIssue (h : ReqHead) (room : Arg Nat) (s : State) : Answer :=
  common false h s <|
    let i := argNat room
    tableRequest s (badRoom room) (s.noRoom room) (s.roomHeld i) [.room i] <|
      match s.rooms.get i with
      | none => .refuse .notFound
      | some r =>
        let e := { r.entry with issue := 0 }
        .reply (enqueue (.room i) (putRoom i e s)) [.room i e]

/-- The LOCKOUT record (R107). -/
def State.lockoutBody (s : State) (room : Nat) (value : Bool) (issue : Nat) : JBody :=
  ⟨.lockout, (s.boundNode .roomDoor room).map fun e => nodeName e.1, none, some room, .yesNo value, .num issue, .none⟩

/-- ROOM LOCKOUT (R107). -/
def reqRoomLockout (h : ReqHead) (room : Arg Nat) (lockout : Arg Bool) (s : State) : Answer :=
  common false h s <|
    let i := argNat room
    tableRequest s (badRoom room || argMissing lockout) (s.noRoom room) false [.room i] <|
      match s.rooms.get i with
      | none => .refuse .notFound
      | some r =>
        let v := argOr lockout r.entry.lockout
        let s1 := enqueue (.room i) (putRoom i { r.entry with lockout := v } s)
        .reply (if v = r.entry.lockout then s1 else offer (s.lockoutBody i v r.entry.issue) s1) [.lockout v]

/-! ## Nodes (R10 to R14) -/

/-- Whether the two fields do not name a line and an address. -/
def badNode (line addr : Arg Nat) : Bool := badReq line 1 4 || badReq addr 1 120

/-- The line a request names. -/
def namedLine (line : Arg Nat) : LineId := (argLine line).getD .l1

/-- The node entry a NODE SET leaves (R10). -/
def setNode (kind : Arg NodeKind) (pos room group : Arg Nat) (enabled : Arg Bool) (old : Option NodeEntry) :
    NodeEntry :=
  let held := old.getD ⟨.commonDoor, 0, none, 0, true, [], 0⟩
  let k := argOr kind held.kind
  let same := old.isSome && decide (k = held.kind)
  { kind := k
    pos := argOr pos held.pos
    room := if k = .commonDoor then none else match argGet room with
      | some r => some r
      | none => held.room
    group := argOr group held.group
    enabled := argOr enabled held.enabled
    codes := if same then held.codes else if k = .minibar then List.replicate 12 0 else []
    baseline := if same then held.baseline else 0 }

/-- The field faults of NODE SET that depend on the entry (R10). -/
def nodeFieldFault (kind : Arg NodeKind) (pos room group : Arg Nat) (old : Option NodeEntry) : Bool :=
  let k := argOr kind ((old.map NodeEntry.kind).getD .commonDoor)
  match old with
  | none =>
    argMissing kind || argMissing pos || argMissing group ||
    (if k = .commonDoor then argSent room else argMissing room)
  | some e =>
    if k = .commonDoor then argSent room
    else decide (e.kind = .commonDoor) && argMissing room

/-- Whether a minibar rests: LOCKED or HELD. -/
def BarRec.rests (b : BarRec) : Bool := decide (b.state = .locked) || decide (b.state = .held)

/-- Whether another node has this property. -/
def State.otherNode (s : State) (key : Nat) (p : Nat → NodeEntry → Bool) : Bool :=
  s.nodes.any fun e => decide (e.1 ≠ key) && p e.1 e.2.entry

/-- Whether a NODE SET that leaves this entry breaks a rule of the table (R10, R12). -/
def State.nodeBreaks (s : State) (line : LineId) (addr : Nat) (new : NodeEntry) : Bool :=
  let key := nodeKey line addr
  (s.group new.group).offline ||
  (s.otherNode key fun k e => decide (keyLine k = line) && decide (e.pos = new.pos)) ||
  (decide (new.kind ≠ .commonDoor) &&
    s.otherNode key fun _ e => decide (e.kind = new.kind) && decide (e.room = new.room)) ||
  match s.node line addr with
  | none => false
  | some n =>
    decide (n.entry.kind = .minibar) && !n.bar.rests &&
    (decide (new.kind ≠ .minibar) || decide (new.room ≠ n.entry.room))

/-- A minibar record as it starts at a node, HELD where its room's hold mark is set (R11, R109). -/
def State.newBar (s : State) (e : NodeEntry) : BarRec :=
  if e.kind = .minibar then { BarRec.start with state := s.restState e.room } else .start

/-- A node as NODE SET creates it (R11; notes/assumptions/24). -/
def State.createdNode (s : State) (e : NodeEntry) : Node :=
  ⟨e, ⟨if e.enabled then .unknown else .disabled, 0, 0, false, false, false, false, none⟩, .start, s.newBar e⟩

/-- What NODE SET does to what a line master holds for a node (R11, R73). -/
def NodeLink.reset (old new : NodeEntry) (l : NodeLink) : NodeLink :=
  let l1 :=
    if new.enabled && !old.enabled then { l with state := .unknown, miss := 0 }
    else if old.enabled && !new.enabled then { l with state := .disabled }
    else l
  if new.group = old.group then l1 else l1.oweGroup

/-- A present node as NODE SET changes it (R11). -/
def State.changedNode (s : State) (n : Node) (e : NodeEntry) : Node :=
  { entry := e
    link := n.link.reset n.entry e
    door := if e.kind = n.entry.kind then n.door else .start
    bar :=
      if e.kind ≠ n.entry.kind then s.newBar e
      else if e.kind = .minibar ∧ e.room ≠ n.entry.room then { n.bar with state := s.restState e.room }
      else n.bar }

/-- A room's privacy goes off as it loses its door node (R9, R11). -/
def dropPrivacy (old : NodeEntry) (s : State) : State :=
  if old.kind = .roomDoor then s.modRoom old.boundRoom fun r => { r with privacy := false } else s

/-- Whether a NODE SET that leaves this entry creates a node or enables one (R11). -/
def State.joins (s : State) (line : LineId) (addr : Nat) (e : NodeEntry) : Bool :=
  match s.node line addr with
  | none => true
  | some n => e.enabled && !n.entry.enabled

/-- The line with an address taken out of the visits still to come in its cycle: a node created or enabled takes
its place in the next cycle, though its address was listed for this one (R11, R67). -/
def Line.unlist (addr : Nat) (l : Line) : Line :=
  { l with cycle := l.cycle.map fun c => { c with rest := c.rest.filter fun a => decide (a ≠ addr) } }

/-- The node table after a NODE SET, with its effects on the room's and the minibar's volatile state (R11). -/
def putNode (line : LineId) (addr : Nat) (e : NodeEntry) (s : State) : State :=
  let key := nodeKey line addr
  match s.node line addr with
  | none => s.onNodes fun m => m.put key (s.createdNode e)
  | some n =>
    let s1 := if n.entry.kind = e.kind ∧ n.entry.room = e.room then s else dropPrivacy n.entry s
    s1.onNodes fun m => m.put key (s.changedNode n e)

/-- A NODE SET with its effects on volatile state (R11). -/
def applyNodeSet (line : LineId) (addr : Nat) (e : NodeEntry) (s : State) : State :=
  let s1 := putNode line addr e s
  if s.joins line addr e then s1.modLine line (Line.unlist addr) else s1

/-- NODE SET (R10, R11). -/
def reqNodeSet (h : ReqHead) (line addr : Arg Nat) (kind : Arg NodeKind) (pos room group : Arg Nat)
    (enabled : Arg Bool) (s : State) : Answer :=
  common false h s <|
    let l := namedLine line
    let a := argNat addr
    let old := (s.node l a).map Node.entry
    let new := setNode kind pos room group enabled old
    tableRequest s
      (badNode line addr || badOpt pos 1 120 || badOpt group 0 15 || badOpt room 0 511 || argMalformed kind ||
        argMalformed enabled || nodeFieldFault kind pos room group old)
      (argSent room && s.noRoom room) (s.nodeBreaks l a new) [.node l a] <|
      .reply (enqueue (.node l a) (applyNodeSet l a new s)) [.node (l, a) new]

/-- A slot as NODE GET shows it (R13). -/
def Node.slotShown (n : Node) (k : Nat) : SlotShown :=
  ⟨n.entry.code k, n.entry.baseline.has k, n.bar.present.map fun m => m.has k, n.bar.missing.has k, n.bar.lines.get k⟩

/-- NODE GET (R13). -/
def reqNodeGet (h : ReqHead) (line addr : Arg Nat) (s : State) : Answer :=
  common false h s <|
    if badNode line addr then .refuse .field
    else
      let l := namedLine line
      let a := argNat addr
      match s.node l a with
      | none => .refuse .notFound
      | some n =>
        let isBar := decide (n.entry.kind = .minibar)
        .reply s [.nodeGet (l, a) n.entry n.link.state n.link.miss n.link.garble n.link.status n.door.condition
          (if isBar then none else some ⟨n.door.cause, n.door.release⟩)
          (if isBar then some n.bar.state else none) (if isBar then allSlots.map n.slotShown else [])]

/-- The exchange of a line whose node is removed: one outstanding with that node waits out its end for nothing
(R13; notes/assumptions/29). -/
def Line.forget (addr : Nat) (l : Line) : Line :=
  { l with
    queue := l.queue.filter fun o => decide (o.target ≠ some addr)
    exch := l.exch.map fun x =>
      if x.kind.awaitsReply && decide (x.addr = addr) then { x with kind := .removed } else x
    cycle := l.cycle.map fun c =>
      { c with visit := c.visit.map fun v => if v.addr = addr then { v with done := true } else v } }

/-- A node removed (R13). -/
def removeNode (line : LineId) (addr : Nat) (n : Node) (s : State) : State :=
  let lost := (s.line line).queue.filter fun o => decide (o.target = some addr)
  let s1 := (s.onNodes fun m => m.del (nodeKey line addr)).modLine line (Line.forget addr)
  journalLost line .removed lost (dropPrivacy n.entry s1)

/-- NODE REMOVE (R13). -/
def reqNodeRemove (h : ReqHead) (line addr : Arg Nat) (s : State) : Answer :=
  common false h s <|
    let l := namedLine line
    let a := argNat addr
    let n := s.node l a
    tableRequest s (badNode line addr) n.isNone
      (n.any fun n => decide (n.entry.kind = .minibar) && !n.bar.rests) [.node l a] <|
      match n with
      | none => .refuse .notFound
      | some n => .reply (enqueue (.node l a) (removeNode l a n s)) [.ok]

/-- The item codes after STOCK, slot by slot (R14). -/
def stockCodes : List Nat → List (Arg Nat) → List Nat
  | c :: t, a :: r => argOr a c :: stockCodes t r
  | l, [] => l
  | [], _ => []

/-- A node's entry after STOCK: a slot whose code is now 0 leaves the baseline (R14). -/
def NodeEntry.restock (e : NodeEntry) (codes : List (Arg Nat)) : NodeEntry :=
  let e1 := { e with codes := stockCodes e.codes codes }
  { e1 with baseline := e1.baseline &&& e1.stocked }

/-- STOCK (R14). -/
def reqStock (h : ReqHead) (line addr : Arg Nat) (codes : List (Arg Nat)) (s : State) : Answer :=
  common false h s <|
    let l := namedLine line
    let a := argNat addr
    let n := (s.node l a).filter fun n => decide (n.entry.kind = .minibar)
    tableRequest s
      (badNode line addr || codes.any (fun c => badOpt c 0 127) || !(codes.any argSent) || decide (12 < codes.length))
      n.isNone (n.any fun n => !n.bar.rests) [.node l a] <|
      match n with
      | none => .refuse .notFound
      | some n =>
        let e := n.entry.restock codes
        .reply (enqueue (.node l a) (s.modNode l a fun n => { n with entry := e })) [.codes e.codes]

/-! ## Groups (R15, R104, R105) -/

/-- Whether a field does not name a group. -/
def badGroup (group : Arg Nat) : Bool := badReq group 0 15

/-- GROUP SET (R15). -/
def reqGroupSet (h : ReqHead) (group : Arg Nat) (offline : Arg Bool) (s : State) : Answer :=
  common false h s <|
    let g := argNat group
    let v := argOr offline false
    let old := s.group g
    let new := if v = old.offline then old else ⟨v, .normal⟩
    tableRequest s (badGroup group || argMissing offline) false
      (v && s.nodes.any fun e => decide (e.2.entry.group = g)) [.group g] <|
      .reply (enqueue (.group g) (s.onGroups fun m => putGroup m g new)) [.group g new]

/-- What a group request meets at the lines: how many placed its broadcast, were given owed marks instead, or
were DISABLED (R104). -/
structure GroupSent where
  placed : Nat
  owed : Nat
  disabled : Nat
  deriving DecidableEq, Repr

/-- The owed marks of a line whose queue did not take the broadcast (R105). -/
def oweGroup (i : LineId) (g : Nat) (s : State) : State :=
  modNodesOn i (fun n =>
    if n.entry.enabled && decide (n.entry.group = g) then { n with link := n.link.oweGroup } else n) s

/-- A group's order offered to a line (R105). DESIGN CHOICE: a RUNNING line that did not place it counts among
those given owed marks though no node of the group is on it (notes/assumptions/54). -/
def sendGroup (g : Nat) (o : Order) (r : State × GroupSent) (i : LineId) : State × GroupSent :=
  let (s, c) := r
  if !(s.line i).running then (s, { c with disabled := c.disabled + 1 })
  else if (s.line i).places .other then (proceed i (placeOrder i o s), { c with placed := c.placed + 1 })
  else (oweGroup i g s, { c with owed := c.owed + 1 })

/-- A group's order offered to every line (R105). -/
def sendGroupOrder (g : Nat) (s : State) : State × GroupSent :=
  allLines.foldl (sendGroup g ⟨s.groupOrder g, .other, none, g⟩) (s, ⟨0, 0, 0⟩)

/-- The GROUP_STATE record (R104, R136). -/
def groupStateBody (g : Nat) (new old : ReleaseState) : JBody :=
  ⟨.groupState, none, none, none, .release new, .release old, .group g⟩

/-- GROUP RELEASE, GROUP SECURE and GROUP NORMAL (R104). -/
def groupRequest (h : ReqHead) (group : Arg Nat) (asked : ReleaseState) (s : State) : Answer :=
  common false h s <|
    let g := argNat group
    let old := s.group g
    tableRequest s (badGroup group) false old.offline [.group g] <|
      let s1 := enqueue (.group g) (s.onGroups fun m => putGroup m g { old with release := asked })
      let r := sendGroupOrder g s1
      let s2 := if old.release = asked then r.1 else offer (groupStateBody g asked old.release) r.1
      .reply s2 [.groupState asked r.2.placed r.2.owed r.2.disabled]

/-- GROUP RELEASE (R104). -/
def reqGroupRelease (h : ReqHead) (group : Arg Nat) (s : State) : Answer := groupRequest h group .released s

/-- GROUP SECURE (R104). -/
def reqGroupSecure (h : ReqHead) (group : Arg Nat) (s : State) : Answer := groupRequest h group .secured s

/-- GROUP NORMAL (R104). -/
def reqGroupNormal (h : ReqHead) (group : Arg Nat) (s : State) : Answer := groupRequest h group .normal s

/-! ## Prices (R16) -/

/-- PRICE SET (R16). -/
def reqPriceSet (h : ReqHead) (item price tax : Arg Nat) (s : State) : Answer :=
  common false h s <|
    let i := argNat item
    let old := s.price i
    let new : PriceEntry := ⟨argOr price old.price, argClamp tax 0 3000 old.tax⟩
    tableRequest s
      (badReq item 1 127 || badOpt price 0 65535 || argMalformed tax || !(argSent price || argSent tax))
      false false [.price i] <|
      .reply (enqueue (.price i) (s.onPrices fun m => putPrice m i new)) [.price i new]

/-- PRICE GET (R16). -/
def reqPriceGet (h : ReqHead) (item : Arg Nat) (s : State) : Answer :=
  common false h s <|
    if badReq item 1 127 then .refuse .field else .reply s [.price (argNat item) (s.price (argNat item))]

/-! ## The commands -/

/-- CLOCK SET (R3). -/
def execClockSet (h : ReqHead) (minute second : Arg Nat) (s : State) : Host.Outcome State Fault Refusal :=
  desk h.tag s (reqClockSet h minute second s)

/-- CLOCK GET (R1). -/
def execClockGet (h : ReqHead) (s : State) : Host.Outcome State Fault Refusal := desk h.tag s (reqClockGet h s)

/-- SETUP (R17). -/
def execSetup (h : ReqHead) (fresh unlatch latch grace checkout wait : Arg Nat) (policy : Arg Policy) (s : State) :
    Host.Outcome State Fault Refusal :=
  desk h.tag s (reqSetup h fresh unlatch latch grace checkout wait policy s)

/-- ROOM SET (R6). -/
def execRoomSet (h : ReqHead) (room label : Arg Nat) (access : Arg (List Nat)) (limit discount : Arg Nat)
    (s : State) : Host.Outcome State Fault Refusal :=
  desk h.tag s (reqRoomSet h room label access limit discount s)

/-- ROOM GET (R8). -/
def execRoomGet (h : ReqHead) (room : Arg Nat) (s : State) : Host.Outcome State Fault Refusal :=
  desk h.tag s (reqRoomGet h room s)

/-- ROOM RESET-ISSUE (R7). -/
def execRoomResetIssue (h : ReqHead) (room : Arg Nat) (s : State) : Host.Outcome State Fault Refusal :=
  desk h.tag s (reqRoomResetIssue h room s)

/-- ROOM LOCKOUT (R107). -/
def execRoomLockout (h : ReqHead) (room : Arg Nat) (lockout : Arg Bool) (s : State) :
    Host.Outcome State Fault Refusal :=
  desk h.tag s (reqRoomLockout h room lockout s)

/-- NODE SET (R10). -/
def execNodeSet (h : ReqHead) (line addr : Arg Nat) (kind : Arg NodeKind) (pos room group : Arg Nat)
    (enabled : Arg Bool) (s : State) : Host.Outcome State Fault Refusal :=
  desk h.tag s (reqNodeSet h line addr kind pos room group enabled s)

/-- NODE GET (R13). -/
def execNodeGet (h : ReqHead) (line addr : Arg Nat) (s : State) : Host.Outcome State Fault Refusal :=
  desk h.tag s (reqNodeGet h line addr s)

/-- NODE REMOVE (R13). -/
def execNodeRemove (h : ReqHead) (line addr : Arg Nat) (s : State) : Host.Outcome State Fault Refusal :=
  desk h.tag s (reqNodeRemove h line addr s)

/-- STOCK (R14). -/
def execStock (h : ReqHead) (line addr : Arg Nat) (codes : List (Arg Nat)) (s : State) :
    Host.Outcome State Fault Refusal :=
  desk h.tag s (reqStock h line addr codes s)

/-- GROUP SET (R15). -/
def execGroupSet (h : ReqHead) (group : Arg Nat) (offline : Arg Bool) (s : State) :
    Host.Outcome State Fault Refusal :=
  desk h.tag s (reqGroupSet h group offline s)

/-- GROUP RELEASE (R104). -/
def execGroupRelease (h : ReqHead) (group : Arg Nat) (s : State) : Host.Outcome State Fault Refusal :=
  desk h.tag s (reqGroupRelease h group s)

/-- GROUP SECURE (R104). -/
def execGroupSecure (h : ReqHead) (group : Arg Nat) (s : State) : Host.Outcome State Fault Refusal :=
  desk h.tag s (reqGroupSecure h group s)

/-- GROUP NORMAL (R104). -/
def execGroupNormal (h : ReqHead) (group : Arg Nat) (s : State) : Host.Outcome State Fault Refusal :=
  desk h.tag s (reqGroupNormal h group s)

/-- PRICE SET (R16). -/
def execPriceSet (h : ReqHead) (item price tax : Arg Nat) (s : State) : Host.Outcome State Fault Refusal :=
  desk h.tag s (reqPriceSet h item price tax s)

/-- PRICE GET (R16). -/
def execPriceGet (h : ReqHead) (item : Arg Nat) (s : State) : Host.Outcome State Fault Refusal :=
  desk h.tag s (reqPriceGet h item s)

end Sys2Proof.Machine
end

