-- ==== Sys2Proof/Machine/DeskCards.lean ====
section
/-!
DEFINITION. The requests of credentials and of the encoder: ISSUE (R23 to R29), CANCEL and ENCODER RESET (R58 to
R60), REVOKE, CHECKOUT and CRED GET (R34, R35, R43), CARD READ (R62, R63).
-/

namespace Sys2Proof.Machine

/-! ## ISSUE: fields (R24) -/

/-- Whether a mode issues a GUEST card. -/
def modeGuest : IssueMode → Bool
  | .newStay | .extraKey => true
  | _ => false

/-- Whether a mode takes a group mask and a window. -/
def modeMasked : IssueMode → Bool
  | .staff | .restock => true
  | _ => false

/-- The kind of credential a mode issues. -/
def modeKind : IssueMode → CredKind
  | .newStay | .extraKey => .guest
  | .staff => .staff
  | .restock => .restock
  | .master => .master

/-- The fields of an ISSUE, as carried. -/
structure IssueFields where
  room : Arg Nat
  validFrom : Arg Nat
  validUntil : Arg EndMinute
  groups : Arg (List Nat)
  window : Arg (Nat × Nat)
  minibar : Arg Bool

/-- Whether a window is malformed or out of its range. -/
def badWindow : Arg (Nat × Nat) → Bool
  | .given w => decide (1439 < w.1) || decide (1439 < w.2)
  | .malformed => true
  | .absent => false

/-- Whether an end of validity is malformed, out of its range, or, for a GUEST mode, absent or open. -/
def badUntil (guest : Bool) : Arg EndMinute → Bool
  | .given (some m) => decide (maxMinute < m)
  | .given none => guest
  | .malformed => true
  | .absent => guest

/-- The valid_from an ISSUE gives. -/
def State.issueFrom (s : State) (f : IssueFields) : Nat := argOr f.validFrom s.clock.minute

/-- The valid_until an ISSUE gives. -/
def issueUntil (f : IssueFields) : EndMinute := argOr f.validUntil none

/-- Whether an end is not later than a minute. -/
def notLater (e : EndMinute) (m : Nat) : Bool := endBy m e

/-- The field faults of an ISSUE of this mode (R24). -/
def State.issueFieldFault (s : State) (m : IssueMode) (f : IssueFields) : Bool :=
  (if modeGuest m then badRoom f.room else argSent f.room) ||
  badOpt f.validFrom 0 maxMinute || badUntil (modeGuest m) f.validUntil ||
  (if modeMasked m then badSet f.groups || badWindow f.window else argSent f.groups || argSent f.window) ||
  (if modeGuest m then argMalformed f.minibar else argSent f.minibar) ||
  notLater (issueUntil f) (s.issueFrom f) || notLater (issueUntil f) s.clock.minute

/-! ## ISSUE: the tests of the mode (R27, R28) -/

/-- The later of two ends of validity. -/
def laterEnd (a b : EndMinute) : EndMinute := if endEarlier a b then b else a

/-- The latest valid_until among a room's ACTIVE GUEST credentials (R28). -/
def State.latestUntil (s : State) (room : Nat) : EndMinute :=
  (s.activeGuests room).foldl (fun e x => laterEnd e x.2.validUntil) (some 0)

/-- The valid_until an EXTRA_KEY takes (R28). -/
def State.extraUntil (s : State) (room : Nat) (given : EndMinute) : EndMinute :=
  if endEarlier (s.latestUntil room) given then s.latestUntil room else given

/-- The valid_until an accepted ISSUE takes. -/
def State.appliedUntil (s : State) (m : IssueMode) (f : IssueFields) : EndMinute :=
  if m = .extraKey then s.extraUntil (argNat f.room) (issueUntil f) else issueUntil f

/-- The seventh test of R24: the refusal of the mode, if any (R27, R28). -/
def State.modeRefusal (s : State) (m : IssueMode) (f : IssueFields) : Option ErrCode :=
  let room := argNat f.room
  match m with
  | .newStay => if 65535 ≤ s.currentIssue room then some .full else none
  | .extraKey =>
    if !((s.activeGuests room).any fun e => decide (e.2.issue = s.currentIssue room)) then some .state
    else if 8 ≤ (s.activeGuests room).length then some .full
    else if notLater (s.appliedUntil m f) (s.issueFrom f) then some .field
    else none
  | _ => none

/-! ## ISSUE: the slot (R25) -/

/-- The lowest number from `k` on that is no key of a table in canonical form. -/
def firstGap {α : Type} : Nat → FMap α → Nat
  | k, [] => k
  | k, (i, _) :: t => if i = k then firstGap (k + 1) t else k

/-- Whether a slot's record may be reused (R25). -/
def CredState.reusable : CredState → Bool
  | .lapsed | .superseded | .revoked => true
  | _ => false

/-- The slot of the reusable record of earliest expiry (R25). -/
def State.reusableSlot (s : State) : Option Nat :=
  match s.cred.slots.filter fun e => e.2.state.reusable with
  | [] => none
  | e :: t =>
    some (t.foldl (fun m x => if endEarlier (s.expiry x.2) (s.expiry m.2) then x else m) e).1

/-- The slot an ISSUE takes (R25). -/
def State.issueSlot (s : State) : Option Nat :=
  if firstGap 0 s.cred.slots < Config.credSlots then some (firstGap 0 s.cred.slots) else s.reusableSlot

/-! ## ISSUE: acceptance (R23, R26 to R29) -/

/-- The record an ISSUE makes (R26 to R29). -/
def State.issueRecord (s : State) (m : IssueMode) (f : IssueFields) : CredRec :=
  let room := argNat f.room
  let window := argOr f.window (0, 0)
  { number := s.cred.serial + 1
    kind := modeKind m
    state := .pending
    room := if modeGuest m then room else 0
    issue := match m with
      | .newStay => s.currentIssue room + 1
      | .extraKey => s.currentIssue room
      | _ => 0
    validFrom := s.issueFrom f
    validUntil := s.appliedUntil m f
    mask := if modeMasked m then groupsOf (argOr f.groups []) else 0
    winStart := if modeMasked m then window.1 else 0
    winEnd := if modeMasked m then window.2 else 0
    minibar := modeGuest m && argOr f.minibar false
    reason := none
    revokedAt := 0 }

/-- The chosen slot's queued record leaves its place where the serial has none, so that the serial goes ahead
(R23). -/
def yieldPlace (slot : Nat) (t : Store) : Store :=
  if t.hasPlace .serial then t else { t with queue := t.queue.filter fun p => decide (p.key ≠ .cred slot) }

/-- The encoder job of an accepted ISSUE (R26, R49). -/
def Job.issue (m : IssueMode) (number slot : Nat) : Job :=
  ⟨.issue, m, .preparing, number, slot, none, 0, false, false, false, none, none, none, none, none⟩

/-- An ISSUE accepted (R23, R26). -/
def acceptIssue (m : IssueMode) (slot : Nat) (r : CredRec) (s : State) : State :=
  let s1 := (s.onCred fun c => { c with serial := r.number }).onStore (yieldPlace slot)
  let s2 := (enqueue .serial s1).onCred fun c => { c with slots := c.slots.put slot r }
  (enqueue (.cred slot) s2).onEnc fun e => { e with job := some (.issue m r.number slot) }

/-- The reply to an accepted ISSUE (R26). -/
def issuedLine (slot : Nat) (r : CredRec) : RLine :=
  .issued r.number slot (if r.kind = .guest then some r.issue else none) r.validFrom r.validUntil

/-- The tests of an ISSUE whose fields are sound, in the order of R24 from the third on. -/
def issueTests (m : IssueMode) (f : IssueFields) (s : State) : Answer :=
  if s.store.identity.isNone then .refuse .uncommissioned
  else if s.clock.valid = .invalid then .refuse .clock
  else if s.enc.job.isSome then .refuse .busy
  else if modeGuest m && s.noRoom f.room then .refuse .notFound
  else match s.modeRefusal m f with
    | some e => .refuse e
    | none =>
      if s.store.readOnly then .refuse .store
      else if max32 ≤ s.cred.serial then .refuse .full
      else match s.issueSlot with
        | none => .refuse .full
        | some slot =>
          if !s.store.canQueue [.serial, .cred slot] 0 then .refuse .busy
          else
            let r := s.issueRecord m f
            .reply (acceptIssue m slot r s) [issuedLine slot r]

/-- ISSUE (R24). -/
def reqIssue (h : ReqHead) (mode : Arg IssueMode) (f : IssueFields) (s : State) : Answer :=
  common false h s <|
    match argGet mode with
    | none => .refuse .field
    | some m => if s.issueFieldFault m f then .refuse .field else issueTests m f s

/-! ## CANCEL and ENCODER RESET (R58, R60) -/

/-- The state the job shows, `none` for IDLE. -/
def State.jobState (s : State) : Option JobState := s.enc.job.map Job.state

/-- Whether a CANCEL's number is not that of the job (R58). -/
def Job.numberDiffers (j : Job) (number : Arg Nat) : Bool :=
  match argGet number with
  | none => false
  | some n => decide (j.kind = .read) || decide (n ≠ j.number)

/-- CANCEL (R58). -/
def reqCancel (h : ReqHead) (number : Arg Nat) (s : State) : Answer :=
  common false h s <|
    if badOpt number 1 max32 then .refuse .field
    else match s.enc.job with
      | none => .refuse .state
      | some j =>
        if j.numberDiffers number then .refuse .state
        else
          let r := cancelJob s
          .reply r.1 [.cancelled r.1.jobState r.2]

/-- ENCODER RESET (R60). -/
def reqEncoderReset (h : ReqHead) (s : State) : Answer :=
  common false h s <|
    let r := cancelJob s
    let s1 := r.1.onEnc fun e => { e with lastRead := none }
    .reply s1 [.cancelled s1.jobState r.2]

/-! ## REVOKE and CHECKOUT (R34, R35) -/

/-- Whether the reason is not one REVOKE takes (R34). -/
def badReason (reason : Arg RevReason) : Bool :=
  match argGet reason with
  | some .lost | some .security => false
  | _ => true

/-- Whether the table change queue can take a record's slot and a list place (R34; notes/assumptions/16). -/
def State.canRevoke (s : State) (slot : Nat) (r : CredRec) : Bool :=
  let keys := (s.verdict r).keys
  s.store.canQueue (.cred slot :: keys) (if keys.isEmpty then 1 else 0)

/-- Whether a verdict displaces an entry (R34, R40). -/
def ListVerdict.displacesOne : ListVerdict → Bool
  | .displaces _ _ _ => true
  | _ => false

/-- REVOKE of a record by its state (R34). DESIGN CHOICE: every reply carries the state, a reason, a sequence and
the displacement; in case 5 the sequence is 0 and the displacement NO, in case 7 also the reason NONE, and in case 9
the reason is the one requested (notes/assumptions/72). -/
def revokeFound (slot : Nat) (r : CredRec) (why : RevReason) (s : State) : Answer :=
  match r.state with
  | .superseded | .lapsed => .refuse .state
  | .revoked => .reply s [.revoked .revoked r.reason 0 false]
  | .pending =>
    if s.store.readOnly then .refuse .store
    else .reply (reachPending why s) [.revoked .pending none 0 false]
  | .active =>
    if s.store.readOnly then .refuse .store
    else if !s.canRevoke slot r then .refuse .busy
    else
      let v := s.verdict r
      .reply (revokeReported slot why s)
        [.revoked .revoked (some why) (v.seqGiven s.cred.revCount) v.displacesOne]

/-- REVOKE (R34). -/
def reqRevoke (h : ReqHead) (number : Arg Nat) (reason : Arg RevReason) (s : State) : Answer :=
  common false h s <|
    if badReq number 1 max32 || badReason reason then .refuse .field
    else match s.findCred (argNat number) with
      | none => .refuse .notFound
      | some (slot, r) => revokeFound slot r (argOr reason .lost) s

/-- What the revocation of these slots in turn comes to: the table entries it changes, how many were entered on
the list, and how many were not. -/
def revocations (why : RevReason) : List Nat → State → List EntryKey × Nat × Nat
  | [], _ => ([], 0, 0)
  | slot :: t, s =>
    let keys := match s.cred.slots.get slot with
      | some r => (s.verdict r).keys
      | none => []
    let rest := revocations why t (revokeCred slot why s)
    (.cred slot :: keys ++ rest.1, rest.2.1 + keys.length, rest.2.2 + (1 - keys.length))

/-- Whether a room has a PENDING GUEST credential. -/
def State.pendingRoom (s : State) (room : Nat) : Bool := s.cred.slots.any fun e => e.2.pendingGuest room

/-- The CHECKOUT record (R35). -/
def checkoutBody (room revoked issue : Nat) : JBody :=
  ⟨.checkout, none, none, some room, .num revoked, .num issue, .none⟩

/-- A room checked out (R35). -/
def checkOut (room : Nat) (slots : List Nat) (s : State) : State :=
  let s1 := slots.foldl (fun x k => revokeCred k .checkout x) s
  let s2 := if s1.pendingRoom room then reachPending .checkout s1 else s1
  offer (checkoutBody room slots.length (s.currentIssue room)) s2

/-- CHECKOUT (R35). -/
def reqCheckout (h : ReqHead) (room : Arg Nat) (s : State) : Answer :=
  common false h s <|
    let i := argNat room
    let slots := (s.activeGuests i).map Prod.fst
    let w := revocations .checkout slots s
    if badRoom room then .refuse .field
    else if s.noRoom room then .refuse .notFound
    else if s.store.readOnly then .refuse .store
    else if !s.store.canQueue w.1 w.2.2 then .refuse .busy
    else .reply (checkOut i slots s) [.checkout slots.length w.2.1 (s.pendingRoom i)]

/-! ## CRED GET (R43) -/

/-- The list entry of a number, with its place and its sequence. -/
def State.listEntry (s : State) (number : Nat) : Option (Nat × Nat × RevEntry) :=
  s.cred.entries.find? fun e => decide (e.2.2.number = number)

/-- A list entry as CRED GET shows it beside a record. -/
def shown (e : Nat × Nat × RevEntry) : ListShown := ⟨e.1, e.2.1, e.2.2.expiry, e.2.2.reach, e.2.2.carried⟩

/-- The list entry of a number as CRED GET shows it beside a record. -/
def State.listShown (s : State) (number : Nat) : Option ListShown := (s.listEntry number).map shown

/-- The line of a record. -/
def State.credLine (s : State) (e : Nat × CredRec) : RLine :=
  .cred e.1 e.2 (s.expiry e.2) (s.listShown e.2.number)

/-- The line of a list entry whose number no record holds: every field of the entry (R37). -/
def entryLine (e : Nat × Nat × RevEntry) : RLine :=
  .credListed e.2.2.number e.2.2.reason e.2.2.revokedAt (shown e)

/-- CRED GET by number (R43). -/
def credByNumber (number : Nat) (s : State) : Answer :=
  match s.findCred number, s.listEntry number with
  | some e, _ => .reply s [s.credLine e]
  | none, some x => .reply s [entryLine x]
  | none, none => .refuse .notFound

/-- CRED GET by room (R43). -/
def credByRoom (room : Arg Nat) (s : State) : Answer :=
  if s.noRoom room then .refuse .notFound
  else
    let l := s.cred.slots.filter fun e => decide (e.2.roomOf = some (argNat room))
    .reply s (.credCount l.length :: l.map s.credLine)

/-- CRED GET (R43). DESIGN CHOICE: one that carries both keys, or neither, is refused E_FIELD
(notes/assumptions/55). -/
def reqCredGet (h : ReqHead) (number room : Arg Nat) (s : State) : Answer :=
  common false h s <|
    if argSent number = argSent room then .refuse .field
    else if badOpt number 1 max32 || badOpt room 0 511 then .refuse .field
    else if argSent number then credByNumber (argNat number) s
    else credByRoom room s

/-! ## CARD READ (R62, R63) -/

/-- A READ job as it starts (R62). -/
def Job.read : Job :=
  ⟨.read, .master, .waitingCard, 0, 0, none, 0, false, false, false, none, none, none, none, none⟩

/-- CARD READ with no field (R62). -/
def reqCardRead (h : ReqHead) (s : State) : Answer :=
  common false h s <|
    if s.enc.job.isSome then .refuse .busy
    else .reply (enterWaiting (s.onEnc fun e => { e with job := some .read })) [.readStarted]

/-- CARD READ carrying `last=` (R63). -/
def reqCardReadLast (h : ReqHead) (last : Arg Bool) (s : State) : Answer :=
  common false h s <|
    if last ≠ .given true then .refuse .field
    else match s.enc.lastRead with
      | none => .refuse .notFound
      | some r => .reply s [.lastRead r]

/-! ## The commands -/

/-- ISSUE (R24). -/
def execIssue (h : ReqHead) (mode : Arg IssueMode) (room validFrom : Arg Nat) (validUntil : Arg EndMinute)
    (groups : Arg (List Nat)) (window : Arg (Nat × Nat)) (minibar : Arg Bool) (s : State) :
    Host.Outcome State Fault Refusal :=
  desk h.tag s (reqIssue h mode ⟨room, validFrom, validUntil, groups, window, minibar⟩ s)

/-- CANCEL (R58). -/
def execCancel (h : ReqHead) (number : Arg Nat) (s : State) : Host.Outcome State Fault Refusal :=
  desk h.tag s (reqCancel h number s)

/-- REVOKE (R34). -/
def execRevoke (h : ReqHead) (number : Arg Nat) (reason : Arg RevReason) (s : State) :
    Host.Outcome State Fault Refusal :=
  desk h.tag s (reqRevoke h number reason s)

/-- CHECKOUT (R35). -/
def execCheckout (h : ReqHead) (room : Arg Nat) (s : State) : Host.Outcome State Fault Refusal :=
  desk h.tag s (reqCheckout h room s)

/-- CRED GET (R43). -/
def execCredGet (h : ReqHead) (number room : Arg Nat) (s : State) : Host.Outcome State Fault Refusal :=
  desk h.tag s (reqCredGet h number room s)

/-- CARD READ with no field (R62). -/
def execCardRead (h : ReqHead) (s : State) : Host.Outcome State Fault Refusal := desk h.tag s (reqCardRead h s)

/-- CARD READ carrying `last=` (R63). -/
def execCardReadLast (h : ReqHead) (last : Arg Bool) (s : State) : Host.Outcome State Fault Refusal :=
  desk h.tag s (reqCardReadLast h last s)

/-- ENCODER RESET (R60). -/
def execEncoderReset (h : ReqHead) (s : State) : Host.Outcome State Fault Refusal :=
  desk h.tag s (reqEncoderReset h s)

end Sys2Proof.Machine
end

