-- ==== Sys2Proof/Machine/DeskWork.lean ====
section
/-!
DEFINITION. The requests of tabs and minibars (R130 to R132), of the journal (R148, R149), of the doors (R103),
of the line masters (R83 to R86), of the link and the part (R154, R155, R179, R181, R192).
-/

namespace Sys2Proof.Machine

/-! ## Tabs and holds (R130 to R132) -/

/-- A room's minibar as its line, address and node. -/
def State.roomBar (s : State) (room : Nat) : Option (LineId × Nat × Node) :=
  (s.boundNode .minibar room).map fun e => (keyLine e.1, keyAddr e.1, e.2)

/-- TAB GET (R130). -/
def reqTabGet (h : ReqHead) (room : Arg Nat) (s : State) : Answer :=
  common false h s <|
    if badRoom room then .refuse .field
    else
      let i := argNat room
      match s.rooms.get i with
      | none => .refuse .notFound
      | some r =>
        let bar := s.boundNode .minibar i
        let lines := (bar.map fun e => e.2.bar.lines).getD []
        .reply s (.tab r.entry.tab r.entry.limit r.entry.discount (s.pendingTotal i)
          (bar.map fun e => (nodeName e.1, e.2.bar.state)) r.hold lines.length ::
          lines.map fun e => .tabLine e.1 e.2)

/-- TAB SETTLE (R131). -/
def reqTabSettle (h : ReqHead) (room : Arg Nat) (s : State) : Answer :=
  common false h s <|
    let i := argNat room
    if badRoom room then .refuse .field
    else if s.noRoom room then .refuse .notFound
    else if s.store.readOnly then .refuse .store
    else if !s.journal.takesMoney || !s.store.canQueue [.room i] 0 then .refuse .busy
    else if s.tab i = 0 then .reply s [.settled 0]
    else .reply (enqueue (.room i) (settle i (s.tab i) (s.currentIssue i) .desk s)) [.settled (s.tab i)]

/-- What a hold mark's change does to the room's minibar (R132). -/
def heldState (hold : Bool) (st : BarState) : BarState :=
  match st, hold with
  | .locked, true => .held
  | .held, false => .locked
  | st, _ => st

/-- A room's hold mark set or cleared (R132). -/
def setHold (room : Nat) (hold : Bool) (s : State) : State :=
  let s1 := s.modRoom room fun r => { r with hold := hold }
  match s.roomBar room with
  | none => s1
  | some (line, addr, _) => modBar line addr (fun b => { b with state := heldState hold b.state }) s1

/-- MINIBAR HOLD (R132). -/
def reqMinibarHold (h : ReqHead) (room : Arg Nat) (hold : Arg Bool) (s : State) : Answer :=
  common false h s <|
    let i := argNat room
    if badRoom room || argMissing hold then .refuse .field
    else match s.rooms.get i with
      | none => .refuse .notFound
      | some r =>
        let v := argOr hold false
        let s1 := if v = r.hold then s else setHold i v s
        .reply s1 [.hold v ((s1.roomBar i).map fun e => e.2.2.bar.state)]

/-! ## The journal (R148, R149) -/

/-- The records JREAD may return from a sequence on, in sequence order, each with whether it is stored (R148). -/
def State.readable (s : State) (start : Nat) : List (JRec × Bool) :=
  (sortBy JRec.seq ((s.store.journalRecs.map Prod.snd).filter fun r =>
    decide (start ≤ r.seq) && decide (r.seq ≤ s.journal.newest))).map (fun r => (r, true)) ++
  (s.journal.staging.filter fun r => decide (start ≤ r.seq) && decide (s.journal.newest < r.seq)).map
    fun r => (r, false)

/-- JREAD (R148). DESIGN CHOICE: where no record is returned the first sequence returned is NONE
(notes/assumptions/66). -/
def reqJread (h : ReqHead) (start count : Arg Nat) (s : State) : Answer :=
  common true h s <|
    if badReq start 1 max32 || argMissing count || decide (argNat count = 0) then .refuse .field
    else
      let asked := argNat start
      let l := (s.readable (max asked s.journal.oldestRetained)).take (min 16 (argNat count))
      .reply s (.jread (l.head?.map fun e => e.1.seq) l.length (decide (asked < s.journal.oldestRetained))
          (s.journal.nextSeq - 1) s.journal.newest s.journal.mark ::
        l.map fun e => .record e.1 e.2)

/-- The collected mark raised by JRELEASE, with what it does in FULL (R144, R149). -/
def releaseTo (mark : Nat) (s : State) : State :=
  let s1 := enqueue .journalState (s.onJournal fun j => { j with mark := mark })
  if s1.journal.writer = .full ∧ reclaimable mark s1.spareSec = true then
    s1.onJournal fun j => { j with writer := .waitingSpare }
  else s1

/-- JRELEASE (R149). -/
def reqJrelease (h : ReqHead) (through : Arg Nat) (s : State) : Answer :=
  common false h s <|
    let mark := min (argNat through) s.journal.newest
    if badReq through 0 max32 then .refuse .field
    else if mark ≤ s.journal.mark then .reply s [.jrelease s.journal.mark s.journal.uncollected]
    else if !s.store.canQueue [.journalState] 0 then .refuse .busy
    else
      let s1 := releaseTo mark s
      .reply s1 [.jrelease s1.journal.mark s1.journal.uncollected]

/-! ## Doors (R103) -/

/-- The REMOTE_UNLOCK record (R103). -/
def remoteBody (name : NodeName) (n : Node) (time : Nat) : JBody :=
  ⟨.remoteUnlock, some name, none, n.entry.doorRoom, .num time, .num 0, .none⟩

/-- DOOR UNLOCK (R103). -/
def reqDoorUnlock (h : ReqHead) (line addr time : Arg Nat) (s : State) : Answer :=
  common false h s <|
    let l := namedLine line
    let a := argNat addr
    if badNode line addr || argMalformed time then .refuse .field
    else match s.node l a with
      | none => .refuse .notFound
      | some n =>
        if n.entry.kind = .minibar ∨ (s.line l).running = false then .refuse .state
        else if !(s.line l).places .other then .refuse .busy
        else
          let t := argClamp time 3 60 s.settings.unlatch
          let s1 := setRelease l a .remote (placeOrder l ⟨.unlatch, .other, some a, t⟩ s)
          .reply (proceed l (offer (remoteBody (l, a) n t) s1)) [.unlock t]

/-! ## Lines (R83 to R86) -/

/-- Whether a field does not name a line. -/
def badLine (line : Arg Nat) : Bool := badReq line 1 4

/-- LINE ENABLE (R83). -/
def reqLineEnable (h : ReqHead) (line : Arg Nat) (s : State) : Answer :=
  common false h s <|
    let l := namedLine line
    if badLine line then .refuse .field
    else if s.store.identity.isNone then .refuse .uncommissioned
    else .reply (if (s.line l).running then s else startLine l s) [.lineState true]

/-- LINE DISABLE (R84). -/
def reqLineDisable (h : ReqHead) (line : Arg Nat) (s : State) : Answer :=
  common false h s <|
    let l := namedLine line
    if badLine line then .refuse .field
    else .reply (if (s.line l).running then stopLine l s else s) [.lineState false]

/-- LINE RESET (R85). -/
def reqLineReset (h : ReqHead) (line : Arg Nat) (s : State) : Answer :=
  common false h s <|
    let l := namedLine line
    if badLine line then .refuse .field
    else if (s.line l).running then
      .reply (resetLine l s) [.lineReset (s.line l).queue.length (s.line l).decisions]
    else .refuse .state

/-- LINE SET (R86). -/
def reqLineSet (h : ReqHead) (line period timeout : Arg Nat) (s : State) : Answer :=
  common false h s <|
    let l := namedLine line
    let p := argClamp period 50 2000 (s.settings.period.get l)
    let t := match argGet timeout with
      | some n => roundTimeout n
      | none => s.settings.timeout.get l
    tableRequest s
      (badLine line || argMalformed period || argMalformed timeout || !(argSent period || argSent timeout))
      false false [.settings] <|
      .reply (enqueue .settings (s.onSettings fun x =>
        { x with period := x.period.set l p, timeout := x.timeout.set l t })) [.lineSet p t]

/-- The link states in the order LINE GET counts them. -/
def allLinkStates : List LinkState := [.unknown, .onA, .onB, .lost, .disabled]

/-- LINE GET (R86). -/
def reqLineGet (h : ReqHead) (line : Arg Nat) (s : State) : Answer :=
  common false h s <|
    if badLine line then .refuse .field
    else
      let i := namedLine line
      let l := s.line i
      let nodes := s.nodesOn i
      .reply s [.lineGet l.running (s.settings.period.get i) (s.settings.timeout.get i) l.phase l.count
        l.queue.length l.decisions (l.exch.map fun x => (x.kind, x.addr, x.leg))
        (allLinkStates.map fun st => (st, (nodes.filter fun e => decide (e.2.link.state = st)).length))
        l.cond l.report]

/-! ## The link and the part (R154, R155, R179, R181, R192) -/

/-- A class's entry after NOTICES names it (R179). -/
def Notice.enable (v : Arg Bool) (n : Notice) : Notice :=
  match argGet v with
  | none => n
  | some true => { n with enabled := true }
  | some false => if n.enabled then ⟨false, false, 0, none⟩ else n

/-- The enabled marks of the eight classes. -/
def Notices.enabledMarks (t : Notices) : List Bool := allClasses.map fun c => (t.get c).enabled

/-- The pending marks of the eight classes. -/
def Notices.pendingMarks (t : Notices) : List Bool := allClasses.map fun c => (t.get c).pending

/-- The values NOTICES carries, in class order. -/
structure NoticeArgs where
  alarm : Arg Bool
  power : Arg Bool
  store : Arg Bool
  line : Arg Bool
  issue : Arg Bool
  journal : Arg Bool
  minibar : Arg Bool
  clock : Arg Bool

/-- Whether a value is not `on` or `off`. -/
def NoticeArgs.bad (a : NoticeArgs) : Bool :=
  [a.alarm, a.power, a.store, a.line, a.issue, a.journal, a.minibar, a.clock].any argMalformed

/-- The notice table after NOTICES (R179). -/
def NoticeArgs.apply (a : NoticeArgs) (t : Notices) : Notices where
  alarm := t.alarm.enable a.alarm
  power := t.power.enable a.power
  store := t.store.enable a.store
  line := t.line.enable a.line
  issue := t.issue.enable a.issue
  journal := t.journal.enable a.journal
  minibar := t.minibar.enable a.minibar
  clock := t.clock.enable a.clock

/-- NOTICES (R179). -/
def reqNotices (h : ReqHead) (a : NoticeArgs) (s : State) : Answer :=
  common false h s <|
    if a.bad then .refuse .field
    else
      let t := a.apply s.link.notices
      .reply (s.onLink fun l => { l with notices := t }) [.notices t.enabledMarks t.pendingMarks]

/-- The first continuation of STATUS (R181). -/
def Link.statusLine (l : Link) : RLine :=
  .statusLink l.errors l.inbound.chars l.holdOut l.deferred.isSome l.notices.pendingMarks

/-- The second continuation of STATUS (R181). -/
def Encoder.statusLine (e : Encoder) : RLine :=
  .statusEncoder (e.job.map fun j => (j.kind, j.state, j.number)) (e.job.any fun j => j.outcome.isSome)

/-- The continuations of STATUS for the four lines (R181). -/
def State.statusLines (s : State) : List RLine :=
  allLines.map fun i =>
    let l := s.line i
    .statusLine i l.running l.queue.length l.decisions l.cond

/-- The seventh continuation of STATUS (R181). -/
def Journal.statusLine (j : Journal) : RLine :=
  .statusJournal j.staging.length j.dropAdm j.dropOther j.uncollected j.mark j.oldestRetained j.newest (j.nextSeq - 1)
    j.head j.spare j.writer

/-- The eighth continuation of STATUS (R181). -/
def State.statusStoreLine (s : State) : RLine :=
  let t := s.store
  .statusStore t.queue.length t.work.length t.work.head? t.usableLog t.usableJournal t.readOnly t.stalled
    (decide (s.journal.writer = .fault)) s.waitingBars.length

/-- STATUS (R181). -/
def reqStatus (h : ReqHead) (s : State) : Answer :=
  common true h s <|
    .reply s (.status s.power.state s.clock.valid s.clock.minute s.clock.second s.store.identity.isSome ::
      s.link.statusLine :: s.enc.statusLine :: s.statusLines ++ [s.journal.statusLine, s.statusStoreLine])

/-- Whether a name is not one of 1 to 32 printable characters (R155). -/
def badName : Arg (List Byte) → Bool
  | .given b => b.isEmpty || decide (32 < b.length) || b.any fun c => decide (c.toNat < 32) || decide (126 < c.toNat)
  | _ => true

/-- COMMISSION (R155, R174). -/
def reqCommission (h : ReqHead) (site seed : Arg Nat) (name : Arg (List Byte)) (s : State) : Answer :=
  common false h s <|
    if badReq site 1 max32 || badReq seed 0 max32 || badName name then .refuse .field
    else if s.link.deferred.isSome then .refuse .busy
    else if s.store.identity.isSome then .refuse .locked
    else if s.store.freeIdPlace.isNone then .refuse .store
    else
      let i : Identity := ⟨argNat site, argNat seed, argOr name []⟩
      .later ((s.onStore fun t => { t with idRequest := some i }).onLink fun l => { l with deferred := some (h.tag, i) })

/-- IDENTITY (R154). -/
def reqIdentity (h : ReqHead) (s : State) : Answer :=
  common false h s <| .reply s [.identity (s.store.identity.map fun i => (i.site, i.name))]

/-- RESTART (R192). -/
def reqRestart (h : ReqHead) (s : State) : Answer := common false h s <| .reply (beginDrain .restart s) [.ok]

/-! ## The commands -/

/-- TAB GET (R130). -/
def execTabGet (h : ReqHead) (room : Arg Nat) (s : State) : Host.Outcome State Fault Refusal :=
  desk h.tag s (reqTabGet h room s)

/-- TAB SETTLE (R131). -/
def execTabSettle (h : ReqHead) (room : Arg Nat) (s : State) : Host.Outcome State Fault Refusal :=
  desk h.tag s (reqTabSettle h room s)

/-- MINIBAR HOLD (R132). -/
def execMinibarHold (h : ReqHead) (room : Arg Nat) (hold : Arg Bool) (s : State) :
    Host.Outcome State Fault Refusal :=
  desk h.tag s (reqMinibarHold h room hold s)

/-- JREAD (R148). -/
def execJread (h : ReqHead) (start count : Arg Nat) (s : State) : Host.Outcome State Fault Refusal :=
  desk h.tag s (reqJread h start count s)

/-- JRELEASE (R149). -/
def execJrelease (h : ReqHead) (through : Arg Nat) (s : State) : Host.Outcome State Fault Refusal :=
  desk h.tag s (reqJrelease h through s)

/-- DOOR UNLOCK (R103). -/
def execDoorUnlock (h : ReqHead) (line addr time : Arg Nat) (s : State) : Host.Outcome State Fault Refusal :=
  desk h.tag s (reqDoorUnlock h line addr time s)

/-- LINE ENABLE (R83). -/
def execLineEnable (h : ReqHead) (line : Arg Nat) (s : State) : Host.Outcome State Fault Refusal :=
  desk h.tag s (reqLineEnable h line s)

/-- LINE DISABLE (R84). -/
def execLineDisable (h : ReqHead) (line : Arg Nat) (s : State) : Host.Outcome State Fault Refusal :=
  desk h.tag s (reqLineDisable h line s)

/-- LINE RESET (R85). -/
def execLineReset (h : ReqHead) (line : Arg Nat) (s : State) : Host.Outcome State Fault Refusal :=
  desk h.tag s (reqLineReset h line s)

/-- LINE SET (R86). -/
def execLineSet (h : ReqHead) (line period timeout : Arg Nat) (s : State) : Host.Outcome State Fault Refusal :=
  desk h.tag s (reqLineSet h line period timeout s)

/-- LINE GET (R86). -/
def execLineGet (h : ReqHead) (line : Arg Nat) (s : State) : Host.Outcome State Fault Refusal :=
  desk h.tag s (reqLineGet h line s)

/-- NOTICES (R179). -/
def execNotices (h : ReqHead) (alarm power store line issue journal minibar clock : Arg Bool) (s : State) :
    Host.Outcome State Fault Refusal :=
  desk h.tag s (reqNotices h ⟨alarm, power, store, line, issue, journal, minibar, clock⟩ s)

/-- STATUS (R181). -/
def execStatus (h : ReqHead) (s : State) : Host.Outcome State Fault Refusal := desk h.tag s (reqStatus h s)

/-- COMMISSION (R155). -/
def execCommission (h : ReqHead) (site seed : Arg Nat) (name : Arg (List Byte)) (s : State) :
    Host.Outcome State Fault Refusal :=
  desk h.tag s (reqCommission h site seed name s)

/-- IDENTITY (R154). -/
def execIdentity (h : ReqHead) (s : State) : Host.Outcome State Fault Refusal := desk h.tag s (reqIdentity h s)

/-- RESTART (R192). -/
def execRestart (h : ReqHead) (s : State) : Host.Outcome State Fault Refusal := desk h.tag s (reqRestart h s)

end Sys2Proof.Machine
end

