-- ==== Sys2Proof/Machine/DeskLink.lean ====
section
/-!
DEFINITION. The desk link interface itself (Chapter 9): the inbound buffer (R170 to R172), the taking of
requests (R173), the transmitter (R177), and its commands.
-/

namespace Sys2Proof.Machine

/-! ## Handing a request to its verb (R173, R175) -/

/-- What a request's command answers; the commands that are no request answer nothing. -/
def verbAnswer (i : Instr) (s : State) : Option Answer :=
  match i with
  | .status h => some (reqStatus h s)
  | .commission h a b c => some (reqCommission h a b c s)
  | .identity h => some (reqIdentity h s)
  | .clockSet h a b => some (reqClockSet h a b s)
  | .clockGet h => some (reqClockGet h s)
  | .setup h a b c d e f g => some (reqSetup h a b c d e f g s)
  | .roomSet h a b c d e => some (reqRoomSet h a b c d e s)
  | .roomGet h a => some (reqRoomGet h a s)
  | .roomResetIssue h a => some (reqRoomResetIssue h a s)
  | .roomLockout h a b => some (reqRoomLockout h a b s)
  | .nodeSet h a b c d e f g => some (reqNodeSet h a b c d e f g s)
  | .nodeGet h a b => some (reqNodeGet h a b s)
  | .nodeRemove h a b => some (reqNodeRemove h a b s)
  | .stock h a b c => some (reqStock h a b c s)
  | .groupSet h a b => some (reqGroupSet h a b s)
  | .groupRelease h a => some (reqGroupRelease h a s)
  | .groupSecure h a => some (reqGroupSecure h a s)
  | .groupNormal h a => some (reqGroupNormal h a s)
  | .priceSet h a b c => some (reqPriceSet h a b c s)
  | .priceGet h a => some (reqPriceGet h a s)
  | .issue h a b c d e f g => some (reqIssue h a ⟨b, c, d, e, f, g⟩ s)
  | .cancel h a => some (reqCancel h a s)
  | .revoke h a b => some (reqRevoke h a b s)
  | .checkout h a => some (reqCheckout h a s)
  | .credGet h a b => some (reqCredGet h a b s)
  | .cardRead h => some (reqCardRead h s)
  | .cardReadLast h a => some (reqCardReadLast h a s)
  | .encoderReset h => some (reqEncoderReset h s)
  | .tabGet h a => some (reqTabGet h a s)
  | .tabSettle h a => some (reqTabSettle h a s)
  | .minibarHold h a b => some (reqMinibarHold h a b s)
  | .jread h a b => some (reqJread h a b s)
  | .jrelease h a => some (reqJrelease h a s)
  | .doorUnlock h a b c => some (reqDoorUnlock h a b c s)
  | .lineEnable h a => some (reqLineEnable h a s)
  | .lineDisable h a => some (reqLineDisable h a s)
  | .lineReset h a => some (reqLineReset h a s)
  | .lineSet h a b c => some (reqLineSet h a b c s)
  | .lineGet h a => some (reqLineGet h a s)
  | .notices h a b c d e f g i => some (reqNotices h ⟨a, b, c, d, e, f, g, i⟩ s)
  | .restart h => some (reqRestart h s)
  | _ => none

/-- A request's command answered in the reply slot; a verb not in the catalogue is refused E_VERB (R175). -/
def runRequest (tag : List (Fin 10)) (i : Option Instr) (s : State) : State :=
  match i.bind fun i => verbAnswer i s with
  | some a => answer tag s a
  | none => placeReply tag [.err .verb] s

/-- The request of a line taken. -/
def runLine (line : List Byte) (s : State) : State :=
  match readLine line with
  | some (tag, parts) => runRequest tag (readRequest tag parts) s
  | none => s

/-- The inbound buffer changed, and HOLD_OUT tested (R172). -/
def modInbound (f : Inbound → Inbound) (s : State) : State :=
  s.onLink fun l => ({ l with inbound := f l.inbound } : Link).testHold

/-- The oldest request taken, where a request is taken now (R173). -/
def takeOldestRequest (s : State) : State :=
  match s.link.inbound.requests with
  | [] => s
  | r :: t =>
    if s.takesRequest then runLine r (modInbound (fun b => { b with requests := t }) s) else s

/-! ## Characters (R170, R171) -/

/-- The partly received line with a further character: its mark as overlong, and the character itself unless
the line was overlong already or the buffer is full (R170; notes/assumptions/21). -/
def Inbound.receive (c : Byte) (framingError : Bool) (b : Inbound) : Inbound :=
  let full := decide (Config.inboundChars ≤ b.chars)
  let long := (decide (b.seen = 240) && c != 0x0D) || (decide (b.seen = 241) && c != 0x0A) || decide (241 < b.seen)
  { b with
    part := if b.overlong || full then b.part else b.part ++ [c]
    seen := b.seen + 1
    bad := b.bad || framingError
    overlong := b.overlong || long
    overflowed := b.overflowed || (full && !b.overlong) }

/-- The inbound buffer with no partly received line. -/
def Inbound.clearPart (b : Inbound) : Inbound :=
  { b with part := [], seen := 0, bad := false, overlong := false, overflowed := false }

/-- Whether the line carries a mark that discards it. -/
def Inbound.marked (b : Inbound) : Bool := b.bad || b.overlong || b.overflowed

/-- The line now ended tested: an empty line leaves in silence, a discarded one raises the tally, a request is
kept behind the earlier ones (R170, R171). -/
def endLine (s : State) : State :=
  let b := s.link.inbound
  if !b.marked && decide (b.part = [0x0D, 0x0A]) then modInbound Inbound.clearPart s
  else if b.marked || (readLine b.part).isNone then
    (modInbound Inbound.clearPart s).onLink fun l => { l with errors := satSucc max32 l.errors }
  else modInbound (fun x => { x.clearPart with requests := x.requests ++ [x.part] }) s

/-- The LF of a line arrives (R171, R173). -/
def lineFeed (framingError : Bool) (s : State) : State :=
  takeOldestRequest (endLine (modInbound (Inbound.receive 0x0A framingError) s))

/-- The character 0x18 (R170). -/
def discardPart (s : State) : State := modInbound Inbound.clearPart s

/-! ## The transmitter (R177) -/

/-- The reply slot empties: a completed deferred reply takes it, and otherwise the next request is taken (R173,
R174, R177). -/
def slotEmpties (s : State) : State :=
  let s1 := s.onLink fun l => { l with slot := none }
  match s1.link.deferredDone with
  | some (tag, lines) => placeReply tag lines (s1.onLink fun l => { l with deferredDone := none })
  | none => takeOldestRequest s1

/-- Whether every line of the reply in the slot has been begun. -/
def Link.replyBegun (l : Link) : Bool := l.slot.any fun r => decide (r.lines.length ≤ r.begun)

/-- The line being sent has been sent (R177). -/
def lineSent (s : State) : State :=
  let s1 := s.onLink fun l => { l with tx := none }
  match s.link.tx with
  | some (.reply _ _ _) => if s.link.replyBegun then slotEmpties s1 else s1
  | _ => s1

/-! ## The commands -/

/-- DESK_LINE_RECEIVED (R171): the LF arrives. -/
def execDeskLineReceived (framingError : Bool) (s : State) : Host.Outcome State Fault Refusal :=
  if s.working then done (lineFeed framingError s) else .next s

/-- LINE_DISCARD_CHARACTER (R170). -/
def execLineDiscardCharacter (s : State) : Host.Outcome State Fault Refusal :=
  if s.working then done (discardPart s) else .next s

/-- CHARACTER_RECEIVED (R170); LF and 0x18 go as their own rows. DESIGN CHOICE: a 0x18 that arrives with a framing
error discards the line as any other does (notes/assumptions/46). -/
def execCharacterReceived (c : Byte) (framingError : Bool) (s : State) : Host.Outcome State Fault Refusal :=
  if !s.working then .next s
  else if c = 0x0A then done (lineFeed framingError s)
  else if c = 0x18 then done (discardPart s)
  else done (modInbound (Inbound.receive c framingError) s)

/-- TAKE_REQUEST (R173). -/
def execTakeRequest (s : State) : Host.Outcome State Fault Refusal := done (takeOldestRequest s)

/-- HOLD_IN_ASSERTED (R177). -/
def execHoldInAsserted (s : State) : Host.Outcome State Fault Refusal :=
  .next (s.onLink fun l => { l with holdIn := true })

/-- HOLD_IN_RELEASED (R177). -/
def execHoldInReleased (s : State) : Host.Outcome State Fault Refusal :=
  done (s.onLink fun l => { l with holdIn := false })

/-- TRANSMIT_LINE_COMPLETE (R177). -/
def execTransmitLineComplete (s : State) : Host.Outcome State Fault Refusal :=
  match s.link.tx with
  | some _ => done (lineSent s)
  | none => .next s

end Sys2Proof.Machine
end

