-- ==== Sys2Proof/Machine/Dispatch.lean ====
section
/-!
DEFINITION. The dispatch of a command to its meaning: one arm per row of spec/opcode_table.json.
-/

namespace Sys2Proof.Machine

def exec (i : Instr) (s : State) : Host.Outcome State Fault Refusal :=
  match i with
  | .powerOn straps clockLost => Sys2Proof.Machine.execPowerOn straps clockLost s
  | .pfwAsserted => Sys2Proof.Machine.execPfwAsserted s
  | .pfwDeasserted straps => Sys2Proof.Machine.execPfwDeasserted straps s
  | .resetAsserted => Sys2Proof.Machine.execResetAsserted s
  | .resetReleased straps => Sys2Proof.Machine.execResetReleased straps s
  | .powerDown => Sys2Proof.Machine.execPowerDown s
  | .postDrainColdStart straps => Sys2Proof.Machine.execPostDrainColdStart straps s
  | .hotelClockTick => Sys2Proof.Machine.execHotelClockTick s
  | .deskLineReceived framingError => Sys2Proof.Machine.execDeskLineReceived framingError s
  | .lineDiscardCharacter => Sys2Proof.Machine.execLineDiscardCharacter s
  | .takeRequest => Sys2Proof.Machine.execTakeRequest s
  | .holdInAsserted => Sys2Proof.Machine.execHoldInAsserted s
  | .holdInReleased => Sys2Proof.Machine.execHoldInReleased s
  | .transmitLineComplete => Sys2Proof.Machine.execTransmitLineComplete s
  | .status h => Sys2Proof.Machine.execStatus h s
  | .commission h site seed name => Sys2Proof.Machine.execCommission h site seed name s
  | .identityProgramComplete sound => Sys2Proof.Machine.execIdentityProgramComplete sound s
  | .identity h => Sys2Proof.Machine.execIdentity h s
  | .clockSet h minute second => Sys2Proof.Machine.execClockSet h minute second s
  | .clockGet h => Sys2Proof.Machine.execClockGet h s
  | .setup h fresh unlatch latch grace checkout wait policy => Sys2Proof.Machine.execSetup h fresh unlatch latch grace checkout wait policy s
  | .roomSet h room label access limit discount => Sys2Proof.Machine.execRoomSet h room label access limit discount s
  | .roomGet h room => Sys2Proof.Machine.execRoomGet h room s
  | .roomResetIssue h room => Sys2Proof.Machine.execRoomResetIssue h room s
  | .roomLockout h room lockout => Sys2Proof.Machine.execRoomLockout h room lockout s
  | .nodeSet h line addr kind pos room group enabled => Sys2Proof.Machine.execNodeSet h line addr kind pos room group enabled s
  | .nodeGet h line addr => Sys2Proof.Machine.execNodeGet h line addr s
  | .nodeRemove h line addr => Sys2Proof.Machine.execNodeRemove h line addr s
  | .stock h line addr codes => Sys2Proof.Machine.execStock h line addr codes s
  | .groupSet h group offline => Sys2Proof.Machine.execGroupSet h group offline s
  | .groupRelease h group => Sys2Proof.Machine.execGroupRelease h group s
  | .groupSecure h group => Sys2Proof.Machine.execGroupSecure h group s
  | .groupNormal h group => Sys2Proof.Machine.execGroupNormal h group s
  | .priceSet h item price tax => Sys2Proof.Machine.execPriceSet h item price tax s
  | .priceGet h item => Sys2Proof.Machine.execPriceGet h item s
  | .issue h mode room validFrom validUntil groups window minibar => Sys2Proof.Machine.execIssue h mode room validFrom validUntil groups window minibar s
  | .cancel h number => Sys2Proof.Machine.execCancel h number s
  | .revoke h number reason => Sys2Proof.Machine.execRevoke h number reason s
  | .checkout h room => Sys2Proof.Machine.execCheckout h room s
  | .credGet h number room => Sys2Proof.Machine.execCredGet h number room s
  | .cardRead h => Sys2Proof.Machine.execCardRead h s
  | .cardReadLast h last => Sys2Proof.Machine.execCardReadLast h last s
  | .encoderReset h => Sys2Proof.Machine.execEncoderReset h s
  | .tabGet h room => Sys2Proof.Machine.execTabGet h room s
  | .tabSettle h room => Sys2Proof.Machine.execTabSettle h room s
  | .minibarHold h room hold => Sys2Proof.Machine.execMinibarHold h room hold s
  | .jread h start count => Sys2Proof.Machine.execJread h start count s
  | .jrelease h through => Sys2Proof.Machine.execJrelease h through s
  | .doorUnlock h line addr time => Sys2Proof.Machine.execDoorUnlock h line addr time s
  | .lineEnable h line => Sys2Proof.Machine.execLineEnable h line s
  | .lineDisable h line => Sys2Proof.Machine.execLineDisable h line s
  | .lineReset h line => Sys2Proof.Machine.execLineReset h line s
  | .lineSet h line period timeout => Sys2Proof.Machine.execLineSet h line period timeout s
  | .lineGet h line => Sys2Proof.Machine.execLineGet h line s
  | .notices h alarm power store line issue journal minibar clock => Sys2Proof.Machine.execNotices h alarm power store line issue journal minibar clock s
  | .restart h => Sys2Proof.Machine.execRestart h s
  | .intentRecordProgrammed => Sys2Proof.Machine.execIntentRecordProgrammed s
  | .cardInChange present => Sys2Proof.Machine.execCardInChange present s
  | .cardWaitExpiry => Sys2Proof.Machine.execCardWaitExpiry s
  | .writeImageAnswer answer => Sys2Proof.Machine.execWriteImageAnswer answer s
  | .readImageAnswer answer => Sys2Proof.Machine.execReadImageAnswer answer s
  | .headTimeout => Sys2Proof.Machine.execHeadTimeout s
  | .heldOutcomeRetry => Sys2Proof.Machine.execHeldOutcomeRetry s
  | .cycleBegin line => Sys2Proof.Machine.execCycleBegin line s
  | .nodeReply line leg frame => Sys2Proof.Machine.execNodeReply line leg frame s
  | .replyTimeout line => Sys2Proof.Machine.execReplyTimeout line s
  | .broadcastSent line => Sys2Proof.Machine.execBroadcastSent line s
  | .latchEnd line addr => Sys2Proof.Machine.execLatchEnd line addr s
  | .graceEnd line addr => Sys2Proof.Machine.execGraceEnd line addr s
  | .chargeWaitRetry => Sys2Proof.Machine.execChargeWaitRetry s
  | .journalProgramComplete sound => Sys2Proof.Machine.execJournalProgramComplete sound s
  | .heldOverrunAccept => Sys2Proof.Machine.execHeldOverrunAccept s
  | .preErase => Sys2Proof.Machine.execPreErase s
  | .tableLogProgramComplete sound => Sys2Proof.Machine.execTableLogProgramComplete sound s
  | .waitingSetPlacement => Sys2Proof.Machine.execWaitingSetPlacement s
  | .copyForwardComplete sound => Sys2Proof.Machine.execCopyForwardComplete sound s
  | .eraseComplete sound => Sys2Proof.Machine.execEraseComplete sound s
  | .eraseSuspend => Sys2Proof.Machine.execEraseSuspend s
  | .eraseRunLimit => Sys2Proof.Machine.execEraseRunLimit s
  | .programTimeout => Sys2Proof.Machine.execProgramTimeout s
  | .powerLoss => Sys2Proof.Machine.execPowerLoss s
  | .characterReceived c framingError => Sys2Proof.Machine.execCharacterReceived c framingError s
  | .directedFrameSent line => Sys2Proof.Machine.execDirectedFrameSent line s
  | .suspensionTakesEffect => Sys2Proof.Machine.execSuspensionTakesEffect s

end Sys2Proof.Machine
end

