-- ==== Sys2Proof/Machine/Step.lean ====
section
/-!
DEFINITION. One step of the part: the command at the front of the queue is carried out; with no command
waiting the part idles.
-/

namespace Sys2Proof.Machine

/-- The step (notes/assumptions/4). -/
def step (s : State) : Host.Outcome State Fault Refusal :=
  match s.pending with
  | [] => .next s
  | c :: rest => exec c (s.onPending fun _ => rest)

/-- The state with the command a word of the table spells put at the front of the queue; the table's rows
give no bits, so that no word spells one. -/
def State.withFetchWord (s : State) (nbits w : Nat) : State :=
  match decodeTableWord nbits w with
  | some c => s.onPending fun q => c :: q
  | none => s

end Sys2Proof.Machine
end

