-- ==== Sys2Proof/Safety.lean ====
section
/-!
DEFINITION. What a sound state of the part is (`State.canonical`, `State.withinPlaces`, `State.clockInRange`), and
the vocabulary of the claims: which parts of the state a command leaves alone, what stands in the table change
queue, what the reply slot holds, when a request is accepted.
-/

namespace Sys2Proof.Machine

/-! ## Sound states -/

/-- The tables of the site, the credential unit and the minibars, and the regions of the store, each in its one
canonical form: keys strictly rising, and nothing listed that reads as an unlisted entry does. -/
structure State.canonical (s : State) : Prop where
  rooms : s.rooms.wf
  nodes : s.nodes.wf
  groups : s.groups.wf
  groupsListed : ∀ e ∈ s.groups, e.2 ≠ .start
  prices : s.prices.wf
  pricesListed : ∀ e ∈ s.prices, e.2 ≠ .start
  slots : s.cred.slots.wf
  list : s.cred.list.wf
  lines : ∀ e ∈ s.nodes, e.2.bar.lines.wf
  tlog : s.store.tlog.wf
  tlogListed : ∀ e ∈ s.store.tlog, e.2 ≠ .blank
  jreg : s.store.jreg.wf
  jregListed : ∀ e ∈ s.store.jreg, e.2 ≠ .blank

/-- The queues are within their places: the staging queue (R138), the table change queue (R160), the order
queues of the lines (R70). -/
structure State.withinPlaces (s : State) : Prop where
  staging : s.journal.staging.length ≤ Config.stagingPlaces
  changes : s.store.queue.length ≤ Config.changePlaces
  orders : ∀ i, (s.line i).queue.length ≤ Config.orderPlaces

/-- The hotel clock is inside its range (R1). -/
def State.clockInRange (s : State) : Prop := s.clock.minute ≤ maxMinute ∧ s.clock.second ≤ 59

/-- No RUNNING line master stands still: each has an exchange outstanding, or rests between cycles with nothing
queued and its poll period running (R66 to R68). -/
def State.linesSettled (s : State) : Prop :=
  ∀ i, (s.line i).running = true → (s.line i).exch.isSome = true ∨
    ((s.line i).cycle = none ∧ (s.line i).periodEnd.isSome = true ∧ (s.line i).queue = [])

/-- No RUNNING line master stands still, a visit in progress that is not over is a visit to a present node (R66 to
R68), and every address a cycle holds is below 128, so that it names one node only (R64). -/
structure State.linesAtWork (s : State) : Prop where
  settled : s.linesSettled
  visited : ∀ i c v, (s.line i).cycle = some c → c.visit = some v → v.done = false →
    (s.node i v.addr).isSome = true
  addresses : ∀ i c, (s.line i).cycle = some c → (∀ v, c.visit = some v → v.addr < 128) ∧ ∀ a ∈ c.rest, a < 128

/-- What NODE SET asks of the node table: the group is online, no other node of the line has the position, and,
for a kind bound to a room, no other node of that kind is bound to it (R10, R12). -/
def State.nodeFits (s : State) (l : LineId) (a : Nat) (e : NodeEntry) : Prop :=
  (s.group e.group).offline = false ∧
  (∀ x ∈ s.nodes, x.1 ≠ nodeKey l a → keyLine x.1 = l → x.2.entry.pos ≠ e.pos) ∧
  (e.kind ≠ .commonDoor → ∀ x ∈ s.nodes, x.1 ≠ nodeKey l a → x.2.entry.kind = e.kind → x.2.entry.room ≠ e.room)

/-- What ISSUE asks of the part, whatever its mode, with the slot it will take (R24). -/
structure State.readyToIssue (s : State) (k : Nat) : Prop where
  commissioned : s.store.identity.isSome = true
  clock : s.clock.valid = .valid
  idle : s.enc.job = none
  writable : s.store.readOnly = false
  serial : s.cred.serial < max32
  slot : s.issueSlot = some k
  places : s.store.canQueue [.serial, .cred k] 0 = true

/-! ## Frames -/

/-- The parts of the state. -/
inductive Part where
  | power | clock | rooms | nodes | groups | prices | settings | cred | enc | lines | journal | store | link
  | signals | freeUses | pending
  deriving DecidableEq, Repr

/-- A part is the same in two states. -/
def Part.same : Part → State → State → Prop
  | .power, s, t => t.power = s.power
  | .clock, s, t => t.clock = s.clock
  | .rooms, s, t => t.rooms = s.rooms
  | .nodes, s, t => t.nodes = s.nodes
  | .groups, s, t => t.groups = s.groups
  | .prices, s, t => t.prices = s.prices
  | .settings, s, t => t.settings = s.settings
  | .cred, s, t => t.cred = s.cred
  | .enc, s, t => t.enc = s.enc
  | .lines, s, t => t.lines = s.lines
  | .journal, s, t => t.journal = s.journal
  | .store, s, t => t.store = s.store
  | .link, s, t => t.link = s.link
  | .signals, s, t => t.signals = s.signals
  | .freeUses, s, t => t.freeUses = s.freeUses
  | .pending, s, t => t.pending = s.pending

/-- Every part but those listed is the same in `t` as in `s`. -/
def keepsBut (l : List Part) (s t : State) : Prop := ∀ p, p ∉ l → p.same s t

/-- The cells of the store and what is read from them are the same. -/
structure keepsCells (s t : State) : Prop where
  tlog : t.store.tlog = s.store.tlog
  jreg : t.store.jreg = s.store.jreg
  idPlaces : t.store.idPlaces = s.store.idPlaces
  identity : t.store.identity = s.store.identity
  nextAppend : t.store.nextAppend = s.store.nextAppend
  readOnly : t.store.readOnly = s.store.readOnly

/-- The desk link but for its reply slot, its transmitter and its notices is the same. -/
structure keepsLink (s t : State) : Prop where
  rate : t.link.rate = s.link.rate
  inbound : t.link.inbound = s.link.inbound
  holdOut : t.link.holdOut = s.link.holdOut
  holdIn : t.link.holdIn = s.link.holdIn
  deferred : t.link.deferred = s.link.deferred
  deferredDone : t.link.deferredDone = s.link.deferredDone
  errors : t.link.errors = s.link.errors

/-- The contents a table entry's place holds, if it has a place (R160). -/
def Store.contents (t : Store) (k : EntryKey) : Option EntryVal :=
  (t.queue.find? fun p => decide (p.key = k)).map ChangePlace.val

/-- No entry but those listed has changed its place's contents, and none has joined or left the waiting set. -/
def queuesOnly (keys : List EntryKey) (s t : State) : Prop :=
  ∀ k, k ∉ keys → t.store.contents k = s.store.contents k ∧ (k ∈ t.store.waiting ↔ k ∈ s.store.waiting)

/-- Each of these table entries has a place of the table change queue holding its contents in the working
tables (R5, R160). -/
def placed (keys : List EntryKey) (t : State) : Prop := ∀ k ∈ keys, t.store.contents k = some (t.entryVal k)

/-- No notice class but those listed has changed (R178). -/
def noticesBut (classes : List NoticeClass) (s t : State) : Prop :=
  ∀ c, c ∉ classes → t.link.notices.get c = s.link.notices.get c

/-- A notice class's entry is this one, or the transmitter has just begun the notice that carries it (R178, R180). -/
def noticed (c : NoticeClass) (n : Notice) (t : State) : Prop :=
  t.link.notices.get c = n ∨ (t.link.tx = some (.notice c n.count n.detail) ∧ t.link.notices.get c = n.sent)

/-- An occurrence has been posted to a notice class (R178). -/
def posted (c : NoticeClass) (d : Detail) (s t : State) : Prop := noticed c ((s.link.notices.get c).occur d) t

/-- These occurrences have been posted to a notice class in turn (R178). -/
def postedAll (c : NoticeClass) (l : List Detail) (s t : State) : Prop :=
  noticed c (l.foldl Notice.occur (s.link.notices.get c)) t

/-- The journal unit stands as the offering of these records in turn leaves it, stamped by the clock of `t`
(R137 to R139). -/
def journaled (bodies : List JBody) (s t : State) : Prop :=
  t.journal = (bodies.foldl (fun x b => offer b x) { s with clock := t.clock }).journal

/-- Nothing has changed but these table entries' places, these parts of the state and these notice classes. What
the step leaves for the store engine and the transmitter they take up, which is theirs to do at any time: a
notice or a reply's line may have been begun, and STORE notices may come of what the engine takes up. -/
structure changesOnly (keys : List EntryKey) (parts : List Part) (classes : List NoticeClass) (s t : State) :
    Prop where
  cells : keepsCells s t
  changes : queuesOnly keys s t
  link : keepsLink s t
  slot : t.link.slot.map (fun r => (r.tag, r.lines)) = s.link.slot.map fun r => (r.tag, r.lines)
  notices : ∀ c, c ∉ NoticeClass.store :: classes → noticed c (s.link.notices.get c) t
  rest : keepsBut (.store :: .link :: parts) s t

/-- The journal unit stands as the acceptance of these money records in turn leaves it (R137, R138). -/
def recorded (bodies : List JBody) (s t : State) : Prop :=
  t.journal = (bodies.foldl (fun x b => acceptRec b x) { s with clock := t.clock }).journal

/-- What a taken reply does to the node's link and, at a room door, to its room's privacy (R9, R73, R75, R78): the
link state follows the leg it came on, the miss count is 0, both owed marks are set as the node answers for the
first time, its status is recorded. -/
def linkAfterReply (leg : Leg) (st : NodeStatus) (l : NodeLink) : NodeLink :=
  { l with
    state := if l.state = .disabled then .disabled else if leg = .a then .onA else .onB
    miss := 0
    modeOwed := l.modeOwed || decide (l.state = .unknown ∨ l.state = .lost)
    groupOwed := l.groupOwed || decide (l.state = .unknown ∨ l.state = .lost)
    modeSent := l.modeSent && decide (l.state ≠ .unknown ∧ l.state ≠ .lost)
    groupSent := l.groupSent && decide (l.state ≠ .unknown ∧ l.state ≠ .lost)
    status := some st }

/-- The state after a reply has been taken from a node (R9, R75, R77, R78): its link and status, its room's privacy,
the record and the occurrence of a LOST node restored, and the occurrences of battery and tamper indications that have
risen. -/
def State.afterAnswer (s : State) (i : LineId) (leg : Leg) (a : Nat) (n : Node) (st : NodeStatus) : State :=
  let u := { s with
    nodes := s.nodes.put (nodeKey i a) { n with link := linkAfterReply leg st n.link }
    rooms := match s.rooms.get (n.entry.room.getD 0) with
      | some x => if n.entry.kind = .roomDoor then s.rooms.put (n.entry.room.getD 0) { x with privacy := st.privacy }
        else s.rooms
      | none => s.rooms }
  let u1 := if n.link.state = .lost
    then post .line (.node (i, a)) (offer ⟨.nodeRestored, some (i, a), none, none,
      .link (if leg = .a then .onA else .onB), .num n.entry.pos, .none⟩ u)
    else u
  let u2 := if st.batteryLow = true ∧ (n.link.status.map NodeStatus.batteryLow).getD false = false
    then post .line (.battery (i, a)) u1 else u1
  if st.tamper = true ∧ (n.link.status.map NodeStatus.tamper).getD false = false
    then post .alarm (.tamper (i, a)) u2 else u2

/-! ## The break locator (R81, R82) -/

/-- The nodes the break locator counts: the present, enabled nodes of the line that are ON_A, ON_B or LOST. -/
def State.countedOn (s : State) (i : LineId) : List Node :=
  (s.nodes.filter fun e => decide (keyLine e.1 = i ∧ e.2.entry.enabled = true ∧
    (e.2.link.state = .onA ∨ e.2.link.state = .onB ∨ e.2.link.state = .lost))).map Prod.snd

/-- The line condition that counted nodes give (R81). -/
def conditionIs (l : List Node) (c : LineCond) : Prop :=
  if l ≠ [] ∧ ∀ n ∈ l, n.link.state = .lost then c = .dark
  else if ∀ n ∈ l, n.link.state = .onA then c = .whole
  else if ∃ n ∈ l, ∃ m ∈ l, n.link.state = .onB ∧ m.link.state = .onA ∧ n.entry.pos < m.entry.pos then c = .irregular
  else ∃ p, c = .split p ∧ (∀ n ∈ l, n.link.state = .onA → n.entry.pos ≤ p) ∧
    if ∃ n ∈ l, n.link.state = .onA then ∃ n ∈ l, n.link.state = .onA ∧ n.entry.pos = p else p = 0

/-- The report of a SPLIT and of an IRREGULAR condition (R81). -/
def reportIs (l : List Node) (c : LineCond) (r : CondReport) : Prop :=
  match c with
  | .split p => r.gapFrom = p + 1 ∧
      ((∀ n ∈ l, n.link.state ≠ .onB) → r.gapTo = 120) ∧
      (∀ n ∈ l, n.link.state = .onB → (∀ m ∈ l, m.link.state = .onB → n.entry.pos ≤ m.entry.pos) →
        r.gapTo = n.entry.pos - 1) ∧
      (∀ x, x ∈ r.lostIn ↔ ∃ n ∈ l, n.link.state = .lost ∧ n.entry.pos = x ∧ p < x ∧ x ≤ r.gapTo) ∧
      r.lostIn.length + r.lostOut = (l.filter fun n => decide (n.link.state = .lost)).length
  | .irregular =>
      (∃ n ∈ l, n.link.state = .onB ∧ n.entry.pos = r.lowestB) ∧
      (∀ n ∈ l, n.link.state = .onB → r.lowestB ≤ n.entry.pos) ∧
      (∃ n ∈ l, n.link.state = .onA ∧ n.entry.pos = r.highestA) ∧
      ∀ n ∈ l, n.link.state = .onA → n.entry.pos ≤ r.highestA
  | _ => True

/-- The LINE_CONDITION record of a change, if there is one (R82). -/
def condRecords (i : LineId) (c : Option LineCond) : List JBody :=
  c.toList.map fun k => ⟨.lineCondition, some (i, 0), none, none, .cond k, .num (match k with
    | .split p => p
    | _ => 0), .none⟩

/-- The break locator has run on a line (R81, R82): the condition and its report are those of the counted nodes, and a
change of the condition is recorded and posted. -/
structure located (i : LineId) (s t : State) (c : Option LineCond) : Prop where
  cond : conditionIs (t.countedOn i) (t.line i).cond
  report : reportIs (t.countedOn i) (t.line i).cond (t.line i).report
  change : c = if (t.line i).cond = (s.line i).cond then none else some (t.line i).cond
  records : journaled (condRecords i c) s t
  occurrences : postedAll .line (c.toList.map (Detail.lineCond i)) s t

/-- The exchange of a poll as it is sent (R66, R68, R80, R196). -/
def State.pollExchange (s : State) (i : LineId) (again : Bool) (leg : Leg) (a : Nat) : Exchange :=
  ⟨.poll again, leg, a, false, true, s.settings.timeout.get i, pollFrame a, false⟩

/-- The leg an order goes out on first (R74): leg B to an ON_B node, and otherwise leg A. -/
def Node.orderLeg (n : Node) : Leg := if n.link.state = .onB then .b else .a

/-- The frame of a directed order under the line's order tag (R71, R196). -/
def State.orderFrame (s : State) (i : LineId) (a : Nat) (kind : OrderKind) (param : Nat) : List Byte :=
  frameBytes a 2 (leBytes 1 (s.line i).tag ++ (leBytes 1 kind.code ++ leBytes 1 param))

/-- The exchange of a queued order as it is first sent (R66, R71, R72, R74, R196): a directed order under the next order
tag, a broadcast on leg A. -/
def State.orderExchange (s : State) (i : LineId) (o : Order) : Exchange :=
  match o.target with
  | some a => ⟨.order o, ((s.node i a).map Node.orderLeg).getD .a, a, false, true, s.settings.timeout.get i,
      s.orderFrame i a o.kind o.param, false⟩
  | none => ⟨.broadcast o, .a, 0, false, true, s.settings.timeout.get i, broadcastFrame o.kind o.param, false⟩

/-- The exchange of an owed order as it is sent (R66, R71, R73, R74, R196): the mode order is ONLINE while the clock is
VALID and otherwise STANDALONE, the group order RELEASE for a RELEASED group and otherwise RESTORE. -/
def State.owedExchange (s : State) (i : LineId) (a : Nat) (n : Node) (group : Bool) : Exchange :=
  ⟨if group = true then .owedGroup else .owedMode, n.orderLeg, a, false, true, s.settings.timeout.get i,
    if group = true
    then s.orderFrame i a (if (s.group n.entry.group).release = .released then .release else .restore) n.entry.group
    else s.orderFrame i a (if s.clock.valid = .valid then .online else .standalone) 0, false⟩

/-- What a line at liberty has to send (R68, R73). -/
inductive Sending where
  | nothing
  | order (o : Order)
  | owed (v : Visit) (n : Node) (group : Bool)
  | poll (v : Visit) (n : Node)

/-- What a line that stands as `x` sends next (R68, R73): the oldest order queued; with none, at a visit, the mode order
where it is due and still owed, then the group order alike, then the poll. -/
def State.sends (s : State) (i : LineId) (x : Line) : Sending :=
  match x.queue, x.cycle.bind Cycle.visit with
  | o :: _, _ => .order o
  | [], none => .nothing
  | [], some v => match s.node i v.addr with
    | none => .nothing
    | some n => if v.modeDue = true ∧ n.link.modeOwed = true then .owed v n false
      else if v.groupDue = true ∧ n.link.groupOwed = true then .owed v n true
      else .poll v n

/-- The exchange of what is sent (R66, R74, R80): a re-poll on the leg last answered on, another poll on leg B to an
ON_B node outside phase 16, and otherwise on leg A. -/
def State.sentExchange (s : State) (i : LineId) (x : Line) : Sending → Option Exchange
  | .nothing => none
  | .order o => some (s.orderExchange i o)
  | .owed v n group => some (s.owedExchange i v.addr n group)
  | .poll v n => some (s.pollExchange i v.repollNext (match v.repollNext, v.lastLeg with
      | true, some leg => leg
      | _, _ => if n.link.state = .onB ∧ x.phase ≠ 16 then .b else .a) v.addr)

/-- The cycle with a due mark of its visit used up by what is sent. -/
def Cycle.having (c : Cycle) : Sending → Cycle
  | .owed _ _ group => { c with visit := c.visit.map fun v =>
      if group = true then { v with groupDue := false } else { v with modeDue := false } }
  | _ => c

/-- Whether what is sent takes an order tag (R71). -/
def Sending.tagged : Sending → Bool
  | .order o => o.target.isSome
  | .owed _ _ _ => true
  | _ => false

/-- The node table once this has been sent: an owed order sent is marked at its node (notes/assumptions/25). -/
def Sending.nodesAfter (i : LineId) (m : FMap Node) : Sending → FMap Node
  | .owed v n group => m.put (nodeKey i v.addr) { n with link :=
      if group = true then { n.link with groupSent := true } else { n.link with modeSent := true } }
  | _ => m

/-- A visit as it begins to this node: the orders due at it are those owed at this moment (R73; notes/assumptions/26). -/
def Node.visit (n : Node) (a : Nat) : Visit := ⟨a, n.link.modeOwed, n.link.groupOwed, 0, false, false, none⟩

/-- The phase of a line's next cycle (R67). -/
def Line.phaseNext (x : Line) : Nat := if x.restart = true ∨ x.phase = 16 then 1 else x.phase + 1

/-- Whether no node at these addresses is present and enabled (R67). -/
def State.noneDue (s : State) (i : LineId) (l : List Nat) : Prop :=
  ∀ a ∈ l, ∀ n, s.node i a = some n → n.entry.enabled = false

/-- How many cycles are complete as a line is between cycles: none where it was so, one where the last visit of its
cycle is over and no address left names a present, enabled node (R69). -/
def completes (i : LineId) (w : State) (k : Nat) : Prop :=
  ((w.line i).cycle = none ∧ k = 0) ∨
  ∃ c, (w.line i).cycle = some c ∧ (∀ v, c.visit = some v → v.done = true) ∧ w.noneDue i c.rest ∧ k = 1

/-- How a line whose exchange has ended stands before it sends, after how many completed cycles (R67 to R69): in the
visit that is not over; in the next visit of the cycle, to the first address left whose node is present and enabled; or
between cycles, where one whose poll period is over begins its next cycle at once, which is complete at once where it
lists no node. -/
inductive resumes (i : LineId) (w : State) : Nat → Line → Prop where
  | visiting (rest : List Nat) (v : Visit) (n : Node) : (w.line i).cycle = some ⟨rest, some v⟩ → v.done = false →
      w.node i v.addr = some n → resumes i w 0 (w.line i)
  | nextVisit (c : Cycle) (skipped more : List Nat) (a : Nat) (n : Node) : (w.line i).cycle = some c →
      (∀ v, c.visit = some v → v.done = true) → c.rest = skipped ++ a :: more → w.noneDue i skipped →
      w.node i a = some n → n.entry.enabled = true →
      resumes i w 0 { w.line i with cycle := some ⟨more, some (n.visit a)⟩ }
  | between (k : Nat) : completes i w k → (w.line i).periodEnd.isSome = true →
      resumes i w k { w.line i with cycle := none }
  | begins (k p a : Nat) (more : List Nat) (n : Node) : completes i w k → (w.line i).periodEnd = none →
      p = (w.line i).phaseNext → w.visitList i p = a :: more → w.node i a = some n → n.entry.enabled = true →
      resumes i w k { w.line i with
        phase := p, restart := false, periodEnd := some (w.settings.period.get i)
        cycle := some ⟨more, some (n.visit a)⟩ }
  | listsNone (k p : Nat) : completes i w k → (w.line i).periodEnd = none →
      p = (w.line i).phaseNext → w.visitList i p = [] →
      resumes i w (k + 1) { w.line i with
        phase := p, restart := false, periodEnd := some (w.settings.period.get i), cycle := none }

/-- What a line goes on to once an exchange has ended and left it in `w` (R68, R69, R71, R73, R80): it stands as `x`
and sends what is next; each cycle complete on the way is counted and located, and with none the line's condition and
its count stand. -/
structure lineGoesOn (i : LineId) (k : Nat) (x : Line) (w t : State) : Prop where
  others : ∀ l, l ≠ i → t.line l = w.line l
  line : t.line i = { x with
    cycle := x.cycle.map fun c => c.having (w.sends i x)
    exch := w.sentExchange i x (w.sends i x)
    tag := if (w.sends i x).tagged = true then (x.tag + 1) % 256 else x.tag
    cond := (t.line i).cond, report := (t.line i).report, count := Nat.iterate (satSucc max32) k x.count }
  nodes : t.nodes = (w.sends i x).nodesAfter i w.nodes
  ends : 0 < k → ∃ c, located i w t c
  goes : k = 0 → t.journal = w.journal ∧ (t.line i).cond = x.cond ∧ (t.line i).report = x.report ∧
    postedAll .line [] w t

/-- The line has gone on from `w` in whatever way it resumes, and nothing else has changed. -/
def wentOn (i : LineId) (w t : State) : Prop :=
  (∀ k x, resumes i w k x → lineGoesOn i k x w t) ∧
  changesOnly [] [.lines, .nodes, .journal] [.line, .journal] w t

/-- What an event of a taken poll reply does, handed on while the power state is RUN (R79): at a door the decision with
its order and its record (R89, R98, R99), or a change of the door record (R101, R102); at a minibar what the minibar
unit makes of it, in a statement of its own; anything else is discarded, and a presentation while the clock is
INVALID. -/
def handled (i : LineId) (a : Nat) (n : Node) (e : NodeEvent) (u w : State) : Prop :=
  let holder := match n.door.release with
    | .card k => if k = 0 then none else some k
    | _ => none
  let room := if n.entry.kind = .roomDoor then n.entry.room else none
  let withDoor := fun d : DoorRec => { u with nodes := u.nodes.put (nodeKey i a) { n with door := d } }
  match n.entry.kind, e with
  | .minibar, .presentation p => w = if u.clock.valid = .valid then minibarPresents i a n p u else u
  | .minibar, .minibarDoor o => w = minibarDoor i a n o u
  | .minibar, .slots m => w = slotsReported i a n m u
  | .roomDoor, .presentation p | .commonDoor, .presentation p => ∀ d, d = u.doorDecision n p →
      w = if u.clock.valid = .invalid then u else
        offer ⟨if d = .grant ∨ d = .grantOverride ∨ d = .grantHeld then .admitted else .refuse, some (i, a),
            if p.number = 0 then none else some p.number, u.decisionRoom n p, .decision d, .num p.age, .none⟩
          { (if d = .grant ∨ d = .grantOverride ∨ d = .grantHeld
              then withDoor { n.door with release := .card p.number } else u) with
            lines := u.lines.set i { u.line i with
              queue := (u.line i).queue ++ (d.order a u.settings.unlatch).toList } }
  | .roomDoor, .doorOpened | .commonDoor, .doorOpened =>
      w = offer ⟨.doorOpened, some (i, a), holder, room, (match n.door.release with
          | .none => .noRelease
          | .card _ => .card
          | .remote => .remote), .door n.door.condition, .none⟩
        (withDoor ⟨if n.door.condition = .closed then .opened else n.door.condition, n.door.cause, .none⟩)
  | .roomDoor, .doorClosed | .commonDoor, .doorClosed => w = withDoor ⟨.closed, none, .none⟩
  | .roomDoor, .doorForced | .commonDoor, .doorForced =>
      w = post .alarm (.forced (i, a)) (offer
        ⟨.doorForced, some (i, a), holder, room, .door n.door.condition, .num 0, .none⟩
        (withDoor ⟨.alarm, some .forced, .none⟩))
  | .roomDoor, .doorHeld | .commonDoor, .doorHeld =>
      w = post .alarm (.held (i, a)) (offer
        ⟨.doorHeld, some (i, a), holder, room, .door n.door.condition, .num 0, .none⟩
        (withDoor ⟨.alarm, some .held, n.door.release⟩))
  | _, _ => w = u

/-- The state with a line's exchange ended, its queue given and its visit changed by `f`. -/
def State.exchangeEnded (s : State) (i : LineId) (queue : List Order) (f : Visit → Visit) : State :=
  { s with lines := s.lines.set i { s.line i with
      exch := none, queue := queue, cycle := (s.line i).cycle.map fun c => { c with visit := c.visit.map f } } }

/-- The visit with the leg of its node's last taken reply (R80). -/
def Exchange.lastLeg (x : Exchange) (v : Visit) : Visit := if v.addr = x.addr then { v with lastLeg := some x.leg } else v

/-- What a taken reply does by what its exchange carries, before the line goes on (R71, R73, R75, R77 to R80): an order
leaves the queue; an owed order clears its mark, unless the mark has been set again since (notes/assumptions/25); the
event of a poll's reply is handed on, and the visit then has its re-poll or is over. -/
def tookReply (i : LineId) (x : Exchange) (n : Node) (r : ReplyFrame) (s w : State) : Prop :=
  let u := s.afterAnswer i x.leg x.addr n r.status
  let m := linkAfterReply x.leg r.status n.link
  let cleared := fun l : NodeLink => { u with nodes := u.nodes.put (nodeKey i x.addr) { n with link := l } }
  match x.kind with
  | .order _ => w = u.exchangeEnded i ((s.line i).queue.drop 1) x.lastLeg
  | .owedMode => w = (cleared { m with modeOwed := m.modeOwed && !m.modeSent }).exchangeEnded i (s.line i).queue x.lastLeg
  | .owedGroup =>
    w = (cleared { m with groupOwed := m.groupOwed && !m.groupSent }).exchangeEnded i (s.line i).queue x.lastLeg
  | .poll _ => ∃ y, handled i x.addr { n with link := m } r.event u y ∧
      w = y.exchangeEnded i (y.line i).queue fun v =>
        if r.more = true ∧ v.repolls < 4
        then { x.lastLeg v with repolls := v.repolls + 1, repollNext := true } else { x.lastLeg v with done := true }
  | _ => False

/-- What the failure of an exchange on both legs does by what it carries, before the line goes on (R71, R73, R76, R80):
an order is lost, and journaled where it is a decision order; an owed order stays owed and leaves no record; a poll
raises its node's miss count, and at the third miss the node is LOST, with its record and its LINE occurrence; a re-poll
ends the visit and nothing else. -/
def wentUnanswered (i : LineId) (x : Exchange) (n : Node) (s w : State) : Prop :=
  let ended := fun v : Visit => { v with done := true }
  match x.kind with
  | .order o => w =
      let u := s.exchangeEnded i ((s.line i).queue.drop 1) id
      if o.cls = .decision
      then offer ⟨.orderLost, some (i, o.target.getD 0), none, none, .lostCause .undelivered, .order o.kind, .none⟩ u
      else u
  | .owedMode | .owedGroup => w = s.exchangeEnded i (s.line i).queue id
  | .poll true => w = s.exchangeEnded i (s.line i).queue ended
  | .poll false => w =
      let falls := decide (2 ≤ n.link.miss ∧ n.link.state ≠ .lost ∧ n.link.state ≠ .disabled)
      let u := ({ s with nodes := s.nodes.put (nodeKey i x.addr) { n with link := { n.link with
        miss := min 3 (n.link.miss + 1), state := if falls = true then .lost else n.link.state } } }).exchangeEnded i
          (s.line i).queue ended
      if falls = true
      then post .line (.node (i, x.addr)) (offer
        ⟨.nodeLost, some (i, x.addr), none, none, .link n.link.state, .num n.entry.pos, .none⟩ u)
      else u
  | _ => False

/-- The refusal of a presentation at a minibar, in the order of its tests, or none where it is granted or goes to the
finalisation of SETTLING (R115, R116, R118); `x` is the bound room and `sum` its tab with its pending lines. -/
def State.barRefusal (s : State) (n : Node) (x : Room) (room sum : Nat) (p : Presentation) : Option Decision :=
  match s.cardTests p with
  | .inr d => some d
  | .inl r => match r.kind with
    | .staff => some .denyNoPrivilege
    | .guest =>
      if r.room ≠ room then some .denyWrongRoom
      else if r.issue ≠ x.entry.issue then some .denySuperseded
      else if r.minibar = false ∨ x.entry.limit = 0 then some .denyNoPrivilege
      else if n.bar.state = .chargeWait then some .denyChargeWait
      else if n.bar.state = .held then some .denyHeld
      else if n.bar.state = .openRestock then some .denyInUse
      else if n.bar.present = none then some .denyNotReady
      else if x.entry.limit ≤ sum then some .denyTabLimit
      else none
    | .restock | .master =>
      if r.kind = .restock ∧ r.mask.has n.entry.group = false then some .denyGroup
      else if r.kind = .restock ∧ s.inWindow r = false then some .denyWindow
      else if n.bar.state = .openGuest then some .denyInUse
      else if n.bar.state = .chargeWait then some .denyChargeWait
      else if n.bar.present = none then some .denyNotReady
      else none

/-- The state with these orders behind a line's queue. -/
def State.queued (s : State) (l : LineId) (orders : List Order) : State :=
  { s with lines := s.lines.set l { s.line l with queue := (s.line l).queue ++ orders } }

/-- The state with these orders behind a line's queue, and a node's minibar record changed by `f`. -/
def State.barOrder (s : State) (l : LineId) (a : Nat) (orders : List Order) (f : BarRec → BarRec) : State :=
  (s.modNode l a fun n => { n with bar := f n.bar }).queued l orders

/-- The exchange of the drain's STANDALONE broadcast on leg A or leg B (R87). -/
def drainExchange (s : State) (i : LineId) (leg : Leg) : Exchange :=
  ⟨.drainStandalone, leg, 0, decide (leg = .b), true, s.settings.timeout.get i, broadcastFrame .standalone 0, false⟩

/-- HOLD_OUT after the inbound buffer has come to hold this many characters (R172). -/
def holdAfter (chars : Nat) (hold : Bool) : Bool :=
  if 1536 ≤ chars then true else if chars ≤ 512 then false else hold

/-- The state with these characters in its inbound buffer, HOLD_OUT having been tested (R172). -/
def State.withInbound (s : State) (b : Inbound) : State :=
  { s with link := { s.link with inbound := b, holdOut := holdAfter b.chars s.link.holdOut } }

/-! ## The journal (R137, R142, R144, R145, R150) -/

/-- The state with a record accepted under the last sequence (R137, R138): the journal is EXHAUSTED, which is posted,
and the held OVERRUN records are dropped and tallied. -/
def State.exhaustedBy (s : State) (b : JBody) : State :=
  post .journal .exhausted { s with journal := { s.journal with
    nextSeq := max32 + 1
    staging := s.journal.staging ++ [⟨max32, s.clock.minute, s.clock.second, b⟩]
    heldOverruns := []
    dropOther := s.journal.heldOverruns.foldl (fun d _ => min (d + 1) max32) s.journal.dropOther } }

/-- The level occurrence as the uncollected count rises (R150). -/
def levelPosts (old new : Nat) : List Detail :=
  if old < 9856 ∧ 9856 ≤ new then [.near new] else if old < 5632 ∧ 5632 ≤ new then [.half new] else []

/-- What the head-full test does with the journal unit in `base`, the journal's condition not being FAULT (R142, R144,
R145): the head moves to an erased spare; a reclaimable spare is waited for; on the policy HOLD the writer is FULL; on
the policy OVERWRITE the mark goes past the spare, the journal-state entry is queued, and the OVERRUN record is offered.
`posts` are the JOURNAL occurrences before it. -/
def headFilled (base : Journal) (posts : List Detail) (s t : State) : Prop :=
  let spare := s.store.jsec s.journal.spare
  (spare.erased = true → postedAll .journal posts s t ∧ queuesOnly [] s t ∧ t.journal = { base with
    head := s.journal.spare, writer := .writing
    spare := ((circleAfter s.journal.spare).find? fun i => !(s.store.jsec i).retired).getD s.journal.spare }) ∧
  (spare.erased = false → (∀ r ∈ spare.recs, r.seq ≤ base.mark) →
    postedAll .journal posts s t ∧ queuesOnly [] s t ∧ t.journal = { base with writer := .waitingSpare }) ∧
  (spare.erased = false → (∃ r ∈ spare.recs, base.mark < r.seq) → s.settings.policy = .hold →
    postedAll .journal (posts ++ [.full (base.newest - base.mark)]) s t ∧ queuesOnly [] s t ∧
    t.journal = { base with writer := .full }) ∧
  ∀ m, spare.erased = false → (∃ r ∈ spare.recs, base.mark < r.seq) → s.settings.policy = .overwrite →
    (∃ r ∈ spare.recs, r.seq = m) → (∀ r ∈ spare.recs, r.seq ≤ m) →
    t.journal = (offerOverrun (base.mark + 1, m)
      { s with journal := { base with mark := m, writer := .overrun } }).journal ∧
    (base.nextSeq < max32 → postedAll .journal (posts ++ [.overrun (base.mark + 1) m]) s t) ∧
    queuesOnly [.journalState] s t ∧ (s.store.canQueue [.journalState] 0 = true →
      t.store.contents .journalState = some (.journalState ⟨m, base.oldestRetained⟩))

/-! ## The store -/

/-- The STORE occurrences of a step (R165 to R168): the retirement it reports, if it does, then READ_ONLY, JOURNAL_FAULT
and STALLED, each as its condition is entered. -/
def storePosts (retired : Option (Nat × RetireCause)) (s t : State) : Prop :=
  postedAll .store (retired.toList.map (fun e => .sector e.1 e.2) ++
    (if s.store.readOnly = false ∧ t.store.readOnly = true then [.readOnly] else []) ++
    (if s.journal.writer ≠ .fault ∧ t.journal.writer = .fault then [.journalFault] else []) ++
    (if s.store.stalled = false ∧ t.store.stalled = true then [.stalled] else [])) s t

/-- The records a cold start applies: those of the sectors not found interrupted (R169, R185). -/
def appliedRecs (t : Store) : List LogRec :=
  t.tlog.flatMap fun e =>
    if e.2.cut = true ∨ 3 < (e.2.cells.filter Option.isNone).length then [] else e.2.cells.filterMap id

/-- The newest of these records of a table entry holds these contents (R162). -/
def newestHolds (l : List LogRec) (k : EntryKey) (v : EntryVal) : Prop :=
  ∃ q ∈ l, q.key = k ∧ q.val = v ∧ ∀ p ∈ l, p.key = k → p.append ≤ q.append

/-- The store as a cold start finds it (R156, R169, R188): an erase in progress or suspended has left its sector
interrupted, and a program in progress runs to its end, sound or failed, which is a free value
(notes/assumptions/14). -/
def State.foundStore (s : State) : Store :=
  match s.store.engine with
  | .programming p => landProgram p (Config.coldStartSound s.freeUses) (cutErases s.store)
  | _ => cutErases s.store

/-- The credential unit as the records a cold start applies give it (R44, R185): each slot and each list place holds
its newest record, the serial stands as recorded, and the revocation count is the highest sequence of the list. -/
structure tablesFound (l : List LogRec) (c : CredUnit) : Prop where
  slots : c.slots.wf
  list : c.list.wf
  slot : ∀ k v, newestHolds l (.cred k) (.cred v) → c.slots.get k = v
  noSlot : ∀ k, (∀ q ∈ l, q.key ≠ .cred k) → c.slots.get k = none
  place : ∀ k v, newestHolds l (.listPlace k) (.listPlace v) → c.list.get k = v
  noPlace : ∀ k, (∀ q ∈ l, q.key ≠ .listPlace k) → c.list.get k = none
  serial : ∀ n, newestHolds l .serial (.serial n) → c.serial = n
  noSerial : (∀ q ∈ l, q.key ≠ .serial) → c.serial = 0
  revCount : c.revCount = c.list.foldl (fun m e => max m e.2.seq) 0

/-- A command that begins a cold start here, with the link rate it takes and whether the backup domain reports a loss
(R1, R170, R183, R191, R192). -/
def coldStarts (s : State) (c : Instr) (rate : LinkRate) (lost : Bool) : Prop :=
  (c = .powerOn rate lost ∧ s.power.supply = false ∧ s.power.resetPin = false) ∨
  (c = .resetReleased rate ∧ s.power.resetPin = true ∧ s.power.supply = true ∧ lost = false) ∨
  (c = .pfwDeasserted rate ∧ s.power.state = .parked ∧ lost = false) ∨
  ∃ straps d, c = .postDrainColdStart straps ∧ s.power.state = .draining ∧ s.power.drain = some d ∧ d.ended = true ∧
    s.link.tx = none ∧ s.link.slot = none ∧ lost = false ∧ rate = if d.cause = .restart then s.link.rate else straps

/-- Whether PFW stands asserted as that cold start begins (R188). -/
def startsParked (s : State) (c : Instr) : Prop := s.power.pfw = true ∧ ∀ w, c ≠ .pfwDeasserted w

/-- The sectors of both regions hold the same slots, and the identity area the same places. -/
structure keepsSlots (t u : Store) : Prop where
  log : ∀ k, (u.tsec k).cells = (t.tsec k).cells
  journal : ∀ k, (u.jsec k).cells = (t.jsec k).cells
  identity : u.idPlaces = t.idPlaces

/-! ## Card images (R42, R47, R48, R195) -/

/-- A number stands in `len` bytes of an image from byte `off`, least significant byte first (Chapter 11). -/
def holdsAt (b : List Byte) (off len n : Nat) : Prop :=
  ∀ k, k < len → b[off + k]? = some (BitVec.ofNat 8 (n / 256 ^ k))

/-- Whether a credential is of this group's holders (R38). -/
def State.opens (s : State) (r : CredRec) (g : Nat) : Bool :=
  match r.kind with
  | .guest => ((s.rooms.get r.room).map fun x => x.entry.access.has g).getD false
  | .staff | .restock => r.mask.has g
  | .master => true

/-- A list entry's reach meets a new card's (R38, R42). -/
def meetsReach (s : State) (r : CredRec) (e : RevEntry) : Prop :=
  ∃ g, g < 16 ∧ e.reach.has g = true ∧ (s.group g).offline = true ∧ s.opens r g = true

/-- The carried selection of a record's card (R42): of the list's entries whose reach meets the card's, the newest 12,
newest first. -/
structure carriedSelection (s : State) (r : CredRec) (chosen : List (Nat × Nat × RevEntry)) : Prop where
  few : chosen.length ≤ 12
  listed : ∀ e ∈ chosen, e ∈ s.cred.entries ∧ meetsReach s r e.2.2
  newest : chosen.Pairwise fun x y => y.2.1 ≤ x.2.1
  others : ∀ e ∈ s.cred.entries, meetsReach s r e.2.2 → e ∉ chosen →
    chosen.length = 12 ∧ ∀ x ∈ chosen, e.2.1 ≤ x.2.1

/-- The bytes of the issue image of a record that carries these entries (R42, R47, R195). -/
structure issueImage (s : State) (i : Identity) (r : CredRec) (chosen : List (Nat × Nat × RevEntry)) (b : List Byte) :
    Prop where
  length : b.length = 128
  version : holdsAt b 0 1 1
  kind : holdsAt b 1 1 (match r.kind with
    | .guest => 1
    | .staff => 2
    | .restock => 3
    | .master => 4)
  flags : holdsAt b 2 1 (if r.kind = .guest ∧ r.minibar = true then 1 else 0)
  count : holdsAt b 3 1 chosen.length
  site : holdsAt b 4 4 i.site
  number : holdsAt b 8 4 r.number
  label : ∀ x, r.kind = .guest → s.rooms.get r.room = some x → holdsAt b 12 2 x.entry.label
  stay : holdsAt b 14 2 (if r.kind = .guest then r.room else 0) ∧ holdsAt b 16 2 (if r.kind = .guest then r.issue else 0)
  noLabel : r.kind ≠ .guest → holdsAt b 12 2 0
  mask : ∀ g, g < 16 → (b[18 + g / 8]?).map (fun c => c.getLsbD (g % 8)) = some (s.opens r g)
  term : holdsAt b 20 4 r.validFrom ∧ holdsAt b 24 4 (r.validUntil.getD 0xFFFFFFFF)
  window : holdsAt b 28 2 (if r.kind = .staff ∨ r.kind = .restock then r.winStart else 0) ∧
    holdsAt b 30 2 (if r.kind = .staff ∨ r.kind = .restock then r.winEnd else 0)
  minute : holdsAt b 32 4 s.clock.minute
  grace : holdsAt b 36 2 (if r.kind = .guest then s.settings.checkout else 0)
  fill : ∀ k, 38 ≤ k → k < 52 → b[k]? = some 0
  entries : ∀ k e, chosen[k]? = some e → holdsAt b (52 + 6 * k) 4 e.2.2.number ∧
    holdsAt b (56 + 6 * k) 2 (match e.2.2.expiry with
      | none => 65535
      | some m => min (m / 1440) 65535)
  noEntries : ∀ k, 52 + 6 * chosen.length ≤ k → k < 124 → b[k]? = some 0
  check : holdsAt b 124 4 (cardCheck i.seed (b.take 124)).toNat

/-- The bytes of the void image of a credential number (R48, R195). -/
structure voidImage (i : Identity) (number : Nat) (b : List Byte) : Prop where
  length : b.length = 128
  kind : holdsAt b 1 1 5
  site : holdsAt b 4 4 i.site
  number : holdsAt b 8 4 number
  others : ∀ k, k < 124 → k ≠ 1 → ¬ (4 ≤ k ∧ k < 12) → b[k]? = some 0
  check : holdsAt b 124 4 (cardCheck i.seed (b.take 124)).toNat

/-! ## The drain's charges (R127, R133) -/

/-- A pending line has been finalised (R127, R129): its CHARGE record accepted, the tab of its room's current stay
raised, to at most 9,999,999, where it is of that stay, its slot out of the baseline, and the entries queued. -/
structure lineCharged (l : LineId) (a room k : Nat) (p : PendingLine) (s t : State) : Prop where
  node : t.node l a = (s.node l a).map fun n => { n with
    entry := { n.entry with baseline := n.entry.baseline &&& ~~~ slotBit k }
    bar := { n.bar with lines := n.bar.lines.del k } }
  others : ∀ key, key ≠ nodeKey l a → t.nodes.get key = s.nodes.get key
  rooms : ∀ i, t.rooms.get i = (s.rooms.get i).map fun y => if i = room ∧ p.issue = y.entry.issue
    then { y with entry := { y.entry with tab := min (y.entry.tab + p.amount) 9999999 } } else y
  record : ∀ x, s.rooms.get room = some x → recorded [⟨.charge, some (l, a), none, some room, .num p.amount,
    .num p.minute, .charge p.item k p.issue (decide (p.issue = x.entry.issue ∧ 9999999 < x.entry.tab + p.amount))
      (decide (p.issue ≠ x.entry.issue))⟩] s t
  roomPlace : ∀ x, s.rooms.get room = some x → p.issue = x.entry.issue → placed [.room room] t
  nodeQueued : placed [.node l a] t ∨ .node l a ∈ t.store.waiting
  rest : changesOnly [.room room, .node l a] [.rooms, .nodes, .journal] [.journal] s t

/-- The pending lines of a minibar finalised in slot order, up to the first that has not both its places and waits
(R127, R133). -/
def linesCharged (l : LineId) (a room : Nat) : FMap PendingLine → State → State → Prop
  | [], s, t => t = s
  | (k, p) :: rest, s, t =>
    if s.journal.takesMoney = true ∧ s.store.canQueue [.room room] 0 = true
    then ∃ u, lineCharged l a room k p s u ∧ linesCharged l a room rest u t
    else t = s

/-- The waiting lines of these minibars finalised in turn, up to the first minibar with one that has not both its
places; a minibar whose last line is finalised comes to rest (R128). -/
def waitingCharged : List (LineId × Nat × Node) → State → State → Prop
  | [], s, t => t = s
  | (l, a, _) :: rest, s, t => ∃ n u m, s.node l a = some n ∧ linesCharged l a (n.entry.room.getD 0) n.bar.lines s u ∧
      u.node l a = some m ∧
      if m.bar.lines = []
      then waitingCharged rest (u.modNode l a fun y => { y with bar := { y.bar with
        state := u.restState n.entry.room } }) t
      else t = u

/-- The pending lines of these minibars finalised in turn, each as far as they proceed (R133; notes/assumptions/37). -/
def barsCharged : List (LineId × Nat × Node) → State → State → Prop
  | [], s, t => t = s
  | (l, a, _) :: rest, s, t => ∃ u, (match s.node l a with
      | some n => linesCharged l a (n.entry.room.getD 0) n.bar.lines s u
      | none => u = s) ∧ barsCharged rest u t

/-! ## Requests -/

/-- The reply slot holds this reply. -/
def replied (h : ReqHead) (lines : List RLine) (t : State) : Prop := ∃ n, t.link.slot = some ⟨h.tag, lines, n⟩

/-- A request has been answered with these lines, and nothing else has changed but these table entries' places,
these parts of the state and these notice classes. What the step leaves for the store engine and the
transmitter they take up, which is theirs to do at any time: the store's cells stand, and STORE notices may
come of it. -/
structure answersOnly (h : ReqHead) (lines : List RLine) (keys : List EntryKey) (parts : List Part)
    (classes : List NoticeClass) (s t : State) : Prop where
  reply : replied h lines t
  cells : keepsCells s t
  changes : queuesOnly keys s t
  link : keepsLink s t
  notices : noticesBut (.store :: classes) s t
  rest : keepsBut (.store :: .link :: parts) s t

/-- A request that breaks no common test meets a part that takes requests (R173, R175). -/
def accepts (h : ReqHead) (s : State) : Prop :=
  s.takesRequest = true ∧ s.draining = false ∧ h.badField = false

/-- The serial's place lies ahead of a slot's in the table change queue (R23). -/
def serialAhead (slot : Nat) (t : State) : Prop :=
  ∃ front back p, t.store.queue = front ++ p :: back ∧ p.key = .serial ∧ ∃ q ∈ back, q.key = .cred slot

/-- An ISSUE has been accepted (R23, R26): the record stands in its slot under the next number, the encoder job is
PREPARING for it, the serial and the slot are queued, the serial ahead of the slot where not both had a place already,
and nothing else has changed. -/
def issuedAs (h : ReqHead) (m : IssueMode) (slot : Nat) (r : CredRec) (issue : Option Nat) (s t : State) : Prop :=
  t.cred = { s.cred with serial := r.number, slots := s.cred.slots.put slot r } ∧
  t.enc = { s.enc with
    job := some ⟨.issue, m, .preparing, r.number, slot, none, 0, false, false, false, none, none, none, none, none⟩ } ∧
  placed [.serial, .cred slot] t ∧
  ((∀ p ∈ s.store.queue, p.key ≠ .serial) ∨ (∀ p ∈ s.store.queue, p.key ≠ .cred slot) → serialAhead slot t) ∧
  answersOnly h [.issued r.number slot issue r.validFrom r.validUntil] [.serial, .cred slot] [.cred, .enc] [] s t

/-- What the revocation list comes to as a credential is revoked: the list, the revocation count, the place that has
taken an entry, and the number, sequence and expiry of the one left out (R37, R39, R40). -/
structure Listing where
  list : FMap ListPlace
  count : Nat
  place : Option Nat
  out : Option (Nat × Nat × EndMinute)
  deriving DecidableEq, Repr

/-- The list as it stands, with no entry made. -/
def Listing.same (s : State) : Listing := ⟨s.cred.list, s.cred.revCount, none, none⟩

/-- The list with an entry for a record placed under the next revocation sequence (R39). -/
def Listing.entered (s : State) (r : CredRec) (why : RevReason) (i : Nat) (out : Option (Nat × Nat × EndMinute)) :
    Listing where
  list := s.cred.list.put i
    ⟨s.cred.revCount + 1, some ⟨r.number, why, s.clock.minute, s.expiry r, s.reach r, 0⟩⟩
  count := s.cred.revCount + 1
  place := some i
  out := out

/-- The list as it stands, the newcomer being the one left out (R40). -/
def Listing.leftOut (s : State) (r : CredRec) : Listing :=
  ⟨s.cred.list, s.cred.revCount, none, some (r.number, 0, s.expiry r)⟩

/-- The list place changed. -/
def Listing.keys (x : Listing) : List EntryKey := x.place.toList.map .listPlace

/-- The revocation sequence given, 0 when no entry was made (R33). -/
def Listing.seq (x : Listing) : Nat := if x.place.isSome then x.count else 0

/-- The REVOCATION_DISPLACED record of the one left out (R40). -/
def Listing.records (x : Listing) : List JBody :=
  x.out.toList.map fun o => ⟨.revocationDisplaced, none, some o.1, none, .num o.2.1, (match o.2.2 with
    | none => .openEnd
    | some m => .num m), .none⟩

/-- The revocation list's answer to a credential revoked now (R37, R39, R40): no entry where the credential opens no
offline door, its expiry has come or its number is listed; otherwise the lowest-numbered empty place takes its entry;
with every place held the entry of earliest expiry, of equal ones the oldest, is displaced, unless the newcomer's
expiry is the earlier. Once the revocation sequence is exhausted the newcomer is left out (R37). -/
def lists (s : State) (r : CredRec) (why : RevReason) (x : Listing) : Prop :=
  if s.reach r = 0 ∨ endBy s.clock.minute (s.expiry r) = true ∨ s.cred.onList r.number = true then x = .same s
  else if max32 ≤ s.cred.revCount then x = .leftOut s r
  else
    (∃ i, i < 256 ∧ (∀ e ∈ s.cred.entries, e.1 ≠ i) ∧ (∀ k, k < i → ∃ e ∈ s.cred.entries, e.1 = k) ∧
      x = .entered s r why i none) ∨
    ((∀ i, i < 256 → ∃ e ∈ s.cred.entries, e.1 = i) ∧ ∃ e ∈ s.cred.entries,
      (∀ y ∈ s.cred.entries, y ≠ e → endEarlier e.2.2.expiry y.2.2.expiry = true ∨
        (e.2.2.expiry = y.2.2.expiry ∧ e.2.1 < y.2.1)) ∧
      x = if endEarlier (s.expiry r) e.2.2.expiry = true then .leftOut s r
        else .entered s r why e.1 (some (e.2.2.number, e.2.1, e.2.2.expiry)))

/-- The occurrence of the one left out has been posted, if there is one (R40). -/
def Listing.posts (x : Listing) (s t : State) : Prop := ∀ o, x.out = some o → posted .alarm (.displaced o.1) s t

/-- The revocation list's answers to these credentials revoked in turn (R35). -/
def listsAll (why : RevReason) : List (Nat × CredRec) → State → List Listing → Prop
  | [], _, l => l = []
  | e :: rest, s, l => ∃ x xs, l = x :: xs ∧ lists s e.2 why x ∧
      listsAll why rest { s with cred := { s.cred with list := x.list, revCount := x.count } } xs

/-- The table entries these revocations change: each slot, and the list place its entry takes (R33). -/
def revokedKeys (gone : List (Nat × CredRec)) (l : List Listing) : List EntryKey :=
  (gone.zip l).flatMap fun e => .cred e.1.1 :: e.2.keys

/-- Whether a cancel ends an issue job at once: it has not written and reports no outcome (R59). -/
def Job.endsByCancel (j : Job) : Bool :=
  j.outcome.isNone && !j.cancel && (decide (j.state = .preparing) || decide (j.state = .waitingCard))

/-- An issue job that a revocation of its PENDING credential has reached without ending it: marked while it writes or
verifies, and a held success marked to be followed by the revocation, its first mark standing (R30, R34, R59). -/
def Job.reached (why : RevReason) (j : Job) : Job :=
  { j with
    cancel := j.cancel ||
      (j.outcome.isNone && (decide (j.state = .writing) || decide (j.state = .verifying)))
    after := if j.outcome = some .success then some (j.after.getD why) else j.after }

/-- A record as revoked now (R33). -/
def State.revokedRec (s : State) (r : CredRec) (why : RevReason) : CredRec :=
  { r with state := .revoked, reason := some why, revokedAt := s.clock.minute }

/-- The record of an issue that failed (R57). -/
def failedRecord (r : CredRec) (cause : Option JobCause) (disposition : JVal) : JBody :=
  ⟨.issueFailed, none, some r.number, r.roomOf, (match cause with
    | some c => .cause c
    | none => .num 0), disposition, .none⟩

/-- The records of a success (R30, R57): ISSUED, and REVOKED where a revocation follows it, behind the record of the
entry it leaves out (notes/assumptions/65). -/
def successRecords (j : Job) (r : CredRec) (x : Listing) : List JBody :=
  x.records ++ ⟨.issued, none, some r.number, r.roomOf, .num r.issue, .num j.carried, .none⟩ ::
    j.after.toList.map fun why => ⟨.revoked, none, some r.number, r.roomOf, .reason why, .num x.seq, .none⟩

/-- The credential unit and the room table after a success (R30, R31): the record is ACTIVE, or REVOKED where a
revocation follows; a NEW_STAY gives its room its issue number, settles its tab and supersedes the room's other ACTIVE
GUEST credentials. -/
structure successApplied (j : Job) (r : CredRec) (x : Listing) (s t : State) : Prop where
  slot : t.cred.slots.get j.slot = some (match j.after with
    | none => { r with state := .active }
    | some why => s.revokedRec r why)
  others : ∀ k, k ≠ j.slot → t.cred.slots.get k = (s.cred.slots.get k).map fun q =>
    if j.mode = .newStay ∧ q.kind = .guest ∧ q.state = .active ∧ q.room = r.room
    then { q with state := .superseded } else q
  list : t.cred.list = x.list
  count : t.cred.revCount = x.count
  serial : t.cred.serial = s.cred.serial
  rooms : ∀ i, t.rooms.get i = (s.rooms.get i).map fun y =>
    if j.mode = .newStay ∧ i = r.room then { y with entry := { y.entry with issue := r.issue, tab := 0 } } else y
  journal : t.journal = ((successRecords j r x).foldl (fun y b => offer b y)
    (if j.mode = .newStay ∧ s.tab r.room ≠ 0 then acceptRec ⟨.settle, none, none, some r.room, .num (s.tab r.room),
      .num r.issue, .settle .newStay⟩ s else s)).journal
  alarm : x.posts s t

/-- An issue outcome has been applied (R30 to R33, R56, R57): the job is IDLE, its occurrence posted, its entries
queued; released frees the slot, aborted revokes the record, success makes it ACTIVE. -/
def outcomeApplied (j : Job) (o : JobOutcome) (cause : Option JobCause) (r : CredRec) (s t : State) : Prop :=
  t.enc = { s.enc with job := none, headOp := none } ∧ posted .issue (.issueEnd j.number o cause) s t ∧
  placed (s.outcomeKeys j o r) t ∧
  changesOnly (s.outcomeKeys j o r) [.rooms, .cred, .enc, .journal] [.alarm, .issue, .journal] s t ∧
  match o with
  | .released => t.cred = { s.cred with slots := s.cred.slots.del j.slot } ∧ t.rooms = s.rooms ∧
      journaled [failedRecord r cause .freed] s t
  | .aborted => t.rooms = s.rooms ∧ ∀ x, lists s r .issueAborted x →
      t.cred = { s.cred with
        slots := s.cred.slots.put j.slot (s.revokedRec r .issueAborted), list := x.list, revCount := x.count } ∧
      journaled (x.records ++ [failedRecord r cause .aborted]) s t ∧ x.posts s t
  | .success => s.cred.slots.wf → ∀ x, (match j.after with
      | none => x = .same s
      | some why => lists s r why x) → successApplied j r x s t

/-- An issue job has reported its outcome (R30, R55, R56): with every place it needs available it is applied;
otherwise it is held in the job and nothing else has changed. -/
def outcomeReported (j : Job) (o : JobOutcome) (cause : Option JobCause) (r : CredRec) (s t : State) : Prop :=
  (s.outcomeFits j o r = true → outcomeApplied j o cause r s t) ∧
  (s.outcomeFits j o r = false →
    t.enc = { s.enc with
      headOp := none
      job := some { j with outcome := some o, cause := cause, cardWait := none, headEnd := none } } ∧
    changesOnly [] [.enc] [] s t)

/-- The part as its minibars and its encoder job find the drain begun: no minibar has a timer or an opening's mark left
(R133), and the tables, the job, the journal and the table change queue stand (R190; notes/assumptions/49). -/
structure drainBegun (s t : State) : Prop where
  nodes : t.nodes = s.nodes.mapVals fun _ n => if n.entry.kind = .minibar then
    { n with bar := { n.bar with graceEnd := none, latchEnd := none, opened := false, backToSettling := false } } else n
  queue : t.store.queue = s.store.queue
  waiting : t.store.waiting = s.store.waiting
  notices : ∀ c, c ≠ .power → c ≠ .store → t.link.notices.get c = s.link.notices.get c
  rest : keepsBut [.power, .nodes, .store, .link] s t

/-- The encoder job as the drain ends it (R61, R63): an outcome already reported stays; an ISSUE job that has written
reports aborted, in VOIDING with the cause that led there, and one that has not reports released; the cause is otherwise
CANCELLED. A READ job ends cancelled, and its result is not kept (notes/assumptions/45). -/
def jobDrained (s t : State) : Prop :=
  match s.enc.job with
  | none => t = s
  | some j => match j.kind with
    | .read => t.enc = { s.enc with job := none, headOp := none } ∧ posted .issue (.readEnd .cancelled) s t ∧
        changesOnly [] [.enc] [.issue] s t
    | .issue =>
      (j.outcome.isSome = true → t = s) ∧
      (j.outcome = none → ∀ r, s.cred.slots.get j.slot = some r →
        outcomeReported j (if j.writeStarted = true then .aborted else .released)
          (if j.writeStarted = true ∧ j.state = .voiding then j.cause else some .cancelled) r s t)

/-- An occurrence that a cold start may post (R40, R145, R150, R165, R167, R168, R185, R187). -/
def startOccurrence : NoticeClass → Detail → Prop
  | .alarm, d => ∃ n, d = .displaced n
  | .store, d => d = .stalled ∨ d = .readOnly ∨ d = .journalFault
  | .journal, d => (∃ n, d = .full n ∨ d = .near n ∨ d = .half n) ∨ (∃ a b, d = .overrun a b) ∨ d = .exhausted
  | _, _ => False

/-- What a command carries where it is a request. -/
def requestHead : Instr → Option ReqHead
  | .status h | .commission h _ _ _ | .identity h | .clockSet h _ _ | .clockGet h | .setup h _ _ _ _ _ _ _
  | .roomSet h _ _ _ _ _ | .roomGet h _ | .roomResetIssue h _ | .roomLockout h _ _ | .nodeSet h _ _ _ _ _ _ _
  | .nodeGet h _ _ | .nodeRemove h _ _ | .stock h _ _ _ | .groupSet h _ _ | .groupRelease h _
  | .groupSecure h _ | .groupNormal h _ | .priceSet h _ _ _ | .priceGet h _ | .issue h _ _ _ _ _ _ _
  | .cancel h _ | .revoke h _ _ | .checkout h _ | .credGet h _ _ | .cardRead h | .cardReadLast h _
  | .encoderReset h | .tabGet h _ | .tabSettle h _ | .minibarHold h _ _ | .jread h _ _ | .jrelease h _
  | .doorUnlock h _ _ _ | .lineEnable h _ | .lineDisable h _ | .lineReset h _ | .lineSet h _ _ _
  | .lineGet h _ | .notices h _ _ _ _ _ _ _ _ | .restart h => some h
  | .powerOn _ _ | .pfwAsserted | .pfwDeasserted _ | .resetAsserted | .resetReleased _ | .powerDown
  | .postDrainColdStart _ | .hotelClockTick | .deskLineReceived _ | .lineDiscardCharacter | .takeRequest
  | .holdInAsserted | .holdInReleased | .transmitLineComplete | .identityProgramComplete _
  | .intentRecordProgrammed | .cardInChange _ | .cardWaitExpiry | .writeImageAnswer _ | .readImageAnswer _
  | .headTimeout | .heldOutcomeRetry | .cycleBegin _ | .nodeReply _ _ _ | .replyTimeout _ | .broadcastSent _
  | .latchEnd _ _ | .graceEnd _ _ | .chargeWaitRetry | .journalProgramComplete _ | .heldOverrunAccept
  | .preErase | .tableLogProgramComplete _ | .waitingSetPlacement | .copyForwardComplete _ | .eraseComplete _
  | .eraseSuspend | .eraseRunLimit | .programTimeout | .powerLoss | .characterReceived _ _
  | .directedFrameSent _ | .suspensionTakesEffect => none

/-- Whether a request is one of the two that are answered while DRAINING (R175). -/
def answeredInDrain : Instr → Bool
  | .status _ | .jread _ _ _ => true
  | _ => false

end Sys2Proof.Machine
end

