-- ==== Sys2Proof/Certificates/Slice0/Obligations.lean ====
section
/-!
DEFINITION. The statements for the provers. Each docstring names the rules of spec/ the statement rests on.
-/

open Sys2Proof Sys2Proof.Machine

/-! ## The whole part -/

/-- A step carries out the command at the front of the queue on the state with the queue's rest; with no
command waiting the part idles, which is the model's choice (notes/assumptions/4). -/
def Obligations.StepTakesTheFrontCommand : Prop :=
  (∀ (c : Instr) (q : List Instr) (s : State),
    step { s with pending := c :: q } = exec c { s with pending := q }) ∧
  ∀ s : State, s.pending = [] → step s = .next s

/-- No command stops the part, and none touches the commands that wait behind it. -/
def Obligations.EveryCommandAnswers : Prop :=
  ∀ (c : Instr) (s : State), ∃ t, exec c s = .next t ∧ t.pending = s.pending

/-- What a new part holds right after its first cold start (01 sections 1.2 and 1.6, R65, R137, R154, R178,
R187); that `State.reset` is that part, its clock lost and its START record staged, is the model's choice
(notes/assumptions/1 and 2). -/
def Obligations.ResetValues : Prop :=
  State.reset.power.state = .run ∧ State.reset.clock = ⟨0, 0, .invalid, false⟩ ∧
  State.reset.settings = ⟨⟨250, 250, 250, 250⟩, ⟨5, 5, 5, 5⟩, 10, 5, 20, 120, 30, 15, .hold⟩ ∧
  (∀ i, State.reset.rooms.get i = none) ∧ (∀ l a, State.reset.node l a = none) ∧
  (∀ g, State.reset.group g = ⟨false, .normal⟩) ∧ (∀ i, State.reset.price i = ⟨0, 0⟩) ∧
  (∀ k, State.reset.cred.slots.get k = none) ∧ State.reset.cred.serial = 0 ∧ State.reset.cred.revCount = 0 ∧
  State.reset.enc.job = none ∧ State.reset.enc.lastRead = none ∧
  (∀ i, (State.reset.line i).running = false ∧ (State.reset.line i).queue = [] ∧ (State.reset.line i).exch = none) ∧
  State.reset.journal.staging = [⟨1, 0, 0, ⟨.start, none, none, none, .clean, .clock .invalid, .none⟩⟩] ∧
  State.reset.journal.nextSeq = 2 ∧ State.reset.journal.mark = 0 ∧
  State.reset.store.identity = none ∧ State.reset.store.queue = [] ∧ State.reset.store.readOnly = false ∧
  (∀ c, State.reset.link.notices.get c = ⟨true, false, 0, none⟩) ∧ State.reset.link.slot = none

/-- The part right after reset is sound: its tables canonical, its queues within their places, its clock in
range, its line masters at work or DISABLED. -/
def Obligations.ResetIsSound : Prop :=
  State.reset.canonical ∧ State.reset.withinPlaces ∧ State.reset.clockInRange ∧ State.reset.linesAtWork

/-- Every step keeps every table, and every region of the store, in its one canonical form. -/
def Obligations.TablesStayCanonical : Prop :=
  ∀ s t : State, s.canonical → step s = .next t → t.canonical

/-- Every step keeps the staging queue within its 64 places (R138), the table change queue within its 64
(R160), and each order queue within its 16 (R70). -/
def Obligations.QueuesStayWithinPlaces : Prop :=
  ∀ s t : State, s.withinPlaces → step s = .next t → t.withinPlaces

/-- Every step keeps the hotel clock at or below the largest minute and second 59 (R1, R3). -/
def Obligations.ClockStaysInRange : Prop :=
  ∀ s t : State, s.clockInRange → step s = .next t → t.clockInRange

/-- Every step keeps every RUNNING line master at work: after each step it has an exchange outstanding, or it rests
between cycles with its poll period running and nothing queued, and no visit waits on a node that is gone (R66 to
R68, R13). -/
def Obligations.LinesStayAtWork : Prop :=
  ∀ s t : State, s.linesAtWork → step s = .next t → t.linesAtWork

/-! ## Every request (R173, R175) -/

/-- The tests every request meets first: while DRAINING all but STATUS and JREAD are refused E_POWER, and a
request that breaks the field test is refused E_FIELD, with nothing changed (R175). That a request put while
none is taken does nothing at all is the model's choice (notes/assumptions/6). -/
def Obligations.CommonTestsOfRequests : Prop :=
  ∀ (i : Instr) (h : ReqHead) (s : State), requestHead i = some h →
    (s.takesRequest = false → exec i s = .next s) ∧
    (s.takesRequest = true → s.draining = true → answeredInDrain i = false →
      ∃ t, exec i s = .next t ∧ answersOnly h [.err .power] [] [] [] s t) ∧
    (s.takesRequest = true → (s.draining = false ∨ answeredInDrain i = true) → h.badField = true →
      ∃ t, exec i s = .next t ∧ answersOnly h [.err .field] [] [] [] s t)

/-- A request answered with a refusal has changed nothing (R5, R175), whatever the request and whatever the
refusal. -/
def Obligations.RefusalsChangeNothing : Prop :=
  ∀ (i : Instr) (h : ReqHead) (s t : State) (e : ErrCode), requestHead i = some h → s.takesRequest = true →
    exec i s = .next t → replied h [.err e] t → answersOnly h [.err e] [] [] [] s t

/-! ## Requests that read -/

/-- CLOCK GET (R1), PRICE GET (R16) and IDENTITY (R154) answer what is held and change nothing. -/
def Obligations.ClockPriceAndIdentityReads : Prop :=
  ∀ (h : ReqHead) (s : State), accepts h s →
    (∃ t, exec (.clockGet h) s = .next t ∧ answersOnly h
      [.clockGet s.clock.minute s.clock.second (s.clock.minute % 1440) (s.clock.minute / 1440) s.clock.valid]
      [] [] [] s t) ∧
    (∀ i, 1 ≤ i → i ≤ 127 →
      ∃ t, exec (.priceGet h (.given i)) s = .next t ∧ answersOnly h [.price i (s.price i)] [] [] [] s t) ∧
    (∃ t, exec (.identity h) s = .next t ∧ answersOnly h
      [.identity (s.store.identity.map fun i => (i.site, i.name))] [] [] [] s t)

/-- ROOM GET (R6, R9), TAB GET (R130) and NODE GET (R13) answer what is held of a defined room and a present
node, refuse what is not there with E_NOT_FOUND, and change nothing. -/
def Obligations.RoomTabAndNodeReads : Prop :=
  ∀ (h : ReqHead) (s : State), accepts h s →
    (∀ i r, i ≤ 511 → s.rooms.get i = some r →
      (∃ t, exec (.roomGet h (.given i)) s = .next t ∧ answersOnly h
        [.roomGet i r (s.pendingTotal i) ((s.boundNode .roomDoor i).map fun e => nodeName e.1)
          ((s.boundNode .minibar i).map fun e => nodeName e.1) (s.occupied i)
          ((s.boundNode .minibar i).map fun e => e.2.bar.state)] [] [] [] s t) ∧
      ∃ t, exec (.tabGet h (.given i)) s = .next t ∧ answersOnly h
        (.tab r.entry.tab r.entry.limit r.entry.discount (s.pendingTotal i)
          ((s.boundNode .minibar i).map fun e => (nodeName e.1, e.2.bar.state)) r.hold
          (((s.boundNode .minibar i).map fun e => e.2.bar.lines).getD []).length ::
          (((s.boundNode .minibar i).map fun e => e.2.bar.lines).getD []).map fun e => .tabLine e.1 e.2)
        [] [] [] s t) ∧
    (∀ i, i ≤ 511 → s.rooms.get i = none →
      (∃ t, exec (.roomGet h (.given i)) s = .next t ∧ answersOnly h [.err .notFound] [] [] [] s t) ∧
      ∃ t, exec (.tabGet h (.given i)) s = .next t ∧ answersOnly h [.err .notFound] [] [] [] s t) ∧
    (∀ l a n, 1 ≤ a → a ≤ 120 → s.node l a = some n →
      ∃ t, exec (.nodeGet h (.given (lineNum l)) (.given a)) s = .next t ∧ answersOnly h
        [.nodeGet (l, a) n.entry n.link.state n.link.miss n.link.garble n.link.status n.door.condition
          (if n.entry.kind = .minibar then none else some ⟨n.door.cause, n.door.release⟩)
          (if n.entry.kind = .minibar then some n.bar.state else none)
          (if n.entry.kind = .minibar then allSlots.map n.slotShown else [])] [] [] [] s t) ∧
    ∀ l a, 1 ≤ a → a ≤ 120 → s.node l a = none →
      ∃ t, exec (.nodeGet h (.given (lineNum l)) (.given a)) s = .next t ∧
        answersOnly h [.err .notFound] [] [] [] s t

/-- CRED GET by number and by room (R43) and CARD READ carrying `last=` (R63) answer what is held and change
nothing. A number that is on the revocation list alone is answered with every field of its entry (R37). -/
def Obligations.CredentialReads : Prop :=
  ∀ (h : ReqHead) (s : State), accepts h s →
    (∀ n, 1 ≤ n → n ≤ max32 →
      ∃ t, exec (.credGet h (.given n) .absent) s = .next t ∧ answersOnly h
        [match s.findCred n, s.listEntry n with
          | some e, _ => .cred e.1 e.2 (s.expiry e.2) (s.listShown e.2.number)
          | none, some (place, seq, x) =>
            .credListed x.number x.reason x.revokedAt ⟨place, seq, x.expiry, x.reach, x.carried⟩
          | none, none => .err .notFound] [] [] [] s t) ∧
    (∀ i r, i ≤ 511 → s.rooms.get i = some r →
      ∃ t, exec (.credGet h .absent (.given i)) s = .next t ∧ answersOnly h
        (.credCount (s.cred.slots.filter fun e => decide (e.2.kind = .guest ∧ e.2.room = i)).length ::
          (s.cred.slots.filter fun e => decide (e.2.kind = .guest ∧ e.2.room = i)).map fun e =>
            .cred e.1 e.2 (s.expiry e.2) (s.listShown e.2.number)) [] [] [] s t) ∧
    ∃ t, exec (.cardReadLast h (.given true)) s = .next t ∧ answersOnly h
      [match s.enc.lastRead with
        | some r => .lastRead r
        | none => .err .notFound] [] [] [] s t

/-- STATUS, answered while DRAINING too (R175, R181), and LINE GET (R86) answer what is held and change
nothing. -/
def Obligations.StatusAndLineReads : Prop :=
  ∀ (h : ReqHead) (s : State), s.takesRequest = true → h.badField = false →
    (∃ t, exec (.status h) s = .next t ∧ answersOnly h
      [.status s.power.state s.clock.valid s.clock.minute s.clock.second s.store.identity.isSome,
        s.link.statusLine, s.enc.statusLine,
        .statusLine .l1 (s.line .l1).running (s.line .l1).queue.length (s.line .l1).decisions (s.line .l1).cond,
        .statusLine .l2 (s.line .l2).running (s.line .l2).queue.length (s.line .l2).decisions (s.line .l2).cond,
        .statusLine .l3 (s.line .l3).running (s.line .l3).queue.length (s.line .l3).decisions (s.line .l3).cond,
        .statusLine .l4 (s.line .l4).running (s.line .l4).queue.length (s.line .l4).decisions (s.line .l4).cond,
        s.journal.statusLine, s.statusStoreLine] [] [] [] s t) ∧
    (s.draining = false → ∀ i,
      ∃ t, exec (.lineGet h (.given (lineNum i))) s = .next t ∧ answersOnly h
        [.lineGet (s.line i).running (s.settings.period.get i) (s.settings.timeout.get i) (s.line i).phase
          (s.line i).count (s.line i).queue.length (s.line i).decisions
          ((s.line i).exch.map fun x => (x.kind, x.addr, x.leg))
          (allLinkStates.map fun st =>
            (st, ((s.nodesOn i).filter fun e => decide (e.2.link.state = st)).length))
          (s.line i).cond (s.line i).report] [] [] [] s t)

/-- JREAD answers at most 16 of the records from the sequence asked on, or from the oldest retained, first those of
the journal region up to the newest programmed, then the staged; it is answered while DRAINING too, and changes
nothing (R148). JRELEASE raises the collected mark to the sequence named or to the newest programmed, whichever is
smaller, and queues the journal-state entry; a mark not above the one held changes nothing (R149), and in FULL a spare
thereby reclaimable leaves the writer waiting for it (R144). The oldest retained sequence is the next sequence while no
sector holds records (R143); that staged records then lie below it is the model's reading (notes/assumptions/31). That a
reply with no record gives no first sequence is the model's choice (notes/assumptions/66). -/
def Obligations.JournalRequests : Prop :=
  (∀ (h : ReqHead) (s : State) (q n : Nat), s.takesRequest = true → h.badField = false → 1 ≤ q → q ≤ max32 → 1 ≤ n →
    ∃ (l : List (JRec × Bool)) (oldest : Nat), oldest = s.journal.oldest.getD s.journal.nextSeq ∧
      l = (s.readable (max q oldest)).take (min 16 n) ∧ l.length ≤ 16 ∧ l.length ≤ n ∧
      (∀ e ∈ l, q ≤ e.1.seq ∧ oldest ≤ e.1.seq ∧ (e.2 = true ↔ e.1.seq ≤ s.journal.newest)) ∧
      ∃ t, exec (.jread h (.given q) (.given n)) s = .next t ∧ answersOnly h
        (.jread (l.head?.map fun e => e.1.seq) l.length (decide (q < oldest)) (s.journal.nextSeq - 1)
          s.journal.newest s.journal.mark :: l.map fun e => .record e.1 e.2) [] [] [] s t) ∧
  (∀ (h : ReqHead) (s : State) (q : Nat), accepts h s → q ≤ max32 →
    min q s.journal.newest ≤ s.journal.mark →
    ∃ t, exec (.jrelease h (.given q)) s = .next t ∧
      answersOnly h [.jrelease s.journal.mark s.journal.uncollected] [] [] [] s t) ∧
  ∀ (h : ReqHead) (s : State) (q : Nat), accepts h s → q ≤ max32 → s.journal.mark < min q s.journal.newest →
    s.store.canQueue [.journalState] 0 = true →
    ∃ t, exec (.jrelease h (.given q)) s = .next t ∧
      t.journal = { s.journal with
        mark := min q s.journal.newest
        writer := if s.journal.writer = .full ∧ reclaimable (min q s.journal.newest) s.spareSec = true
          then .waitingSpare else s.journal.writer } ∧
      placed [.journalState] t ∧
      answersOnly h [.jrelease (min q s.journal.newest) (s.journal.newest - min q s.journal.newest)]
        [.journalState] [.journal] [] s t

/-! ## Requests that change the clock and the tables -/

/-- CLOCK SET (R3): the clock takes the values and is VALID, the CLOCK_STEP record is offered and the occurrence
posted, the expiry pass and the retirement of expired list entries run against the new minute (R36, R41), and
where the clock was INVALID every enabled node of a RUNNING line is owed its mode order (R73). That the largest minute
keeps a second below 59 is the model's choice (notes/assumptions/53). -/
def Obligations.ClockSetTakesEffect : Prop :=
  ∀ (h : ReqHead) (s : State) (m sec : Nat), accepts h s → m ≤ maxMinute → sec ≤ 59 →
    ∃ t, exec (.clockSet h (.given m) (.given sec)) s = .next t ∧
      t.clock = { s.clock with minute := m, second := sec, valid := .valid } ∧
      journaled [⟨.clockStep, none, none, none, .num s.clock.minute, .num m, .none⟩] s t ∧
      posted .clock (.clock s.clock.minute m) s t ∧
      (∀ k, t.cred.slots.get k = (s.cred.slots.get k).map fun r =>
        if r.state = .active ∧ endBy m (s.expiry r) = true then { r with state := .lapsed } else r) ∧
      (∀ i, t.cred.list.get i = (s.cred.list.get i).map fun p =>
        if i ∈ s.cred.expiredPlaces m then { p with entry := none } else p) ∧
      t.cred.serial = s.cred.serial ∧ t.cred.revCount = s.cred.revCount ∧
      (∀ l a, a ≤ 120 → t.node l a = (s.node l a).map fun n =>
        if s.clock.valid = .invalid ∧ n.entry.enabled = true ∧ (s.line l).running = true
        then { n with link := { n.link with modeOwed := true, modeSent := false } } else n) ∧
      (s.store.canQueue ((s.cred.expiredPlaces m).map .listPlace) 0 = true →
        placed ((s.cred.expiredPlaces m).map .listPlace) t) ∧
      answersOnly h [.clockSet m sec .valid] ((s.cred.expiredPlaces m).map .listPlace)
        [.clock, .nodes, .cred, .journal] [.journal, .clock] s t

/-- SETUP (R17): each setting carried takes its value, clamped where the table says so; in FULL, a policy changed
to OVERWRITE takes the OVERWRITE path at once: the collected mark goes past the spare, an OVERRUN record of the
sequences given up is offered, the occurrence is posted and the journal-state entry queued (R145, R146).
LINE SET (R86): the line's poll period is clamped
and its reply timeout rounded up. -/
def Obligations.SettingsAreSet : Prop :=
  (∀ (h : ReqHead) (s : State) (fresh unlatch latch grace late wait : Arg Nat) (policy : Arg Policy),
    accepts h s → fresh ≠ .malformed → unlatch ≠ .malformed → latch ≠ .malformed → grace ≠ .malformed →
    late ≠ .malformed → wait ≠ .malformed → policy ≠ .malformed → s.store.readOnly = false →
    s.store.canQueue [.settings] 0 = true →
    ∃ t, exec (.setup h fresh unlatch latch grace late wait policy) s = .next t ∧
      t.settings = ⟨s.settings.period, s.settings.timeout, argClamp fresh 2 30 s.settings.fresh,
        argClamp unlatch 3 15 s.settings.unlatch, argClamp latch 5 60 s.settings.latch,
        argClamp grace 0 600 s.settings.grace, argClamp late 0 240 s.settings.checkout,
        argClamp wait 0 60 s.settings.wait, argOr policy s.settings.policy⟩ ∧
      placed [.settings] t ∧
      if t.settings.policy = .overwrite ∧ s.journal.writer = .full then
        t.journal.mark = newestIn s.spareSec ∧ t.journal.writer = .overrun ∧
        t.journal = (offerOverrun (s.journal.mark + 1, newestIn s.spareSec) { s with journal := { s.journal with
          mark := newestIn s.spareSec, writer := .overrun } }).journal ∧
        (s.journal.nextSeq ≠ max32 →
          posted .journal (.overrun (s.journal.mark + 1) (newestIn s.spareSec)) s t) ∧
        (s.store.canQueue [.settings, .journalState] 0 = true → placed [.journalState] t) ∧
        answersOnly h [.settings t.settings] [.settings, .journalState] [.settings, .journal] [.journal] s t
      else answersOnly h [.settings t.settings] [.settings] [.settings] [] s t) ∧
  ∀ (h : ReqHead) (s : State) (l : LineId) (period timeout : Arg Nat), accepts h s → period ≠ .malformed →
    timeout ≠ .malformed → (period ≠ .absent ∨ timeout ≠ .absent) → s.store.readOnly = false →
    s.store.canQueue [.settings] 0 = true →
    ∃ t, exec (.lineSet h (.given (lineNum l)) period timeout) s = .next t ∧
      t.settings.period.get l = argClamp period 50 2000 (s.settings.period.get l) ∧
      (∀ n, timeout = .given n → t.settings.timeout.get l =
        if n ≤ 2 then 2 else if n ≤ 5 then 5 else if n ≤ 10 then 10 else 20) ∧
      (timeout = .absent → t.settings.timeout.get l = s.settings.timeout.get l) ∧
      (∀ i, i ≠ l → t.settings.period.get i = s.settings.period.get i ∧
        t.settings.timeout.get i = s.settings.timeout.get i) ∧
      { t.settings with period := s.settings.period, timeout := s.settings.timeout } = s.settings ∧
      placed [.settings] t ∧
      answersOnly h [.lineSet (t.settings.period.get l) (t.settings.timeout.get l)] [.settings] [.settings] [] s t

/-- ROOM SET (R6): a room's label, access set, tab limit and discount take the values carried, clamped where R6
says so, and keep the values held where none is carried; a room first defined starts with issue number 0, no
lockout and an empty tab; privacy and the hold mark stay. -/
def Obligations.RoomSetTakesEffect : Prop :=
  ∀ (h : ReqHead) (s : State) (i : Nat) (label : Arg Nat) (access : Arg (List Nat)) (limit discount : Arg Nat)
      (old : RoomEntry), accepts h s → i ≤ 511 → badOpt label 1 9999 = false → badSet access = false →
    limit ≠ .malformed → discount ≠ .malformed →
    ((∃ r, s.rooms.get i = some r ∧ old = r.entry) ∨
      (s.rooms.get i = none ∧ label ≠ .absent ∧ old = ⟨0, 0, 0, false, 0, 0, 0⟩)) →
    (∀ e ∈ s.rooms, e.1 ≠ i → label ≠ .given e.2.entry.label) →
    s.store.readOnly = false → s.store.canQueue [.room i] 0 = true →
    ∃ t e, exec (.roomSet h (.given i) label access limit discount) s = .next t ∧
      e = { old with
        label := argOr label old.label
        access := match argGet access with
          | some l => groupsOf l
          | none => old.access
        limit := argClamp limit 0 9999999 old.limit
        discount := argClamp discount 0 5000 old.discount } ∧
      t.rooms.get i = some ⟨e, ((s.rooms.get i).map Room.privacy).getD false,
        ((s.rooms.get i).map Room.hold).getD false⟩ ∧
      (∀ j, j ≠ i → t.rooms.get j = s.rooms.get j) ∧ placed [.room i] t ∧
      answersOnly h [.room i e] [.room i] [.rooms] [] s t

/-- ROOM RESET-ISSUE (R7) returns the issue number of a room with no ACTIVE or PENDING GUEST credential to 0.
ROOM LOCKOUT (R107) sets the lockout, with a LOCKOUT record where it changes. -/
def Obligations.IssueNumberAndLockoutOfARoom : Prop :=
  (∀ (h : ReqHead) (s : State) (i : Nat) (r : Room), accepts h s → i ≤ 511 → s.rooms.get i = some r →
    (∀ e ∈ s.cred.slots, e.2.kind = .guest → e.2.room = i → e.2.state ≠ .active ∧ e.2.state ≠ .pending) →
    s.store.readOnly = false → s.store.canQueue [.room i] 0 = true →
    ∃ t, exec (.roomResetIssue h (.given i)) s = .next t ∧
      t.rooms.get i = some { r with entry := { r.entry with issue := 0 } } ∧
      (∀ j, j ≠ i → t.rooms.get j = s.rooms.get j) ∧ placed [.room i] t ∧
      answersOnly h [.room i { r.entry with issue := 0 }] [.room i] [.rooms] [] s t) ∧
  ∀ (h : ReqHead) (s : State) (i : Nat) (v : Bool) (r : Room), accepts h s → i ≤ 511 → s.rooms.get i = some r →
    s.store.readOnly = false → s.store.canQueue [.room i] 0 = true →
    ∃ t, exec (.roomLockout h (.given i) (.given v)) s = .next t ∧
      t.rooms.get i = some { r with entry := { r.entry with lockout := v } } ∧
      (∀ j, j ≠ i → t.rooms.get j = s.rooms.get j) ∧
      journaled (if v = r.entry.lockout then [] else
        [⟨.lockout, (s.boundNode .roomDoor i).map fun e => nodeName e.1, none, some i, .yesNo v,
          .num r.entry.issue, .none⟩]) s t ∧
      placed [.room i] t ∧ answersOnly h [.lockout v] [.room i] [.rooms, .journal] [.journal] s t

/-- PRICE SET (R16): an item code's price and tax rate take the values carried, the tax rate clamped to 3,000, and
keep the value held where one is not carried. GROUP SET (R15): the offline flag takes the value carried, set only
where no node is in the group; a flag that changes leaves the release state NORMAL. -/
def Obligations.PricesAndGroupsAreSet : Prop :=
  (∀ (h : ReqHead) (s : State) (i : Nat) (price tax : Arg Nat), accepts h s → 1 ≤ i → i ≤ 127 →
    badOpt price 0 65535 = false → tax ≠ .malformed → (price ≠ .absent ∨ tax ≠ .absent) →
    s.store.readOnly = false → s.store.canQueue [.price i] 0 = true →
    ∃ t, exec (.priceSet h (.given i) price tax) s = .next t ∧
      t.price i = ⟨argOr price (s.price i).price, argClamp tax 0 3000 (s.price i).tax⟩ ∧
      (∀ j, j ≠ i → t.price j = s.price j) ∧ placed [.price i] t ∧
      answersOnly h [.price i (t.price i)] [.price i] [.prices] [] s t) ∧
  ∀ (h : ReqHead) (s : State) (g : Nat) (v : Bool), accepts h s → g ≤ 15 → s.store.readOnly = false →
    (∀ e ∈ s.nodes, v = true → e.2.entry.group ≠ g) → s.store.canQueue [.group g] 0 = true →
    ∃ t, exec (.groupSet h (.given g) (.given v)) s = .next t ∧
      t.group g = (if v = (s.group g).offline then s.group g else ⟨v, .normal⟩) ∧
      (∀ j, j ≠ g → t.group j = s.group j) ∧ placed [.group g] t ∧
      answersOnly h [.group g (t.group g)] [.group g] [.groups] [] s t

/-- NODE SET (R10, R11) creates a node at an address that has none: link state UNKNOWN, or DISABLED where it is
not enabled, its slots not stocked, its door record and minibar record as they start, a minibar HELD where its
room's hold mark is set; its first visit is in the next cycle, whatever the one in progress lists (R11, R67). That a
node created on a DISABLED line is UNKNOWN follows R11 to the letter
(notes/assumptions/24). -/
def Obligations.NodeSetCreates : Prop :=
  ∀ (h : ReqHead) (s : State) (l : LineId) (a p g : Nat) (k : NodeKind) (room : Arg Nat) (enabled : Arg Bool)
      (e : NodeEntry), accepts h s → 1 ≤ a → a ≤ 120 → 1 ≤ p → p ≤ 120 → g ≤ 15 → enabled ≠ .malformed →
    (if k = .commonDoor then room = .absent else ∃ i r, room = .given i ∧ i ≤ 511 ∧ s.rooms.get i = some r) →
    s.node l a = none →
    e = ⟨k, p, argGet room, g, argOr enabled true, if k = .minibar then List.replicate 12 0 else [], 0⟩ →
    s.nodeFits l a e → s.store.readOnly = false → s.store.canQueue [.node l a] 0 = true →
    ∃ t, exec (.nodeSet h (.given (lineNum l)) (.given a) (.given k) (.given p) room (.given g) enabled) s = .next t ∧
      t.node l a = some ⟨e,
        ⟨if e.enabled = true then .unknown else .disabled, 0, 0, false, false, false, false, none⟩, .start,
        if k = .minibar ∧ ((s.rooms.get (argNat room)).map Room.hold).getD false = true
        then { BarRec.start with state := .held } else .start⟩ ∧
      (∀ key, key ≠ nodeKey l a → t.nodes.get key = s.nodes.get key) ∧
      (∀ i, t.line i = if i = l then { s.line l with cycle := (s.line l).cycle.map fun c =>
        { c with rest := c.rest.filter fun b => decide (b ≠ a) } } else s.line i) ∧ placed [.node l a] t ∧
      answersOnly h [.node (l, a) e] [.node l a] [.nodes, .lines] [] s t

/-- NODE SET (R10, R11, R73) changes a present node: the fields carried are taken, the others kept; the link goes
UNKNOWN with miss count 0 as the node becomes enabled, DISABLED as it ceases to be; a changed group leaves its
group order owed; a changed kind starts its door and minibar records and clears its item codes and baseline; a
minibar moved to another room stands as that room's hold mark says; a room that loses its door node loses its
privacy (R9); a node that becomes enabled is first visited in the next cycle (R67). -/
def Obligations.NodeSetChanges : Prop :=
  ∀ (h : ReqHead) (s : State) (l : LineId) (a : Nat) (kind : Arg NodeKind) (pos room group : Arg Nat)
      (enabled : Arg Bool) (n : Node) (e : NodeEntry), accepts h s → 1 ≤ a → a ≤ 120 → kind ≠ .malformed →
    enabled ≠ .malformed → badOpt pos 1 120 = false → badOpt group 0 15 = false → badOpt room 0 511 = false →
    s.node l a = some n →
    (if argOr kind n.entry.kind = .commonDoor then room = .absent
      else (n.entry.kind = .commonDoor → room ≠ .absent) ∧ ∀ i, room = .given i → (s.rooms.get i).isSome = true) →
    e = ⟨argOr kind n.entry.kind, argOr pos n.entry.pos,
      if argOr kind n.entry.kind = .commonDoor then none else
        match argGet room with
        | some i => some i
        | none => n.entry.room,
      argOr group n.entry.group, argOr enabled n.entry.enabled,
      if argOr kind n.entry.kind = n.entry.kind then n.entry.codes
        else if argOr kind n.entry.kind = .minibar then List.replicate 12 0 else [],
      if argOr kind n.entry.kind = n.entry.kind then n.entry.baseline else 0⟩ →
    s.nodeFits l a e →
    (n.entry.kind = .minibar →
      n.bar.state = .locked ∨ n.bar.state = .held ∨ (e.kind = .minibar ∧ e.room = n.entry.room)) →
    s.store.readOnly = false → s.store.canQueue [.node l a] 0 = true →
    ∃ t m, exec (.nodeSet h (.given (lineNum l)) (.given a) kind pos room group enabled) s = .next t ∧
      t.node l a = some m ∧ m.entry = e ∧
      m.link = { n.link with
        state := if e.enabled = n.entry.enabled then n.link.state
          else if e.enabled = true then .unknown else .disabled
        miss := if e.enabled = true ∧ n.entry.enabled = false then 0 else n.link.miss
        groupOwed := n.link.groupOwed || decide (e.group ≠ n.entry.group)
        groupSent := n.link.groupSent && decide (e.group = n.entry.group) } ∧
      m.door = (if e.kind = n.entry.kind then n.door else .start) ∧
      (e.kind = n.entry.kind → (e.kind ≠ .minibar ∨ e.room = n.entry.room) → m.bar = n.bar) ∧
      (e.kind ≠ n.entry.kind → m.bar =
        if e.kind = .minibar then { BarRec.start with state := s.restState e.room } else .start) ∧
      (e.kind = .minibar → n.entry.kind = .minibar → e.room ≠ n.entry.room → m.bar =
        { n.bar with state := s.restState e.room }) ∧
      (∀ key, key ≠ nodeKey l a → t.nodes.get key = s.nodes.get key) ∧
      (∀ i, t.rooms.get i = (s.rooms.get i).map fun r =>
        if n.entry.kind = .roomDoor ∧ (e.kind ≠ .roomDoor ∨ e.room ≠ n.entry.room) ∧ i = n.entry.room.getD 0
        then { r with privacy := false } else r) ∧
      (∀ i, t.line i = if i = l ∧ e.enabled = true ∧ n.entry.enabled = false
        then { s.line l with cycle := (s.line l).cycle.map fun c =>
          { c with rest := c.rest.filter fun b => decide (b ≠ a) } } else s.line i) ∧
      placed [.node l a] t ∧ answersOnly h [.node (l, a) e] [.node l a] [.rooms, .nodes, .lines] [] s t

/-- NODE REMOVE (R13): the entry is absent, the orders queued for the node leave the queue, the decision orders
among them journaled ORDER_LOST with the cause REMOVED, a visit to it is over, and its room loses its privacy
with its door (R9). That an exchange outstanding with the node runs to its end for nothing is the model's choice
(notes/assumptions/29). STOCK (R14): each slot named takes its item code, and a slot whose code is 0 leaves the
baseline. -/
def Obligations.NodesAreRemovedAndStocked : Prop :=
  (∀ (h : ReqHead) (s : State) (l : LineId) (a : Nat) (n : Node), accepts h s → 1 ≤ a → a ≤ 120 →
    s.node l a = some n → (n.entry.kind = .minibar → n.bar.state = .locked ∨ n.bar.state = .held) →
    s.store.readOnly = false → s.store.canQueue [.node l a] 0 = true →
    ∃ t, exec (.nodeRemove h (.given (lineNum l)) (.given a)) s = .next t ∧
      t.node l a = none ∧ (∀ key, key ≠ nodeKey l a → t.nodes.get key = s.nodes.get key) ∧
      (t.line l).queue = (s.line l).queue.filter (fun o => decide (o.target ≠ some a)) ∧
      (t.line l).exch = ((s.line l).exch.map fun x =>
        if x.kind.awaitsReply = true ∧ x.addr = a then { x with kind := .removed } else x) ∧
      (t.line l).cycle = ((s.line l).cycle.map fun c =>
        { c with visit := c.visit.map fun v => if v.addr = a then { v with done := true } else v }) ∧
      { t.line l with queue := (s.line l).queue, exch := (s.line l).exch, cycle := (s.line l).cycle } = s.line l ∧
      (∀ i, i ≠ l → t.line i = s.line i) ∧
      journaled (((s.line l).queue.filter fun o => decide (o.target = some a ∧ o.cls = .decision)).map fun o =>
        ⟨.orderLost, some (l, a), none, none, .lostCause .removed, .order o.kind, .none⟩) s t ∧
      (∀ i, t.rooms.get i = (s.rooms.get i).map fun r =>
        if n.entry.kind = .roomDoor ∧ i = n.entry.room.getD 0 then { r with privacy := false } else r) ∧
      placed [.node l a] t ∧
      answersOnly h [.ok] [.node l a] [.rooms, .nodes, .lines, .journal] [.journal] s t) ∧
  ∀ (h : ReqHead) (s : State) (l : LineId) (a : Nat) (codes : List (Arg Nat)) (n : Node), accepts h s → 1 ≤ a →
    a ≤ 120 → codes.length = 12 → (∀ c ∈ codes, badOpt c 0 127 = false) → (∃ c ∈ codes, c ≠ .absent) →
    s.node l a = some n → n.entry.kind = .minibar → n.entry.codes.length = 12 →
    (n.bar.state = .locked ∨ n.bar.state = .held) → s.store.readOnly = false →
    s.store.canQueue [.node l a] 0 = true →
    ∃ t e, exec (.stock h (.given (lineNum l)) (.given a) codes) s = .next t ∧
      t.node l a = some { n with entry := e } ∧
      { e with codes := n.entry.codes, baseline := n.entry.baseline } = n.entry ∧
      e.codes.length = 12 ∧ (∀ k, k < 12 → e.codes.getD k 0 = argOr (codes.getD k .absent) (n.entry.codes.getD k 0)) ∧
      (∀ k, 1 ≤ k → k ≤ 12 → e.baseline.has k = (n.entry.baseline.has k && decide (e.codes.getD (k - 1) 0 ≠ 0))) ∧
      (∀ key, key ≠ nodeKey l a → t.nodes.get key = s.nodes.get key) ∧ placed [.node l a] t ∧
      answersOnly h [.codes e.codes] [.node l a] [.nodes] [] s t

/-- GROUP RELEASE, GROUP SECURE and GROUP NORMAL (R104, R105): the group takes the release state asked, its order
is placed as a broadcast in the queue of each RUNNING line that has room for it, and is owed by every enabled
node of the group on a RUNNING line that has none; a state that changes is journaled. A line that was at rest
sends the broadcast at once (R68). That a line whose queue has no room counts as owed in the reply though no node of
the group is on it is the model's choice (notes/assumptions/54). -/
def Obligations.GroupStatesAreSet : Prop :=
  ∀ (h : ReqHead) (s : State) (g : Nat) (asked : ReleaseState) (c : Instr) (o : Order),
    ((asked = .released ∧ c = .groupRelease h (.given g)) ∨ (asked = .secured ∧ c = .groupSecure h (.given g)) ∨
      (asked = .normal ∧ c = .groupNormal h (.given g))) →
    o = ⟨if asked = .released then .release else .restore, .other, none, g⟩ →
    accepts h s → g ≤ 15 → (s.group g).offline = false → s.store.readOnly = false →
    s.store.canQueue [.group g] 0 = true → s.linesSettled →
    ∃ t, exec c s = .next t ∧ t.group g = ⟨false, asked⟩ ∧ (∀ j, j ≠ g → t.group j = s.group j) ∧
      (∀ i, (s.line i).running = true → (s.line i).queue.length < 12 →
        (t.line i).queue = (s.line i).queue ++ [o] ∧
        (t.line i).exch = (if (s.line i).exch.isSome = true then (s.line i).exch else
          some ⟨.broadcast o, .a, 0, false, true, s.settings.timeout.get i, broadcastFrame o.kind g, false⟩)) ∧
      (∀ i, ¬((s.line i).running = true ∧ (s.line i).queue.length < 12) → t.line i = s.line i) ∧
      (∀ i, { t.line i with queue := (s.line i).queue, exch := (s.line i).exch } = s.line i) ∧
      (∀ i a, a ≤ 120 → t.node i a = (s.node i a).map fun n =>
        if (s.line i).running = true ∧ 12 ≤ (s.line i).queue.length ∧ n.entry.enabled = true ∧ n.entry.group = g
        then { n with link := { n.link with groupOwed := true, groupSent := false } } else n) ∧
      journaled (if (s.group g).release = asked then [] else
        [⟨.groupState, none, none, none, .release asked, .release (s.group g).release, .group g⟩]) s t ∧
      placed [.group g] t ∧
      answersOnly h [.groupState asked
          (allLines.filter fun i => (s.line i).running && decide ((s.line i).queue.length < 12)).length
          (allLines.filter fun i => (s.line i).running && decide (12 ≤ (s.line i).queue.length)).length
          (allLines.filter fun i => !(s.line i).running).length]
        [.group g] [.nodes, .groups, .lines, .journal] [.journal] s t

/-! ## Requests of credentials and of the encoder -/

/-- ISSUE (R24 to R29), in each mode: the record made, the number and the slot it takes, and the job begun. A
NEW_STAY takes the room's next issue number, an EXTRA_KEY the room's present one and an end no later than the
latest of the room's ACTIVE GUEST credentials; STAFF and RESTOCK carry a group mask and a daily window; MASTER
neither. The slot is the lowest-numbered FREE one, and with none FREE that of the reusable record of earliest expiry,
the lowest-numbered of equals (R25); the serial is queued ahead of the intent record (R23). -/
def Obligations.IssueIsAccepted : Prop :=
  ∀ (h : ReqHead) (s : State) (slot frm : Nat) (from' : Arg Nat), accepts h s → s.readyToIssue slot →
    frm ≤ maxMinute → (from' = .given frm ∨ (from' = .absent ∧ frm = s.clock.minute)) →
    (∀ (i u : Nat) (x : Room) (bar : Arg Bool), i ≤ 511 → s.rooms.get i = some x → x.entry.issue < 65535 →
      u ≤ maxMinute → frm < u → s.clock.minute < u → bar ≠ .malformed →
      ∃ t, exec (.issue h (.given .newStay) (.given i) from' (.given (some u)) .absent .absent bar) s = .next t ∧
        issuedAs h .newStay slot ⟨s.cred.serial + 1, .guest, .pending, i, x.entry.issue + 1, frm, some u, 0, 0, 0,
          argOr bar false, none, 0⟩ (some (x.entry.issue + 1)) s t) ∧
    (∀ (i u : Nat) (x : Room) (bar : Arg Bool), i ≤ 511 → s.rooms.get i = some x →
      u ≤ maxMinute → frm < u → s.clock.minute < u → bar ≠ .malformed →
      (∃ e ∈ s.activeGuests i, e.2.issue = x.entry.issue) → (s.activeGuests i).length < 8 →
      endBy frm (s.extraUntil i (some u)) = false →
      ∃ t, exec (.issue h (.given .extraKey) (.given i) from' (.given (some u)) .absent .absent bar) s = .next t ∧
        issuedAs h .extraKey slot ⟨s.cred.serial + 1, .guest, .pending, i, x.entry.issue, frm,
          s.extraUntil i (some u), 0, 0, 0, argOr bar false, none, 0⟩ (some x.entry.issue) s t) ∧
    (∀ (m : IssueMode) (k : CredKind) (until' : Arg EndMinute) (groups : Arg (List Nat)) (window : Arg (Nat × Nat)),
      ((m = .staff ∧ k = .staff) ∨ (m = .restock ∧ k = .restock)) →
      (until' = .absent ∨ until' = .given none ∨
        ∃ u, until' = .given (some u) ∧ u ≤ maxMinute ∧ frm < u ∧ s.clock.minute < u) →
      badSet groups = false → badWindow window = false →
      ∃ t, exec (.issue h (.given m) .absent from' until' groups window .absent) s = .next t ∧
        issuedAs h m slot ⟨s.cred.serial + 1, k, .pending, 0, 0, frm, argOr until' none, groupsOf (argOr groups []),
          (argOr window (0, 0)).1, (argOr window (0, 0)).2, false, none, 0⟩ none s t) ∧
    (∀ until' : Arg EndMinute, (until' = .absent ∨ until' = .given none ∨
        ∃ u, until' = .given (some u) ∧ u ≤ maxMinute ∧ frm < u ∧ s.clock.minute < u) →
      ∃ t, exec (.issue h (.given .master) .absent from' until' .absent .absent .absent) s = .next t ∧
        issuedAs h .master slot ⟨s.cred.serial + 1, .master, .pending, 0, 0, frm, argOr until' none, 0, 0, 0, false,
          none, 0⟩ none s t) ∧
    (s.cred.slots.wf → (∃ j, j < 2048 ∧ s.cred.slots.get j = none) →
      slot < 2048 ∧ s.cred.slots.get slot = none ∧ ∀ j, j < slot → (s.cred.slots.get j).isSome = true) ∧
    (s.cred.slots.wf → (∀ j, j < 2048 → (s.cred.slots.get j).isSome = true) → ∃ r, s.cred.slots.get slot = some r ∧
      (r.state = .lapsed ∨ r.state = .superseded ∨ r.state = .revoked) ∧
      ∀ k q, s.cred.slots.get k = some q → (q.state = .lapsed ∨ q.state = .superseded ∨ q.state = .revoked) →
        endEarlier (s.expiry q) (s.expiry r) = false ∧ (s.expiry q = s.expiry r → slot ≤ k))

/-- CANCEL, with no number or with that of the ISSUE job, and ENCODER RESET (R58, R59, R60, R63): an ISSUE job that has
not written ends released and its slot is FREE, or, with no place for its entry, holds that outcome, answered `ended` all
the same (notes/assumptions/42); one that is writing or verifying is marked; a READ job that waits ends CANCELLED, and
one that reads is marked; a job in VOIDING, one already marked and one that has reported its outcome stay as they are.
ENCODER RESET clears the last read result besides, and without a job is answered all the same. CANCEL is refused E_FIELD
for a number out of range, and E_STATE with the job IDLE, for a number that is not the job's, and for any number while
the job is a READ job. -/
def Obligations.JobsAreCancelled : Prop :=
  (∀ (h : ReqHead) (s : State), accepts h s →
    (∀ n, n = 0 ∨ max32 < n →
      ∃ t, exec (.cancel h (.given n)) s = .next t ∧ answersOnly h [.err .field] [] [] [] s t) ∧
    (s.enc.job = none → ∀ number, number = .absent ∨ (∃ n, number = .given n ∧ 1 ≤ n ∧ n ≤ max32) →
      ∃ t, exec (.cancel h number) s = .next t ∧ answersOnly h [.err .state] [] [] [] s t) ∧
    ∀ j n, s.enc.job = some j → 1 ≤ n → n ≤ max32 → (j.kind = .read ∨ n ≠ j.number) →
      ∃ t, exec (.cancel h (.given n)) s = .next t ∧ answersOnly h [.err .state] [] [] [] s t) ∧
  ∀ (h : ReqHead) (s : State) (c : Instr) (reset : Bool), accepts h s →
    ((reset = false ∧ (c = .cancel h .absent ∨ ∃ j, s.enc.job = some j ∧ j.kind = .issue ∧ 1 ≤ j.number ∧
        j.number ≤ max32 ∧ c = .cancel h (.given j.number))) ∨
      (reset = true ∧ c = .encoderReset h)) →
    (∀ j, s.enc.job = some j →
      (j.outcome.isSome = true ∨ j.cancel = true ∨ (j.kind = .issue ∧ j.state = .voiding)) →
      ∃ t, exec c s = .next t ∧
        t.enc = { s.enc with lastRead := if reset = true then none else s.enc.lastRead } ∧
        answersOnly h [.cancelled (some j.state) .none] [] [.enc] [] s t) ∧
    (∀ j r, s.enc.job = some j → j.kind = .issue → j.outcome = none → j.cancel = false →
      (j.state = .preparing ∨ j.state = .waitingCard) → s.cred.slots.get j.slot = some r →
      s.store.canQueue [.cred j.slot] 0 = false →
      ∃ t, exec c s = .next t ∧ t.enc = { s.enc with
          headOp := none, lastRead := if reset = true then none else s.enc.lastRead
          job := some { j with
            outcome := some .released, cause := some .cancelled, cardWait := none, headEnd := none } } ∧
        answersOnly h [.cancelled (some j.state) .ended] [] [.enc] [] s t) ∧
    (∀ j r, s.enc.job = some j → j.kind = .issue → j.outcome = none → j.cancel = false →
      (j.state = .preparing ∨ j.state = .waitingCard) → s.cred.slots.get j.slot = some r →
      s.store.canQueue [.cred j.slot] 0 = true →
      ∃ t, exec c s = .next t ∧ t.enc = { s.enc with
          job := none, headOp := none, lastRead := if reset = true then none else s.enc.lastRead } ∧
        t.cred = { s.cred with slots := s.cred.slots.del j.slot } ∧
        journaled [⟨.issueFailed, none, some r.number, r.roomOf, .cause .cancelled, .freed, .none⟩] s t ∧
        posted .issue (.issueEnd j.number .released (some .cancelled)) s t ∧ placed [.cred j.slot] t ∧
        answersOnly h [.cancelled none .ended] [.cred j.slot] [.cred, .enc, .journal] [.journal, .issue] s t) ∧
    (∀ j, s.enc.job = some j → j.outcome = none → j.cancel = false →
      ((j.kind = .issue ∧ (j.state = .writing ∨ j.state = .verifying)) ∨ (j.kind = .read ∧ j.state = .reading)) →
      ∃ t, exec c s = .next t ∧ t.enc = { s.enc with
          job := some { j with cancel := true }, lastRead := if reset = true then none else s.enc.lastRead } ∧
        answersOnly h [.cancelled (some j.state) .marked] [] [.enc] [] s t) ∧
    (∀ j, s.enc.job = some j → j.kind = .read → j.state = .waitingCard → j.outcome = none → j.cancel = false →
      ∃ t, exec c s = .next t ∧ t.enc = { s.enc with
          job := none, headOp := none, lastRead := if reset = true then none else some .cancelled } ∧
        posted .issue (.readEnd .cancelled) s t ∧
        answersOnly h [.cancelled none .ended] [] [.enc] [.issue] s t) ∧
    (s.enc.job = none → reset = true →
      ∃ t, exec c s = .next t ∧ t.enc = { s.enc with lastRead := none } ∧
        answersOnly h [.cancelled none .none] [] [.enc] [] s t)

/-- REVOKE (R33, R34) by the state of the record. An ACTIVE credential is REVOKED with the reason and the minute, and
offered to the revocation list, whatever the list holds (R37, R39, R40): its entry takes an empty place, displaces
another or is itself left out, with the REVOCATION_DISPLACED record and the ALARM occurrence of the one left out. A
PENDING one reaches the encoder job: a job that has not written ends released, one that writes or verifies is marked,
a held success is marked to be followed by revocation (R30, R59). One already REVOKED is answered with its reason, a
SUPERSEDED or LAPSED one is refused, and nothing changes. That a list place is asked for whether or not an entry is
made is the model's reading (notes/assumptions/16). -/
def Obligations.RevokeTakesEffect : Prop :=
  ∀ (h : ReqHead) (s : State) (n slot : Nat) (r : CredRec) (why : RevReason), accepts h s → 1 ≤ n → n ≤ max32 →
    (why = .lost ∨ why = .security) → s.findCred n = some (slot, r) → s.cred.slots.get slot = some r →
    (r.state = .active → s.store.readOnly = false → ∀ x, lists s r why x →
      s.store.canQueue (.cred slot :: x.keys) (if x.place = none then 1 else 0) = true →
      ∃ t, exec (.revoke h (.given n) (.given why)) s = .next t ∧
        t.cred = { s.cred with
          slots := s.cred.slots.put slot
            { r with state := .revoked, reason := some why, revokedAt := s.clock.minute }
          list := x.list, revCount := x.count } ∧
        journaled (x.records ++ [⟨.revoked, none, some n, r.roomOf, .reason why, .num x.seq, .none⟩]) s t ∧
        x.posts s t ∧ placed (.cred slot :: x.keys) t ∧
        answersOnly h [.revoked .revoked (some why) x.seq (x.place.isSome && x.out.isSome)] (.cred slot :: x.keys)
          [.cred, .journal] [.journal, .alarm] s t) ∧
    (r.state = .pending → s.store.readOnly = false → ∀ j, s.enc.job = some j → j.kind = .issue → j.slot = slot →
      (j.endsByCancel = false → ∃ t, exec (.revoke h (.given n) (.given why)) s = .next t ∧
        t.enc = { s.enc with job := some (j.reached why) } ∧
        answersOnly h [.revoked .pending none 0 false] [] [.enc] [] s t) ∧
      (j.endsByCancel = true → s.store.canQueue [.cred slot] 0 = true →
        ∃ t, exec (.revoke h (.given n) (.given why)) s = .next t ∧
          t.enc = { s.enc with job := none, headOp := none } ∧
          t.cred = { s.cred with slots := s.cred.slots.del slot } ∧
          journaled [failedRecord r (some .cancelled) .freed] s t ∧
          posted .issue (.issueEnd j.number .released (some .cancelled)) s t ∧ placed [.cred slot] t ∧
          answersOnly h [.revoked .pending none 0 false] [.cred slot] [.cred, .enc, .journal] [.journal, .issue]
            s t)) ∧
    (r.state = .revoked → ∃ t, exec (.revoke h (.given n) (.given why)) s = .next t ∧
      answersOnly h [.revoked .revoked r.reason 0 false] [] [] [] s t) ∧
    (r.state = .superseded ∨ r.state = .lapsed → ∃ t, exec (.revoke h (.given n) (.given why)) s = .next t ∧
      answersOnly h [.err .state] [] [] [] s t)

/-- CHECKOUT (R33, R35) of a room: every ACTIVE GUEST credential of the room is REVOKED in slot order with the reason
CHECKOUT and the minute and offered to the revocation list (R37, R39, R40), a PENDING GUEST credential of the room
reaches the encoder job as a REVOKE of it does, no other record changes, and a CHECKOUT record carries the count of
those revoked and the room's issue number. The reply gives the count, how many took a list entry, and whether one was
PENDING. That a list place is asked for with each credential, whether or not an entry is made, is the model's reading
(notes/assumptions/16). -/
def Obligations.CheckoutTakesEffect : Prop :=
  ∀ (h : ReqHead) (s : State) (i : Nat) (x : Room) (gone : List (Nat × CredRec)) (l : List Listing)
      (freed : List (Job × CredRec)) (enc : Encoder) (keys : List EntryKey), accepts h s → i ≤ 511 →
    s.rooms.get i = some x → s.cred.slots.wf → s.store.readOnly = false →
    gone = (s.cred.slots.filter fun e => decide (e.2.kind = .guest ∧ e.2.state = .active ∧ e.2.room = i)) →
    listsAll .checkout gone s l →
    ((freed = [] ∧ enc = s.enc ∧ ∀ e ∈ s.cred.slots, e.2.pendingGuest i = false) ∨
      (∃ j, s.enc.job = some j ∧ j.kind = .issue ∧ j.endsByCancel = false ∧ freed = [] ∧
        enc = { s.enc with job := some (j.reached .checkout) } ∧ ∃ e ∈ s.cred.slots, e.2.pendingGuest i = true) ∨
      ∃ j r, s.enc.job = some j ∧ j.kind = .issue ∧ j.endsByCancel = true ∧ freed = [(j, r)] ∧
        enc = { s.enc with job := none, headOp := none } ∧ s.cred.slots.get j.slot = some r ∧
        r.pendingGuest i = true) →
    keys = revokedKeys gone l ++ freed.map (fun e => .cred e.1.slot) →
    s.store.canQueue (revokedKeys gone l) (l.filter fun y => decide (y.place = none)).length = true →
    s.store.canQueue keys 0 = true →
    ∃ t, exec (.checkout h (.given i)) s = .next t ∧ t.enc = enc ∧
      (∀ k, t.cred.slots.get k = if k ∈ freed.map (fun e => e.1.slot) then none
        else (s.cred.slots.get k).map fun r => if r.kind = .guest ∧ r.state = .active ∧ r.room = i
          then { r with state := .revoked, reason := some .checkout, revokedAt := s.clock.minute } else r) ∧
      t.cred.list = (l.getLast?.map Listing.list).getD s.cred.list ∧
      t.cred.revCount = (l.getLast?.map Listing.count).getD s.cred.revCount ∧ t.cred.serial = s.cred.serial ∧
      journaled (l.flatMap Listing.records ++ freed.map (fun e => failedRecord e.2 (some .cancelled) .freed) ++
        [⟨.checkout, none, none, some i, .num gone.length, .num x.entry.issue, .none⟩]) s t ∧
      postedAll .alarm (l.flatMap fun y => y.out.toList.map fun o => .displaced o.1) s t ∧
      (∀ e ∈ freed, posted .issue (.issueEnd e.1.number .released (some .cancelled)) s t) ∧
      placed keys t ∧
      answersOnly h [.checkout gone.length (l.filter fun y => y.place.isSome).length
          (s.cred.slots.any fun e => e.2.pendingGuest i)] keys
        [.cred, .enc, .journal] [.journal, .alarm, .issue] s t

/-- CARD READ with no field (R62): a READ job begins; with a card present READ IMAGE goes to the head at once, with
none the card wait starts, and a card wait of 0 ends it at once with the result NO_CARD (R63). -/
def Obligations.CardReadBegins : Prop :=
  ∀ (h : ReqHead) (s : State), accepts h s → s.enc.job = none →
    ∃ t, exec (.cardRead h) s = .next t ∧
      (s.enc.cardIn = true →
        t.enc = { s.enc with
          headOp := some .read, job := some { Job.read with state := .reading, headEnd := some 200 } } ∧
        answersOnly h [.readStarted] [] [.enc] [] s t) ∧
      (s.enc.cardIn = false → s.settings.wait ≠ 0 →
        t.enc = { s.enc with job := some { Job.read with cardWait := some s.settings.wait } } ∧
        answersOnly h [.readStarted] [] [.enc] [] s t) ∧
      (s.enc.cardIn = false → s.settings.wait = 0 →
        t.enc = { s.enc with headOp := none, lastRead := some .noCard } ∧ posted .issue (.readEnd .noCard) s t ∧
        answersOnly h [.readStarted] [] [.enc] [.issue] s t)

/-! ## Requests of tabs, minibars, doors and lines -/

/-- TAB SETTLE (R131): the tab is settled to 0 with a SETTLE record, and an empty tab answers 0 and changes
nothing. MINIBAR HOLD (R132): the room's hold mark takes the value carried, and a minibar at rest follows it. -/
def Obligations.TabsAreSettledAndMinibarsHeld : Prop :=
  (∀ (h : ReqHead) (s : State) (i : Nat) (r : Room), accepts h s → i ≤ 511 → s.rooms.get i = some r →
    s.store.readOnly = false → s.journal.takesMoney = true → s.store.canQueue [.room i] 0 = true →
    ∃ t, exec (.tabSettle h (.given i)) s = .next t ∧
      (r.entry.tab = 0 → answersOnly h [.settled 0] [] [] [] s t) ∧
      (r.entry.tab ≠ 0 →
        t.rooms.get i = some { r with entry := { r.entry with tab := 0 } } ∧
        (∀ j, j ≠ i → t.rooms.get j = s.rooms.get j) ∧
        recorded [⟨.settle, none, none, some i, .num r.entry.tab, .num r.entry.issue, .settle .desk⟩] s t ∧
        placed [.room i] t ∧ answersOnly h [.settled r.entry.tab] [.room i] [.rooms, .journal] [.journal] s t)) ∧
  ∀ (h : ReqHead) (s : State) (i : Nat) (v : Bool) (r : Room), accepts h s → i ≤ 511 → s.rooms.get i = some r →
    s.nodes.wf → (∀ l a n, s.roomBar i = some (l, a, n) → s.node l a = some n) →
    ∃ t, exec (.minibarHold h (.given i) (.given v)) s = .next t ∧
      t.rooms.get i = some { r with hold := v } ∧ (∀ j, j ≠ i → t.rooms.get j = s.rooms.get j) ∧
      (∀ l a n, s.roomBar i = some (l, a, n) → r.hold ≠ v → t.node l a = some { n with bar := { n.bar with
        state := if v = true ∧ n.bar.state = .locked then .held
          else if v = false ∧ n.bar.state = .held then .locked else n.bar.state } }) ∧
      (∀ l a n, s.roomBar i = some (l, a, n) → ∀ key, key ≠ nodeKey l a → t.nodes.get key = s.nodes.get key) ∧
      (r.hold = v → t.nodes = s.nodes) ∧ (s.roomBar i = none → t.nodes = s.nodes) ∧
      answersOnly h [.hold v ((s.roomBar i).map fun e =>
        if r.hold = v then e.2.2.bar.state else if v = true ∧ e.2.2.bar.state = .locked then .held
        else if v = false ∧ e.2.2.bar.state = .held then .locked else e.2.2.bar.state)]
        [] [.rooms, .nodes] [] s t

/-- DOOR UNLOCK (R103): an UNLATCH of class other carrying the time asked, clamped to 3 to 60 seconds, or the door
unlatch time setting, is placed; the door's last release is the remote unlock; a REMOTE_UNLOCK record is
offered; a line at rest sends the order at once (R68). -/
def Obligations.DoorUnlockTakesEffect : Prop :=
  ∀ (h : ReqHead) (s : State) (l : LineId) (a time : Nat) (arg : Arg Nat) (n : Node), accepts h s → 1 ≤ a → a ≤ 120 →
    arg ≠ .malformed → s.node l a = some n → n.entry.kind ≠ .minibar → (s.line l).running = true →
    (s.line l).queue.length < 12 → s.linesSettled → time = argClamp arg 3 60 s.settings.unlatch →
    ∃ t, exec (.doorUnlock h (.given (lineNum l)) (.given a) arg) s = .next t ∧
      (t.line l).queue = (s.line l).queue ++ [⟨.unlatch, .other, some a, time⟩] ∧
      ((s.line l).exch.isSome = true → (t.line l).exch = (s.line l).exch ∧ (t.line l).tag = (s.line l).tag) ∧
      { t.line l with queue := (s.line l).queue, exch := (s.line l).exch, tag := (s.line l).tag } = s.line l ∧
      ((s.line l).exch = none → (t.line l).tag = ((s.line l).tag + 1) % 256 ∧
        (t.line l).exch = some ⟨.order ⟨.unlatch, .other, some a, time⟩, n.link.state.firstLeg false, a, false, true,
          s.settings.timeout.get l,
          frameBytes a 2 (leBytes 1 (s.line l).tag ++ (leBytes 1 OrderKind.unlatch.code ++ leBytes 1 time)), false⟩) ∧
      (∀ i, i ≠ l → t.line i = s.line i) ∧
      t.node l a = some { n with door := { n.door with release := .remote } } ∧
      (∀ key, key ≠ nodeKey l a → t.nodes.get key = s.nodes.get key) ∧
      journaled [⟨.remoteUnlock, some (l, a), none, n.entry.doorRoom, .num time, .num 0, .none⟩] s t ∧
      answersOnly h [.unlock time] [] [.nodes, .lines, .journal] [.journal] s t

/-- LINE ENABLE (R83), LINE DISABLE (R84) and LINE RESET (R85): what becomes of a line's queue, its exchange, its
cycle and its nodes, and which orders are journaled lost. A line that starts or resets begins its first cycle at once,
in phase 1 (R65, R67), by the visit to its first node, or, with no enabled node, has it complete at once; while the
clock is INVALID it places a STANDALONE broadcast first (R72). LINE ENABLE of a RUNNING line and LINE DISABLE of a
DISABLED one change nothing. -/
def Obligations.LinesAreEnabledDisabledAndReset : Prop :=
  ∀ (h : ReqHead) (s : State) (l : LineId), accepts h s →
    (s.store.identity.isSome = true → (s.line l).running = true →
      ∃ t, exec (.lineEnable h (.given (lineNum l))) s = .next t ∧ answersOnly h [.lineState true] [] [] [] s t) ∧
    ((s.line l).running = false →
      ∃ t, exec (.lineDisable h (.given (lineNum l))) s = .next t ∧ answersOnly h [.lineState false] [] [] [] s t) ∧
    ((s.line l).running = true →
      ∃ t, exec (.lineDisable h (.given (lineNum l))) s = .next t ∧
        t.line l = { s.line l with running := false, exch := none, cycle := none, queue := [] } ∧
        (∀ i, i ≠ l → t.line i = s.line i) ∧
        (∀ i a, a ≤ 120 → t.node i a = (s.node i a).map fun n => if i = l then
          { n with link := { n.link with state := .disabled, miss := 0, modeOwed := false, groupOwed := false } }
          else n) ∧
        journaled (((s.line l).queue.filter fun o => decide (o.cls = .decision)).map fun o =>
          ⟨.orderLost, some (l, o.target.getD 0), none, none, .lostCause .disabled, .order o.kind, .none⟩) s t ∧
        answersOnly h [.lineState false] [] [.nodes, .lines, .journal] [.journal] s t) ∧
    (∀ (c : Instr) (lost : List Order) (lines : List RLine) (x : Line) (w : State),
      ((c = .lineEnable h (.given (lineNum l)) ∧ lines = [.lineState true] ∧ s.store.identity.isSome = true ∧
          (s.line l).running = false ∧ lost = [] ∧
          x = { (Line.start) with running := true, tag := (s.line l).tag }) ∨
        (c = .lineReset h (.given (lineNum l)) ∧
          lines = [.lineReset (s.line l).queue.length (s.line l).decisions] ∧ (s.line l).running = true ∧
          lost = ((s.line l).queue.filter fun o => decide (o.cls = .decision)) ∧
          x = { s.line l with exch := none, cycle := none, restart := true, periodEnd := none })) →
      w = (lost.map fun o : Order => (⟨.orderLost, some (l, o.target.getD 0), none, none, .lostCause .reset,
          .order o.kind, .none⟩ : JBody)).foldl (fun y b => offer b y) { s with
        lines := s.lines.set l { x with
          queue := if s.clock.valid = .invalid then [⟨.standalone, .other, none, 0⟩] else [] }
        nodes := s.nodes.mapVals fun key n => if keyLine key = l then { n with link := { n.link with
            state := if n.entry.enabled = true then .unknown else .disabled
            miss := if n.entry.enabled = true then 0 else n.link.miss
            modeOwed := false, groupOwed := false } } else n } →
      ∃ t, exec c s = .next t ∧ (∀ k y, resumes l w k y → lineGoesOn l k y w t) ∧
        answersOnly h lines [] [.nodes, .lines, .journal] [.journal, .line] s t) ∧
    (∀ c lost a0 n0 lines,
      ((c = .lineEnable h (.given (lineNum l)) ∧ lines = [.lineState true] ∧ s.store.identity.isSome = true ∧
          (s.line l).running = false ∧ lost = []) ∨
        (c = .lineReset h (.given (lineNum l)) ∧
          lines = [.lineReset (s.line l).queue.length (s.line l).decisions] ∧ (s.line l).running = true ∧
          lost = (s.line l).queue.filter fun o => decide (o.cls = .decision))) →
      s.node l a0 = some n0 → n0.entry.enabled = true → 1 ≤ a0 → a0 ≤ 120 →
      (∀ e ∈ s.nodes, keyLine e.1 = l → e.2.entry.enabled = true → e.1 ≠ nodeKey l a0 → n0.entry.pos < e.2.entry.pos) →
      s.nodes.wf → (∀ e ∈ s.nodes, 1 ≤ keyAddr e.1 ∧ keyAddr e.1 ≤ 120 ∧ e.1 = nodeKey (keyLine e.1) (keyAddr e.1)) →
      ∃ t, exec c s = .next t ∧ (t.line l).running = true ∧ (t.line l).phase = 1 ∧
        (t.line l).periodEnd = some (s.settings.period.get l) ∧
        (t.line l).queue = (if s.clock.valid = .invalid then [⟨.standalone, .other, none, 0⟩] else []) ∧
        (t.line l).exch.map Exchange.kind = some (if s.clock.valid = .invalid
          then .broadcast ⟨.standalone, .other, none, 0⟩ else .poll false) ∧
        (s.clock.valid = .valid → (t.line l).exch.map Exchange.addr = some a0) ∧
        (t.line l).cycle.map (fun y => y.visit.map Visit.addr) = some (some a0) ∧
        (∀ i, i ≠ l → t.line i = s.line i) ∧
        (∀ i a, a ≤ 120 → t.node i a = (s.node i a).map fun n => if i = l then
          { n with link := { n.link with
            state := if n.entry.enabled = true then .unknown else .disabled
            miss := if n.entry.enabled = true then 0 else n.link.miss
            modeOwed := false, groupOwed := false } } else n) ∧
        journaled (lost.map fun o =>
          ⟨.orderLost, some (l, o.target.getD 0), none, none, .lostCause .reset, .order o.kind, .none⟩) s t ∧
        answersOnly h lines [] [.nodes, .lines, .journal] [.journal] s t)

/-- NOTICES (R179): each class named is enabled or disabled, one that is disabled loses its pending mark, its count
and its detail, and a class not named stays. -/
def Obligations.NoticesAreSet : Prop :=
  ∀ (h : ReqHead) (s : State) (v : NoticeClass → Arg Bool), accepts h s → (∀ c, v c ≠ .malformed) →
    ∃ t, exec (.notices h (v .alarm) (v .power) (v .store) (v .line) (v .issue) (v .journal) (v .minibar) (v .clock)) s =
        .next t ∧
      (∀ c, c ≠ .store → t.link.notices.get c = match v c with
        | .given true => { s.link.notices.get c with enabled := true }
        | .given false => if (s.link.notices.get c).enabled = true then ⟨false, false, 0, none⟩
            else s.link.notices.get c
        | _ => s.link.notices.get c) ∧
      (v .store = .given false → (s.link.notices.get .store).enabled = true →
        (t.link.notices.get .store).enabled = false ∧ (t.link.notices.get .store).pending = false) ∧
      (v .store = .given true → (t.link.notices.get .store).enabled = true) ∧
      answersOnly h [.notices
        (allClasses.map fun c => match v c with
          | .given b => b
          | _ => (s.link.notices.get c).enabled)
        (allClasses.map fun c => if v c = .given false ∧ (s.link.notices.get c).enabled = true then false
          else (s.link.notices.get c).pending)] [] [] allClasses s t

/-- COMMISSION (R155, R174) defers its reply and puts the identity to be programmed, which the engine takes up when
it comes to it. IDENTITY_PROGRAM_COMPLETE (R154, R155): a sound program puts the identity in use, brings every
DISABLED line to RUNNING and answers the deferred request; a failed one spoils its place, and the identity is
put to the next erased place or, with none left, refused E_STORE. -/
def Obligations.ThePartIsCommissioned : Prop :=
  (∀ (h : ReqHead) (s : State) (site seed : Nat) (name : List Byte), accepts h s → 1 ≤ site → site ≤ max32 →
    seed ≤ max32 → name ≠ [] → name.length ≤ 32 → (∀ b ∈ name, 32 ≤ b.toNat ∧ b.toNat ≤ 126) →
    s.link.deferred = none → s.store.identity = none → s.store.freeIdPlace.isSome = true →
    ∃ t, exec (.commission h (.given site) (.given seed) (.given name)) s = .next t ∧
      t.link.deferred = some (h.tag, ⟨site, seed, name⟩) ∧ t.link.slot = none ∧ t.store.identity = none ∧
      (t.store.idRequest = some ⟨site, seed, name⟩ ∨
        ∃ p, t.store.engine = .programming (.identity p ⟨site, seed, name⟩)) ∧
      keepsCells s t ∧ queuesOnly [] s t ∧ keepsBut [.store, .link] s t ∧
      { t.link with tx := s.link.tx, notices := s.link.notices, deferred := s.link.deferred } = s.link) ∧
  (∀ (s : State) (p : Nat) (i : Identity) (tag : List (Fin 10)) (x : Identity), s.power.state = .run →
    s.store.engine = .programming (.identity p i) → p < s.store.idPlaces.length →
    s.link.deferred = some (tag, x) → s.link.slot = none → s.link.deferredDone = none →
    ∃ t, exec (.identityProgramComplete true) s = .next t ∧ t.store.identity = some i ∧
      t.store.idPlaces = s.store.idPlaces.set p (.written i) ∧ (∀ l, (t.line l).running = true) ∧
      (∀ l, (s.line l).running = true → t.line l = s.line l) ∧ t.link.deferred = none ∧
      replied ⟨tag, false⟩ [.commissioned i.site i.name] t ∧
      keepsBut [.nodes, .lines, .journal, .store, .link] s t) ∧
  ∀ (s : State) (p : Nat) (i : Identity) (tag : List (Fin 10)) (x : Identity), s.power.state = .run →
    s.store.engine = .programming (.identity p i) → p < s.store.idPlaces.length →
    s.link.deferred = some (tag, x) → s.link.slot = none → s.link.deferredDone = none →
    ∃ t, exec (.identityProgramComplete false) s = .next t ∧ t.store.identity = s.store.identity ∧
      t.store.idPlaces = s.store.idPlaces.set p .spoiled ∧ keepsBut [.store, .link] s t ∧
      if IdPlace.erased ∈ t.store.idPlaces then
        t.link.deferred = s.link.deferred ∧ t.link.slot = none ∧ (t.store.idRequest = some i ∨
          ∃ q, t.store.engine = .programming (.identity q i) ∧ t.store.idPlaces[q]? = some .erased)
      else t.link.deferred = none ∧ replied ⟨tag, false⟩ [.err .store] t

/-! ## The encoder (Chapter 3) -/

/-- INTENT_RECORD_PROGRAMMED (R42, R47, R50, R51): the job whose intent record has been programmed makes its carried
selection, builds its issue image and waits for a card; with one present it writes at once, and a card wait of 0 with
none present ends it released with the cause NO_CARD. A report for a job that has ended, or has reported its outcome,
is taken and does nothing else. The selection is of the newest entries whose reach meets the card's; the issue image
carries the record's, the room's, the settings' and the list's values and the part's site code, the void image, which
WRITE IMAGE sends in VOIDING, the number and the site code alone, and each closes with its check, seeded with the site
seed (R42, R47, R48, R195). -/
def Obligations.IntentRecordStartsTheJob : Prop :=
  (∀ (s : State) (r : CredRec), s.groups.wf → carriedSelection s r (s.cred.carriedFor (s.reach r))) ∧
  (∀ (s : State) (i : Identity) (r : CredRec) (chosen : List (Nat × Nat × RevEntry)), s.store.identity = some i →
    chosen.length ≤ 12 → issueImage s i r chosen (imageBytes s.seed
      (s.issueFields r (chosen.map fun e => (e.2.2.number, expiryDay e.2.2.expiry))))) ∧
  (∀ (s : State) (i : Identity) (number : Nat), s.store.identity = some i → voidImage i number (s.voidImage number)) ∧
  (∀ (s : State) (j : Job) (r : CredRec) (chosen : List (Nat × Nat × RevEntry)) (image : List Byte) (ready : Job)
      (cred : CredUnit),
    s.working = true → s.enc.report = some j.number → s.enc.job = some j → j.kind = .issue → j.state = .preparing →
    j.outcome = none → s.cred.slots.get j.slot = some r → chosen = s.cred.carriedFor (s.reach r) →
    image = imageBytes s.seed
      (s.issueFields r (chosen.map fun e => (e.2.2.number, expiryDay e.2.2.expiry))) →
    ready = { j with
      image := some image, carried := chosen.length, state := .waitingCard, cardWait := some s.settings.wait } →
    cred = (chosen.map Prod.fst).foldl (fun c i => raiseCarried i c) s.cred →
    ∃ t, exec .intentRecordProgrammed s = .next t ∧
      (s.enc.cardIn = true →
        t.enc = { s.enc with
          report := none, headOp := some (.write image)
          job := some { ready with
            state := .writing, writeStarted := true, cardWait := none, headEnd := some 400 } } ∧
        t.cred = cred ∧ changesOnly ((chosen.map Prod.fst).map .listPlace) [.cred, .enc] [] s t) ∧
      (s.enc.cardIn = false → s.settings.wait ≠ 0 →
        t.enc = { s.enc with report := none, job := some ready } ∧
        t.cred = cred ∧ changesOnly ((chosen.map Prod.fst).map .listPlace) [.cred, .enc] [] s t) ∧
      (s.enc.cardIn = false → s.settings.wait = 0 →
        ∃ u, u.enc = { s.enc with report := none, job := some ready } ∧ u.cred = cred ∧
          changesOnly ((chosen.map Prod.fst).map .listPlace) [.cred, .enc] [] s u ∧
          outcomeReported ready .released (some .noCard) r u t)) ∧
  ∀ (s : State) (n : Nat), s.working = true → s.enc.report = some n →
    (∀ j, s.enc.job = some j → j.state ≠ .preparing ∨ j.outcome ≠ none ∨ j.number ≠ n) →
    ∃ t, exec .intentRecordProgrammed s = .next t ∧ t.enc = { s.enc with report := none } ∧
      changesOnly [] [.enc] [] s t

/-- CARD_IN_CHANGE (R46, R51, R62): the level is kept; a card's arrival sends WRITE IMAGE, or READ IMAGE, for the
job that waits for it, and starts its head timeout of 400 ms, or of 200 ms (R45, R49).
CARD_WAIT_EXPIRY (R51, R62): the wait over, an ISSUE job reports released with the cause
NO_CARD and a READ job ends with the result NO_CARD. -/
def Obligations.CardsComeAndWaitsExpire : Prop :=
  (∀ (s : State) (present : Bool), (present = false ∨ s.enc.waitingJob = none ∨ s.working = false) →
    ∃ t, exec (.cardInChange present) s = .next t ∧ t.enc = { s.enc with cardIn := present } ∧
      changesOnly [] [.enc] [] s t) ∧
  (∀ (s : State) (j : Job), s.working = true → s.enc.job = some j → j.state = .waitingCard → j.outcome = none →
    ∃ t, exec (.cardInChange true) s = .next t ∧
      t.enc = { s.enc with
        cardIn := true
        headOp := some (if j.kind = .issue then .write (j.image.getD []) else .read)
        job := some (if j.kind = .issue
          then { j with state := .writing, writeStarted := true, cardWait := none, headEnd := some 400 }
          else { j with state := .reading, cardWait := none, headEnd := some 200 }) } ∧
      changesOnly [] [.enc] [] s t) ∧
  ∀ (s : State) (j : Job), s.working = true → s.enc.job = some j → j.state = .waitingCard → j.outcome = none →
    j.cardWait.isSome = true →
    ∃ t, exec .cardWaitExpiry s = .next t ∧
      (j.kind = .issue → ∀ r, s.cred.slots.get j.slot = some r →
        outcomeReported j .released (some .noCard) r s t) ∧
      (j.kind = .read → t.enc = { s.enc with job := none, headOp := none, lastRead := some .noCard } ∧
        posted .issue (.readEnd .noCard) s t ∧ changesOnly [] [.enc] [.issue] s t)

/-- WRITE_IMAGE_ANSWER, and HEAD_TIMEOUT of a WRITE IMAGE, which is one more failing answer (R45, R52, R54, R59): in
WRITING an OK sends READ IMAGE; a failing answer, or any answer once the job is cancelled, samples CARD_IN, and
a card present is voided, where none is the job reports aborted. In VOIDING an OK reports released and a failing
answer aborted, with the cause that led there. -/
def Obligations.WriteAnswersAreActedOn : Prop :=
  ∀ (s : State) (j : Job) (r : CredRec) (b : List Byte) (c : Instr) (fault : Option JobCause),
    ((c = .writeImageAnswer .ok ∧ fault = none) ∨ (c = .writeImageAnswer .noCard ∧ fault = some .noCard) ∨
      (c = .writeImageAnswer .writeFault ∧ fault = some .writeFault) ∨
      (c = .headTimeout ∧ fault = some .headTimeout)) →
    s.enc.headOp = some (.write b) → s.enc.job = some j → s.cred.slots.get j.slot = some r →
    ∃ t, exec c s = .next t ∧
      (j.state = .writing → j.cancel = false → fault = none →
        t.enc = { s.enc with
          headOp := some .read, job := some { j with state := .verifying, cardWait := none, headEnd := some 200 } } ∧
        changesOnly [] [.enc] [] s t) ∧
      (∀ cause, j.state = .writing → (if j.cancel = true then cause = .cancelled else fault = some cause) →
        (s.enc.cardIn = true →
          t.enc = { s.enc with
            headOp := some (.write (s.voidImage j.number))
            job := some { j with state := .voiding, cause := some cause, headEnd := some 400 } } ∧
          changesOnly [] [.enc] [] s t) ∧
        (s.enc.cardIn = false → outcomeReported j .aborted (some cause) r s t)) ∧
      (j.state = .voiding → outcomeReported j (if fault = none then .released else .aborted) j.cause r s t)

/-- READ_IMAGE_ANSWER, and HEAD_TIMEOUT of a READ IMAGE (R45, R53, R59, R62, R63): in VERIFYING the bytes equal to the
image report success, bytes that differ are written once more and after that voided with the cause VERIFY_FAULT, and a
failing answer, or any answer once the job is cancelled, samples CARD_IN. A READ job ends with what was read, with
NO_CARD or HEAD_TIMEOUT, or, once cancelled, with CANCELLED. That REVOCATION_DISPLACED stands before ISSUED where a
success followed by revocation leaves an entry out is the model's choice (notes/assumptions/65). -/
def Obligations.ReadAnswersAreActedOn : Prop :=
  (∀ (s : State) (j : Job) (r : CredRec) (b : List Byte), s.enc.headOp = some .read → s.enc.job = some j →
    s.cred.slots.get j.slot = some r → j.state = .verifying → j.cancel = false →
    ∃ t, exec (.readImageAnswer (.image b)) s = .next t ∧
      (j.image = some b → outcomeReported j .success none r s t) ∧
      (j.image ≠ some b → j.rewriteUsed = false →
        t.enc = { s.enc with
          headOp := some (.write (j.image.getD []))
          job := some { j with
            state := .writing, writeStarted := true, rewriteUsed := true, cardWait := none, headEnd := some 400 } } ∧
        changesOnly [] [.enc] [] s t) ∧
      (j.image ≠ some b → j.rewriteUsed = true →
        t.enc = { s.enc with
          headOp := some (.write (s.voidImage j.number))
          job := some { j with state := .voiding, cause := some .verifyFault, headEnd := some 400 } } ∧
        changesOnly [] [.enc] [] s t)) ∧
  (∀ (s : State) (j : Job) (r : CredRec) (c : Instr) (cause : JobCause),
    ((c = .readImageAnswer .noCard ∧ j.cancel = false ∧ cause = .noCard) ∨
      (c = .headTimeout ∧ j.cancel = false ∧ cause = .headTimeout) ∨
      ((c = .headTimeout ∨ ∃ answer, c = .readImageAnswer answer) ∧ j.cancel = true ∧ cause = .cancelled)) →
    s.enc.headOp = some .read → s.enc.job = some j → s.cred.slots.get j.slot = some r → j.state = .verifying →
    ∃ t, exec c s = .next t ∧
      (s.enc.cardIn = true →
        t.enc = { s.enc with
          headOp := some (.write (s.voidImage j.number))
          job := some { j with state := .voiding, cause := some cause, headEnd := some 400 } } ∧
        changesOnly [] [.enc] [] s t) ∧
      (s.enc.cardIn = false → outcomeReported j .aborted (some cause) r s t)) ∧
  ∀ (s : State) (j : Job) (c : Instr) (result : ReadResult),
    ((∃ b, c = .readImageAnswer (.image b) ∧ result = s.readCard b) ∨
      (c = .readImageAnswer .noCard ∧ result = .noCard) ∨ (c = .headTimeout ∧ result = .headTimeout)) →
    s.enc.headOp = some .read → s.enc.job = some j → j.state = .reading →
    ∃ t, exec c s = .next t ∧
      t.enc = { s.enc with
        job := none, headOp := none, lastRead := some (if j.cancel = true then .cancelled else result) } ∧
      posted .issue (.readEnd (if j.cancel = true then .cancelled else result)) s t ∧
      changesOnly [] [.enc] [.issue] s t

/-- HELD_OUTCOME_RETRY (R30 to R33, R56, R57): on a space signal a held outcome is applied if every place it needs is
available, and stays held otherwise. Released frees the slot; aborted revokes the record and offers it to the
revocation list; success makes it ACTIVE, or, marked by a revocation, REVOKED; the success of a NEW_STAY gives the
room the new issue number, settles its tab and supersedes its other ACTIVE GUEST credentials (R31). Each ends with its
ISSUED or ISSUE_FAILED record and its occurrence. That REVOCATION_DISPLACED stands before ISSUED where that revocation
leaves an entry out is the model's choice (notes/assumptions/65). -/
def Obligations.HeldOutcomesAreApplied : Prop :=
  ∀ (s : State) (j : Job) (o : JobOutcome) (r : CredRec), s.working = true → s.signals.credential = true →
    s.enc.job = some j → j.outcome = some o → s.cred.slots.get j.slot = some r →
    ∃ t, exec .heldOutcomeRetry s = .next t ∧ t.signals = { s.signals with credential := false } ∧
      (s.outcomeFits j o r = false → t.enc = s.enc ∧ changesOnly [] [.signals] [] s t) ∧
      (s.outcomeFits j o r = true → outcomeApplied j o j.cause r { s with signals := t.signals } t)

/-! ## The wing lines (Chapter 4) -/

/-- CYCLE_BEGIN (R67, R68, R73, R74, R196): with a cycle in progress the next one is due when it ends. On a line at
rest the cycle begins at once (`wentOn`): its phase follows the last one, the poll period starts, and the first visit,
to the listed node of lowest position, sends the mode order and the group order the node is owed and then its poll; a
cycle that lists no node is complete at once (R69). While an order sent between cycles is outstanding the cycle is held
until its exchange has ended. A cycle lists the enabled nodes of the line, by position, a LOST one only in the phases 8
and 16 (R67).
DIRECTED_FRAME_SENT (R64, R66) starts the wait for the reply. BROADCAST_SENT (R72): a broadcast goes out on leg A,
then on leg B, and then leaves the queue, and the line goes on, within a cycle or between cycles; the drain's STANDALONE
broadcast does so too, and then the line empties its queue, journals its decision orders ORDER_LOST with the cause DRAIN
and is DISABLED, its nodes' link states kept (R87).
As a cycle is complete the break locator gives the line condition and its report, and records a change of it (R81,
R82). That a visit's owed orders are those owed as it begins is the model's reading (notes/assumptions/26). -/
def Obligations.FramesAreSent : Prop :=
  (∀ (s : State) (i : LineId) (p : Nat), s.power.state = .run → (s.line i).running = true →
    (s.line i).periodEnd.isSome = true → p = (s.line i).phaseNext →
    ∃ t, exec (.cycleBegin i) s = .next t ∧ (∀ l, l ≠ i → t.line l = s.line l) ∧
      (∀ c, (s.line i).cycle = some c →
        (s.line i).exch.isSome = true → t.line i = { s.line i with periodEnd := none } ∧
          changesOnly [] [.lines] [] s t) ∧
      ((s.line i).cycle = none → (s.line i).exch = none →
        wentOn i { s with lines := s.lines.set i { s.line i with periodEnd := none } } t) ∧
      ((s.line i).cycle = none → (s.line i).exch.isSome = true →
        (s.visitList i p ≠ [] → t.line i = { s.line i with
            phase := p, restart := false, periodEnd := some (s.settings.period.get i)
            cycle := some ⟨s.visitList i p, none⟩ } ∧ changesOnly [] [.lines] [] s t) ∧
        (s.visitList i p = [] → t.line i = { s.line i with
            phase := p, restart := false, periodEnd := some (s.settings.period.get i)
            count := satSucc max32 (s.line i).count, cond := (t.line i).cond, report := (t.line i).report } ∧
          (∃ c, located i s t c) ∧ changesOnly [] [.lines, .journal] [.line, .journal] s t)) ∧
      ((s.line i).cycle = none → (s.line i).exch = none → (s.line i).queue = [] →
        (t.line i).phase = p ∧ (t.line i).restart = false ∧ (t.line i).periodEnd = some (s.settings.period.get i) ∧
        (s.visitList i p = [] → (t.line i).cycle = none ∧ (t.line i).exch = none ∧
          (t.line i).count = satSucc max32 (s.line i).count ∧ (∃ c, located i s t c) ∧
          changesOnly [] [.lines, .journal] [.line, .journal] s t) ∧
        (∀ a rest n, s.visitList i p = a :: rest → s.node i a = some n → n.entry.enabled = true →
          n.link.modeOwed = false → n.link.groupOwed = false →
          (t.line i).cycle = some ⟨rest, some ⟨a, false, false, 0, false, false, none⟩⟩ ∧
          (t.line i).exch = some ⟨.poll false,
            if n.link.state = .onB ∧ p ≠ 16 then .b else .a, a, false, true, s.settings.timeout.get i, pollFrame a,
            false⟩ ∧
          changesOnly [] [.lines] [] s t))) ∧
  (∀ (s : State) (i : LineId) (p : Nat),
    (∀ a, a ∈ s.visitList i p ↔ ∃ e ∈ s.nodes, keyLine e.1 = i ∧ keyAddr e.1 = a ∧ e.2.entry.enabled = true ∧
      (e.2.link.state = .unknown ∨ e.2.link.state = .onA ∨ e.2.link.state = .onB ∨
        e.2.link.state = .lost ∧ (p = 8 ∨ p = 16))) ∧
    (s.nodes.wf → (∀ e ∈ s.nodes, e.1 = nodeKey (keyLine e.1) (keyAddr e.1)) →
      (s.visitList i p).Pairwise fun a b => a ≠ b ∧
        ∀ n m, s.node i a = some n → s.node i b = some m → n.entry.pos ≤ m.entry.pos)) ∧
  (∀ (s : State) (i : LineId) (x : Exchange), s.working = true → (s.line i).exch = some x →
    x.kind.awaitsReply = true →
    ∃ t, exec (.directedFrameSent i) s = .next t ∧
      t.line i = { s.line i with exch := some { x with sending := false } } ∧
      (∀ l, l ≠ i → t.line l = s.line l) ∧ changesOnly [] [.lines] [] s t) ∧
  (∀ (s : State) (i : LineId) (x : Exchange) (o : Order), s.power.state = .run → (s.line i).exch = some x →
    x.kind = .broadcast o → (s.line i).running = true →
    ∃ t, exec (.broadcastSent i) s = .next t ∧ (∀ l, l ≠ i → t.line l = s.line l) ∧
      (x.leg = .a → t.line i = { s.line i with
          exch := some ⟨.broadcast o, .b, 0, true, true, s.settings.timeout.get i, x.frame, false⟩ } ∧
        changesOnly [] [.lines] [] s t) ∧
      (x.leg = .b → wentOn i (s.exchangeEnded i ((s.line i).queue.drop 1) id) t)) ∧
  ∀ (s : State) (i : LineId) (x : Exchange), s.working = true → s.power.state = .draining →
    (s.line i).exch = some x → x.kind = .drainStandalone → (s.line i).running = true →
    ∃ t, exec (.broadcastSent i) s = .next t ∧ (∀ l, l ≠ i → t.line l = s.line l) ∧
      (x.leg = .a → t.line i = { s.line i with exch := some (drainExchange s i .b) } ∧
        changesOnly [] [.lines] [] s t) ∧
      (x.leg = .b → t.line i = { s.line i with running := false, exch := none, queue := [] } ∧
        journaled (((s.line i).queue.filter fun o => decide (o.cls = .decision)).map fun o =>
          ⟨.orderLost, some (i, o.target.getD 0), none, none, .lostCause .drain, .order o.kind, .none⟩) s t ∧
        changesOnly [] [.lines, .journal] [.journal] s t)

/-- NODE_REPLY (R66, R71, R73, R75, R77 to R80, R87): what is not taken counts as garble and the exchange counts as
unanswered from then on, whatever else it brings; every taken reply changes the node's link and status, restores a
LOST node and posts a risen battery or tamper indication. By what the exchange carried (`tookReply`) the reply delivers
an order, clears the mark of an owed order unless the mark has been set again since, or brings the event of a poll,
which is handed on in the same step (`handled`). Then the line goes on (`wentOn`): the oldest order queued is sent
first, then an owed order due at the visit, then the visit's re-poll, on the leg last answered, or the next visit, or
the cycle is complete. In a drain an event is discarded and the line's STANDALONE broadcast follows. That a presented
number 0 stands for no credential, that a common door's record names the room of the GUEST record that holds the
presented number, and what of a frame fails its check are the model's reading (notes/assumptions/18, 19 and 28); so is
it that a mark set again outlives the order already sent, and that the answer of a node restored leaves both marks set
(notes/assumptions/25), and that an exchange with a node that is gone ends for nothing (notes/assumptions/29). -/
def Obligations.RepliesAreTaken : Prop :=
  (∀ (s : State) (i : LineId) (x : Exchange) (n : Node) (frame : List Byte), s.power.state = .run →
    (s.line i).running = true → (s.line i).exch = some x → x.kind.awaitsReply = true → x.sending = false →
    1 ≤ x.addr → x.addr ≤ 120 → s.node i x.addr = some n →
    ((readReply frame = none ∨ ∃ r, readReply frame = some r ∧ r.addr ≠ x.addr) →
      ∃ t, exec (.nodeReply i x.leg frame) s = .next t ∧
        t.node i x.addr = some { n with link := { n.link with garble := satSucc 65535 n.link.garble } } ∧
        (∀ k, k ≠ nodeKey i x.addr → t.nodes.get k = s.nodes.get k) ∧
        t.line i = { s.line i with exch := some { x with spoiled := true } } ∧
        (∀ l, l ≠ i → t.line l = s.line l) ∧ changesOnly [] [.nodes, .lines] [] s t) ∧
    (∀ r, readReply frame = some r → r.addr = x.addr → x.spoiled = true →
      ∃ t, exec (.nodeReply i x.leg frame) s = .next t ∧ changesOnly [] [] [] s t) ∧
    ∀ (r : ReplyFrame), readReply frame = some r → r.addr = x.addr → x.spoiled = false →
      (x.kind ≠ .removed → (∀ again, x.kind = .poll again → (s.line i).queue.length < 16) →
        ∀ w, tookReply i x n r s w → ∃ t, exec (.nodeReply i x.leg frame) s = .next t ∧ wentOn i w t) ∧
      (x.kind = .removed → ∃ t, exec (.nodeReply i x.leg frame) s = .next t ∧
        wentOn i (s.exchangeEnded i (s.line i).queue id) t)) ∧
  ∀ (s : State) (i : LineId) (x : Exchange) (n : Node) (frame : List Byte) (r : ReplyFrame) (again : Bool),
    s.power.state = .draining → s.working = true → (s.line i).running = true → (s.line i).exch = some x →
    x.kind = .poll again → x.sending = false → x.spoiled = false → (s.line i).cycle = none → 1 ≤ x.addr →
    x.addr ≤ 120 → s.node i x.addr = some n → readReply frame = some r → r.addr = x.addr →
    ∃ t, exec (.nodeReply i x.leg frame) s = .next t ∧
      t.line i = { s.line i with exch := some (drainExchange s i .a) } ∧ (∀ l, l ≠ i → t.line l = s.line l) ∧
      changesOnly [] [.lines] [] (s.afterAnswer i x.leg x.addr n r.status) t

/-- REPLY_TIMEOUT (R66, R71, R73 to R76, R80): a first leg unanswered is tried again on the other leg at once, a poll
with the same frame, an order, queued or owed, under a fresh tag. An attempt that has failed on both legs
(`wentUnanswered`) loses an order, journaled where it is a decision order; leaves an owed order owed, with no record;
raises the miss count of a node at a visit's first poll, which is LOST at the third miss, with its NODE_LOST record and
its LINE occurrence, and has neither below it; and ends the visit at a re-poll, with no miss. Then the line goes on
(`wentOn`), or in a drain sends its STANDALONE broadcast. That a node disabled meanwhile stays DISABLED at its third
miss is the model's choice (notes/assumptions/56), and that in a drain a first leg unanswered is not tried again is its
reading (notes/assumptions/30), as is that an exchange with a node that is gone ends for nothing
(notes/assumptions/29). -/
def Obligations.UnansweredFramesAreRetried : Prop :=
  (∀ (s : State) (i : LineId) (x : Exchange), s.power.state = .run → (s.line i).running = true →
    (s.line i).exch = some x → x.sending = false →
    (∀ b, x.kind = .poll b → x.second = false →
      ∃ t, exec (.replyTimeout i) s = .next t ∧
        t.line i = { s.line i with exch := some ⟨x.kind, otherLeg x.leg, x.addr, true, true,
          s.settings.timeout.get i, x.frame, false⟩ } ∧
        (∀ l, l ≠ i → t.line l = s.line l) ∧ changesOnly [] [.lines] [] s t) ∧
    ((x.kind = .owedMode ∨ x.kind = .owedGroup ∨ ∃ o, x.kind = .order o) → x.second = false →
      ∃ t, exec (.replyTimeout i) s = .next t ∧
        t.line i = { s.line i with
          tag := ((s.line i).tag + 1) % 256
          exch := some ⟨x.kind, otherLeg x.leg, x.addr, true, true, s.settings.timeout.get i,
            frameBytes x.addr 2 (leBytes 1 (s.line i).tag ++ (x.frame.drop 5).take 2), false⟩ } ∧
        (∀ l, l ≠ i → t.line l = s.line l) ∧ changesOnly [] [.lines] [] s t) ∧
    (∀ n, x.kind.awaitsReply = true → x.kind ≠ .removed → x.second = true → x.addr ≤ 120 →
      s.node i x.addr = some n →
      ∀ w, wentUnanswered i x n s w → ∃ t, exec (.replyTimeout i) s = .next t ∧ wentOn i w t) ∧
    (x.kind = .removed → ∃ t, exec (.replyTimeout i) s = .next t ∧
      wentOn i (s.exchangeEnded i (s.line i).queue id) t)) ∧
  ∀ (s : State) (i : LineId) (x : Exchange), s.power.state = .draining → s.working = true →
    (s.line i).running = true → (s.line i).exch = some x → x.kind.awaitsReply = true → x.sending = false →
    ((x.second = false ∨ x.kind = .removed) → ∃ t, exec (.replyTimeout i) s = .next t ∧
      t.line i = { s.line i with exch := some (drainExchange s i .a) } ∧
      (∀ l, l ≠ i → t.line l = s.line l) ∧ changesOnly [] [.lines] [] s t) ∧
    ∀ n, x.second = true → x.kind ≠ .removed → x.addr ≤ 120 → s.node i x.addr = some n →
      ∀ w, wentUnanswered i x n s w → ∃ t, exec (.replyTimeout i) s = .next t ∧
        t.line i = { w.line i with exch := some (drainExchange s i .a) } ∧
        (∀ l, l ≠ i → t.line l = w.line l) ∧ changesOnly [] [.lines] [] w t

/-! ## Decisions at the doors (Chapter 5) and prices (Chapter 6) -/

/-- The tests every presentation meets first, in their order (R90 to R92): its age against the presentation
freshness, its site against the part's, its number against the key table, the state of the record that holds it,
the card's kind, issue number and room against the record's, and the minute against the record's terms. -/
def Obligations.TheTestsOfACard : Prop :=
  ∀ (s : State) (p : Presentation) (i : Identity), s.store.identity = some i →
    (s.settings.fresh < p.age → s.cardTests p = .inr .denyStale) ∧
    (p.age ≤ s.settings.fresh → p.site ≠ i.site → s.cardTests p = .inr .denySite) ∧
    (p.age ≤ s.settings.fresh → p.site = i.site →
      ((∀ e ∈ s.cred.slots, e.2.number ≠ p.number) →
        s.cardTests p = .inr (if p.kind = 5 then .denyVoid else .denyUnknown)) ∧
      ∀ (k : Nat) (r : CredRec) (expiry : Option Nat) (agrees : Bool), (k, r) ∈ s.cred.slots → r.number = p.number →
        (∀ e ∈ s.cred.slots, e.2.number = p.number → e = (k, r)) →
        expiry = (if r.kind = .guest
          then r.validUntil.map fun u => min (u + s.settings.checkout) 4294967294 else r.validUntil) →
        (agrees = true ↔ p.kind = (match r.kind with
            | .guest => 1
            | .staff => 2
            | .restock => 3
            | .master => 4) ∧
          (r.kind = .guest → p.issue = r.issue ∧ p.room = r.room) ∧
          (r.kind ≠ .guest → p.issue = 0 ∧ p.room = 0)) →
        s.cardTests p = match r.state with
          | .pending => .inr .denyUnknown
          | .revoked => .inr .denyRevoked
          | .superseded => .inr .denySuperseded
          | .lapsed => .inr .denyExpired
          | .active =>
            if agrees = false then .inr .denyMismatch
            else if s.clock.minute < r.validFrom then .inr .denyNotYet
            else if (expiry.any fun e => decide (e ≤ s.clock.minute)) = true then .inr .denyExpired
            else .inl r)

/-- The decision at a door (R89, R91, R92) is the refusal of the tests every presentation meets, and of a card that
passes them what the tests of its kind say there. Those tests at a room door (R94, R95) and at a common door (R96),
with the daily window of R93, in their order: nothing else decides, at a room door neither the group's release state
nor, for a guest, the access set and the privacy. The order of each outcome (R98): an UNLATCH with the time for GRANT
and GRANT_OVERRIDE, none for GRANT_HELD and DENY_STALE, a DENY_SIGNAL for every other refusal. -/
def Obligations.TheTestsAtTheDoors : Prop :=
  (∀ (d : Decision) (a time : Nat),
    ((d = .grant ∨ d = .grantOverride) → d.order a time = some ⟨.unlatch, .decision, some a, time⟩) ∧
    ((d = .grantHeld ∨ d = .denyStale) → d.order a time = none) ∧
    (d ≠ .grant → d ≠ .grantOverride → d ≠ .grantHeld → d ≠ .denyStale →
      d.order a time = some ⟨.denySignal, .decision, some a, 0⟩)) ∧
  (∀ (s : State) (n : Node) (p : Presentation),
    (∀ d, s.cardTests p = .inr d → s.doorDecision n p = d) ∧
    ∀ r, s.cardTests p = .inl r →
      (n.entry.kind = .roomDoor → s.doorDecision n p = s.roomDoorTest (n.entry.room.getD 0) n.entry.group r) ∧
      (n.entry.kind = .commonDoor → s.doorDecision n p = s.commonDoorTest n r)) ∧
  ∀ (s : State) (n : Node) (r : CredRec) (room g m : Nat) (x y : Room) (inside : Bool),
    s.rooms.get room = some x → (r.kind = .guest → s.rooms.get r.room = some y) → n.entry.group = g →
    m = s.clock.minute % 1440 →
    (r.winStart = r.winEnd → inside = true) →
    (r.winStart < r.winEnd → (inside = true ↔ r.winStart ≤ m ∧ m < r.winEnd)) →
    (r.winEnd < r.winStart → (inside = true ↔ r.winStart ≤ m ∨ m < r.winEnd)) →
    s.roomDoorTest room g r = (match r.kind with
      | .guest =>
        if r.room ≠ room then .denyWrongRoom
        else if r.issue ≠ x.entry.issue then .denySuperseded
        else if x.entry.lockout = true then .denyLockout
        else .grant
      | .staff | .restock =>
        if r.mask.has g = false then .denyGroup
        else if inside = false then .denyWindow
        else if x.privacy = true then .denyPrivacy
        else .grant
      | .master => if x.privacy = true then .grantOverride else .grant) ∧
    ((s.group g).release = .secured →
      s.commonDoorTest n r = if r.kind = .master then .grant else .denySecured) ∧
    ∀ granted : Decision,
      granted = (if (s.group g).release = .released ∧ (∃ st, n.link.status = some st ∧ st.latchReleased = true)
        then .grantHeld else .grant) →
      (s.group g).release ≠ .secured → s.commonDoorTest n r = match r.kind with
        | .guest =>
          if y.entry.access.has g = false then .denyGroup
          else if r.issue ≠ y.entry.issue then .denySuperseded
          else granted
        | .staff | .restock =>
          if r.mask.has g = false then .denyGroup
          else if inside = false then .denyWindow
          else granted
        | .master => granted

/-- The amount of a minibar line in its four stages (R124): with a discount of at most 5,000 basis points the
discount never exceeds the price, a tax rate of at most 3,000 and a price of at most 65,535 give at most 85,196,
and a price of 0 gives 0. -/
def Obligations.TheAmountOfALine : Prop :=
  ∀ (p : PriceEntry) (dis d n t : Nat), d = (p.price * dis + 5000) / 10000 → n = p.price - d →
    t = (n * p.tax + 5000) / 10000 → dis ≤ 5000 →
    lineAmount p dis = n + t ∧ d ≤ p.price ∧ (p.price = 0 → lineAmount p dis = 0) ∧
    (p.price ≤ 65535 → p.tax ≤ 3000 → lineAmount p dis ≤ 85196)

/-- LATCH_END (R114): an opening reached with the door never opened ends unused: the minibar comes to rest, or, from
a guest's opening that began in SETTLING, returns to SETTLING with a full return grace; a RELATCH is offered.
GRACE_END (R126, R127): the minibar's pending lines are finalised in slot order (`linesCharged`), each charged to the
tab of its room, whose entry is queued, or, where it is of a prior stay, to the journal alone, with its CHARGE record,
its slot leaving the baseline, up to the first that has not both its places. With all charged the minibar comes to rest;
otherwise it enters CHARGE_WAIT and posts the occurrence with the count of lines that wait (R128). CHARGE_WAIT_RETRY
finalises the lines of the waiting minibars alike, in room index order, until one cannot proceed (R128), and in a drain
those of every minibar (R133). That a minibar that stops in a drain does not stop the others is the model's reading
(notes/assumptions/37). -/
def Obligations.MinibarTimersRunOut : Prop :=
  (∀ (s : State) (l : LineId) (a : Nat) (n : Node), s.power.state = .run → 1 ≤ a → a ≤ 120 → s.node l a = some n →
    n.bar.latchEnd.isSome = true → n.bar.opened = false → s.linesSettled →
    (n.bar.state = .openRestock ∨ (n.bar.state = .openGuest ∧ (n.bar.backToSettling = false ∨ s.settings.grace ≠ 0))) →
    ∃ t m, exec (.latchEnd l a) s = .next t ∧ t.node l a = some m ∧
      m = { n with bar := { n.bar with
        latchEnd := none, opener := none, opened := false, backToSettling := false
        state := if n.bar.state = .openGuest ∧ n.bar.backToSettling = true then .settling
          else s.restState n.entry.room
        graceEnd := if n.bar.state = .openGuest ∧ n.bar.backToSettling = true then some s.settings.grace
          else n.bar.graceEnd } } ∧
      (∀ k, k ≠ nodeKey l a → t.nodes.get k = s.nodes.get k) ∧
      (t.line l).queue = (if (s.line l).running = true ∧ (s.line l).queue.length < 12
        then (s.line l).queue ++ [⟨.relatch, .other, some a, 0⟩] else (s.line l).queue) ∧
      (∀ i, i ≠ l → t.line i = s.line i) ∧ changesOnly [] [.nodes, .lines] [] s t) ∧
  (∀ (s : State) (l : LineId) (a room k : Nat) (n : Node) (p : PendingLine) (x : Room) (c : Instr),
    s.power.state = .run → 1 ≤ a → a ≤ 120 → 1 ≤ k → k ≤ 12 → s.node l a = some n → n.entry.kind = .minibar →
    n.entry.room = some room → s.rooms.get room = some x → n.bar.lines = [(k, p)] →
    ((c = .graceEnd l a ∧ n.bar.state = .settling ∧ n.bar.graceEnd.isSome = true) ∨
      (c = .chargeWaitRetry ∧ n.bar.state = .chargeWait ∧ n.bar.graceEnd = none ∧ s.signals.minibar = true ∧
        s.waitingBars = [(l, a, n)])) →
    s.journal.takesMoney = true → s.store.canQueue [.room room, .node l a] 0 = true →
    ∃ t m, exec c s = .next t ∧ t.node l a = some m ∧
      m = { n with
        entry := { n.entry with baseline := n.entry.baseline &&& ~~~ slotBit k }
        bar := { n.bar with lines := [], graceEnd := none, state := s.restState (some room) } } ∧
      (∀ i, t.rooms.get i = (s.rooms.get i).map fun y => if i = room ∧ p.issue = y.entry.issue
        then { y with entry := { y.entry with tab := min (y.entry.tab + p.amount) 9999999 } } else y) ∧
      recorded [⟨.charge, some (l, a), none, some room, .num p.amount, .num p.minute,
        .charge p.item k p.issue (decide (p.issue = x.entry.issue ∧ 9999999 < x.entry.tab + p.amount))
          (decide (p.issue ≠ x.entry.issue))⟩] s t ∧
      placed [.node l a] t ∧ (p.issue = x.entry.issue → placed [.room room] t) ∧
      changesOnly [.room room, .node l a] [.rooms, .nodes, .journal, .signals] [.journal] s t) ∧
  (∀ (s : State) (l : LineId) (a room : Nat) (n : Node) (x : Room),
    s.power.state = .run → 1 ≤ a → a ≤ 120 → s.node l a = some n → n.entry.room = some room →
    s.rooms.get room = some x → n.bar.lines.wf → n.bar.state = .settling → n.bar.graceEnd.isSome = true →
    ∃ t u m, exec (.graceEnd l a) s = .next t ∧
      linesCharged l a room n.bar.lines { s with
        nodes := s.nodes.put (nodeKey l a) { n with bar := { n.bar with graceEnd := none } } } u ∧
      u.node l a = some m ∧
      (m.bar.lines = [] → t.node l a = some { m with bar := { m.bar with state := s.restState (some room) } } ∧
        postedAll .minibar [] u t) ∧
      (m.bar.lines ≠ [] → t.node l a = some { m with bar := { m.bar with state := .chargeWait } } ∧
        posted .minibar (.charges room m.bar.lines.length) u t) ∧
      (∀ key, key ≠ nodeKey l a → t.nodes.get key = u.nodes.get key) ∧
      changesOnly [] [.nodes] [.minibar] u t) ∧
  (∀ s : State, s.working = true → s.signals.minibar = true →
    (∀ e ∈ s.nodes, e.2.bar.lines.wf ∧ s.node (keyLine e.1) (keyAddr e.1) = some e.2) →
    (∀ l a n, (l, a, n) ∈ s.waitingBars ↔ ∃ e ∈ s.nodes, e.2 = n ∧ keyLine e.1 = l ∧ keyAddr e.1 = a ∧
      n.entry.kind = .minibar ∧ n.bar.state = .chargeWait) ∧
    (s.waitingBars.Pairwise fun y z => y.2.2.entry.room.getD 0 ≤ z.2.2.entry.room.getD 0) ∧
    ∃ t u, exec .chargeWaitRetry s = .next t ∧
      (s.power.state = .run → waitingCharged s.waitingBars { s with signals := t.signals } u) ∧
      (s.power.state = .draining → barsCharged s.minibars { s with signals := t.signals } u) ∧
      t.signals = { s.signals with minibar := false } ∧ changesOnly [] [] [] u t) ∧
  ∀ (s : State) (l : LineId) (a room k : Nat) (n : Node) (p : PendingLine) (rest : FMap PendingLine),
    s.power.state = .run → 1 ≤ a → a ≤ 120 → s.node l a = some n → n.entry.kind = .minibar →
    n.entry.room = some room → n.bar.lines = (k, p) :: rest → n.bar.state = .settling →
    n.bar.graceEnd.isSome = true → s.chargeFits room = false →
    ∃ t, exec (.graceEnd l a) s = .next t ∧
      t.node l a = some { n with bar := { n.bar with state := .chargeWait, graceEnd := none } } ∧
      posted .minibar (.charges room n.bar.lines.length) s t ∧ changesOnly [] [.nodes] [.minibar] s t

/-- What a minibar's events do, which NODE_REPLY hands on (`handled`).
Slots (R111, R120 to R124): the first report after the record starts is compared with nothing. In OPEN_GUEST and
SETTLING a removal from a slot of the baseline makes a pending line at the price, the tax and the discount of this
minute, a return to a slot with a line cancels it, a return to one with none is journaled LATE_RETURN, and SETTLING
with no line left comes to rest; in OPEN_RESTOCK a report changes present now and the missing marks alone; in the other
states every report offers a MINIBAR_TAMPER record and posts an ALARM occurrence (notes/assumptions/17).
Doors (R113, R122, R125): an opening's door sets its mark; a closing with the mark set ends the guest opening, in
SETTLING where lines are pending, or the restock opening, which takes the baseline; a door opened in any other state is
tamper.
Presentations (R115 to R119): a refusal queues its DENY_SIGNAL and offers its REFUSE record, one of DENY_TAB_LIMIT
posting its occurrence; a grant opens the minibar by its state, queues the UNLATCH and offers the MINIBAR_OPEN record
with the sum tested; a restock of a minibar in SETTLING finalises its lines first.
That a presented number 0 stands for no credential and that a return grace of 0 ends at once are the model's reading
(notes/assumptions/18 and 41). -/
def Obligations.MinibarsAreOpenedAndCharged : Prop :=
  (∀ (s : State) (l : LineId) (a k : Nat) (n : Node) (reported : SlotSet), 1 ≤ k → k ≤ 12 → s.node l a = some n →
    n.entry.stocked.has k = true →
    (reported.has k = false → n.entry.baseline.has k = true →
      ∀ line : PendingLine,
        line = ⟨lineAmount (s.price (n.entry.code k))
            (((s.rooms.get (n.entry.room.getD 0)).map fun x => x.entry.discount).getD 0),
          n.entry.code k, s.currentIssue (n.entry.room.getD 0), s.clock.minute⟩ →
        guestSlot l a n reported k s = s.modNode l a fun m =>
          { m with bar := { m.bar with lines := m.bar.lines.put k line } }) ∧
    (reported.has k = false → n.entry.baseline.has k = false → guestSlot l a n reported k s = s) ∧
    (reported.has k = true → (n.bar.lines.get k).isSome = true →
      guestSlot l a n reported k s = s.modNode l a fun m =>
        { m with bar := { m.bar with lines := m.bar.lines.del k } }) ∧
    (reported.has k = true → n.bar.lines.get k = none →
      guestSlot l a n reported k s =
        offer ⟨.lateReturn, some (l, a), none, n.entry.room, .num k, .num (n.entry.code k), .none⟩ s)) ∧
  (∀ (s : State) (l : LineId) (a : Nat) (n : Node) (m : SlotSet), s.node l a = some n →
    ∃ missing : SlotSet,
      (n.bar.present = none →
        (∀ k, 1 ≤ k → k ≤ 12 → missing.has k = (!m.has k && (n.bar.missing.has k ||
          (n.entry.stocked.has k && n.entry.baseline.has k)))) ∧
        slotsReported l a n m s = s.modNode l a fun y =>
          { y with bar := { y.bar with present := some m, missing := missing } }) ∧
      (∀ p, n.bar.present = some p → (n.bar.state = .openGuest ∨ n.bar.state = .settling) → ∀ u : State,
        u = ((allSlots.filter fun k => decide (p.has k ≠ m.has k)).foldl (fun y k => guestSlot l a n m k y) s).modNode
          l a (fun y => { y with bar := { y.bar with present := some m, missing := missing } }) →
        (∀ k, 1 ≤ k → k ≤ 12 → missing.has k = (!m.has k && n.bar.missing.has k)) ∧
        ∀ y, u.node l a = some y → slotsReported l a n m s = if n.bar.state = .settling ∧ y.bar.lines = []
          then u.modNode l a fun y =>
            { y with bar := { y.bar with graceEnd := none, state := s.restState n.entry.room } }
          else u) ∧
      (∀ p, n.bar.present = some p → n.bar.state = .openRestock →
        (∀ k, 1 ≤ k → k ≤ 12 → missing.has k = (!m.has k && n.bar.missing.has k)) ∧
        slotsReported l a n m s = s.modNode l a fun y =>
          { y with bar := { y.bar with present := some m, missing := missing } }) ∧
      ∀ p, n.bar.present = some p → (n.bar.state = .locked ∨ n.bar.state = .chargeWait ∨ n.bar.state = .held) →
        (∀ k, 1 ≤ k → k ≤ 12 → missing.has k = (!m.has k && (n.bar.missing.has k ||
          (n.entry.stocked.has k && p.has k && n.entry.baseline.has k && decide (n.bar.lines.get k = none))))) ∧
        slotsReported l a n m s = post .alarm (.slots (l, a)) (offer
          ⟨.minibarTamper, some (l, a), none, n.entry.room,
            .num (allSlots.filter fun k => p.has k && !m.has k && n.entry.stocked.has k).length,
            .num (allSlots.filter fun k => !p.has k && m.has k && n.entry.stocked.has k).length, .none⟩
          (s.modNode l a fun y => { y with bar := { y.bar with present := some m, missing := missing } }))) ∧
  (∀ (s : State) (l : LineId) (a : Nat) (n : Node), s.node l a = some n →
    (n.bar.state.isOpening = true →
      minibarDoor l a n true s = (s.modNode l a fun y => { y with bar := { y.bar with opened := true } }) ∧
      (n.bar.opened = false → minibarDoor l a n false s = s)) ∧
    (n.bar.state.isOpening = false → minibarDoor l a n false s = s ∧
      minibarDoor l a n true s = post .alarm (.minibarDoor (l, a)) (offer
        ⟨.minibarTamper, some (l, a), none, n.entry.room, .num 0, .num 0, .none⟩ s)) ∧
    (n.bar.state = .openGuest → n.bar.opened = true → (n.bar.lines = [] ∨ s.settings.grace ≠ 0) →
      minibarDoor l a n false s = s.modNode l a fun y => { y with bar := { y.bar with
        latchEnd := none, opener := none, opened := false, backToSettling := false
        state := if n.bar.lines = [] then s.restState n.entry.room else .settling
        graceEnd := if n.bar.lines = [] then n.bar.graceEnd else some s.settings.grace } }) ∧
    (n.bar.state = .openGuest → n.bar.opened = true → n.bar.lines ≠ [] → s.settings.grace = 0 →
      minibarDoor l a n false s = graceEnds l a (n.entry.room.getD 0) (s.modNode l a fun y =>
        { y with bar := { y.bar with latchEnd := none, opener := none, opened := false, backToSettling := false,
                                     state := .settling, graceEnd := some 0 } })) ∧
    (n.bar.state = .openRestock → n.bar.opened = true → ∃ base : SlotSet, ∃ u,
      (∀ k, 1 ≤ k → k ≤ 12 → base.has k = (n.entry.stocked.has k && (n.bar.present.getD 0).has k)) ∧
      u = offer ⟨.restock, some (l, a), n.bar.opener.bind (fun k => if k = 0 then none else some k), n.entry.room,
          .num (allSlots.filter fun k => base.has k && !n.entry.baseline.has k).length,
          .num (allSlots.filter fun k => base.has k).length, .none⟩
        (s.modNode l a fun y => { y with
          entry := { y.entry with baseline := base }
          bar := { y.bar with missing := 0, latchEnd := none, opener := none, opened := false,
                              state := s.restState n.entry.room } }) ∧
      minibarDoor l a n false s = if base = n.entry.baseline then u else enqueue (.node l a) u)) ∧
  ∀ (s : State) (l : LineId) (a room sum : Nat) (n : Node) (p : Presentation) (x : Room), s.node l a = some n →
    n.entry.room = some room → s.rooms.get room = some x → sum = x.entry.tab + s.pendingTotal room →
    (s.line l).running = true → (s.line l).queue.length < 16 →
    (∀ d, s.barRefusal n x room sum p = some d → minibarPresents l a n p s =
      offer ⟨.refuse, some (l, a), if p.number = 0 then none else some p.number, some room, .decision d, .num p.age,
          .none⟩
        ((if d = .denyTabLimit then post .minibar (.tabLimit room sum) s else s).queued l
          (if d = .denyStale then [] else [⟨.denySignal, .decision, some a, 0⟩]))) ∧
    (∀ r, s.barRefusal n x room sum p = none → s.cardTests p = .inl r → r.kind = .guest →
      minibarPresents l a n p s =
        offer ⟨.minibarOpen, some (l, a), if p.number = 0 then none else some p.number, some room, .guest, .num sum,
            .none⟩
          (s.barOrder l a [⟨.unlatch, .decision, some a, s.settings.latch⟩] fun y => { y with
            state := .openGuest
            opened := y.opened && decide (n.bar.state = .openGuest)
            backToSettling := decide (n.bar.state = .settling) ||
              (y.backToSettling && decide (n.bar.state = .openGuest))
            graceEnd := if n.bar.state = .settling then none else y.graceEnd
            latchEnd := some s.settings.latch, opener := some p.number })) ∧
    ∀ r, s.barRefusal n x room sum p = none → s.cardTests p = .inl r → (r.kind = .restock ∨ r.kind = .master) →
      ∀ (u : State) (whole : Bool),
        ((n.bar.state ≠ .settling ∧ u = s ∧ whole = true) ∨ (n.bar.state = .settling ∧ (u, whole) = finaliseBar l a
          (s.modNode l a fun y => { y with bar := { y.bar with graceEnd := none } }))) →
        (whole = true → minibarPresents l a n p s =
          offer ⟨.minibarOpen, some (l, a), if p.number = 0 then none else some p.number, some room, .restock, .num 0,
              .none⟩
            (u.barOrder l a [⟨.unlatch, .decision, some a, s.settings.latch⟩] fun y => { y with
              state := .openRestock, opened := y.opened && decide (n.bar.state = .openRestock)
              latchEnd := some s.settings.latch, opener := some p.number })) ∧
        (whole = false → minibarPresents l a n p s =
          offer ⟨.refuse, some (l, a), if p.number = 0 then none else some p.number, some room,
              .decision .denyChargeWait, .num p.age, .none⟩
            ((post .minibar (.charges room (u.lineCount l a))
              (u.modNode l a fun y => { y with bar := { y.bar with state := .chargeWait } })).queued l
                [⟨.denySignal, .decision, some a, 0⟩]))

/-! ## Power and the hotel clock (Chapters 1 and 10) -/

/-- HOTEL_CLOCK_TICK (R1, R2, R36, R41): the second advances, at the largest minute the clock holds, and the state of
the clock stays; where the minute of a VALID clock advances in a part at work, every ACTIVE credential whose
expiry has come is LAPSED and every list entry whose expiry has come leaves its place, and nothing else changes.
That a part which is PARKED, without power, or past the end of its drain does none of this work at a tick is the
model's reading (notes/assumptions/38); that a second below 59 of the largest minute goes to 59 at once is its choice
(notes/assumptions/53). -/
def Obligations.TheClockTicks : Prop :=
  ∀ s : State, ∃ t, exec .hotelClockTick s = .next t ∧
    t.clock = (if 4294967294 ≤ s.clock.minute then { s.clock with minute := 4294967294, second := 59 }
      else if s.clock.second < 59 then { s.clock with second := s.clock.second + 1 }
      else { s.clock with
        minute := s.clock.minute + 1, second := if s.clock.minute + 1 = 4294967294 then 59 else 0 }) ∧
    ((t.clock.minute = s.clock.minute ∨ s.clock.valid = .invalid ∨ s.working = false) →
      t = { s with clock := t.clock }) ∧
    (t.clock.minute ≠ s.clock.minute → s.clock.valid = .valid → s.working = true → s.cred.list.wf →
      (∀ k, t.cred.slots.get k = (s.cred.slots.get k).map fun r =>
        if r.state = .active ∧ endBy t.clock.minute (s.expiry r) = true then { r with state := .lapsed } else r) ∧
      (∀ k, t.cred.list.get k = (s.cred.list.get k).map fun p =>
        { p with entry := p.entry.filter fun e => !endBy t.clock.minute e.expiry }) ∧
      t.cred.serial = s.cred.serial ∧ t.cred.revCount = s.cred.revCount ∧
      changesOnly ((s.cred.expiredPlaces t.clock.minute).map .listPlace) [.clock, .cred] [] s t)

/-- POWER_LOSS and RESET_ASSERTED (R169, R183), whatever the part is doing: every volatile state is gone, the notice
table, the space signals and a deferred reply not yet sent with the rest, the hotel clock and the inputs stand, and
the store holds what it held, but that a program cut off has left its slot spoiled and an erase cut off, running or
suspended, has left its sector interrupted. That the part without power is a state of its own is the model's choice
(notes/assumptions/12). -/
def Obligations.PowerIsLost : Prop :=
  ∀ (s : State) (c : Instr), (c = .powerLoss ∨ c = .resetAsserted) →
    ∃ t, exec c s = .next t ∧ t.power.state = .off ∧ t.power.drain = none ∧ t.power.pfw = s.power.pfw ∧
      t.power.supply = (if c = .powerLoss then false else s.power.supply) ∧
      t.power.resetPin = (if c = .resetAsserted then true else s.power.resetPin) ∧
      t.clock = s.clock ∧ t.pending = s.pending ∧ t.enc = ⟨none, none, s.enc.cardIn, none, none⟩ ∧
      t.rooms = [] ∧ t.nodes = [] ∧ t.groups = [] ∧ t.prices = [] ∧ t.cred.slots = [] ∧ t.cred.list = [] ∧
      (∀ i, (t.line i).running = false ∧ (t.line i).exch = none ∧ (t.line i).queue = []) ∧
      t.journal.staging = [] ∧ t.journal.dropAdm = 0 ∧ t.journal.dropOther = 0 ∧ t.journal.heldOverruns = [] ∧
      t.store.queue = [] ∧ t.store.waiting = [] ∧ t.store.work = [] ∧ t.store.engine = .idle ∧
      t.store.suspended = none ∧ t.store.identity = none ∧
      t.link.rate = s.link.rate ∧ t.link.holdIn = s.link.holdIn ∧ t.link.inbound = ⟨[], [], 0, false, false, false⟩ ∧
      t.link.holdOut = false ∧ t.link.slot = none ∧ t.link.deferred = none ∧ t.link.deferredDone = none ∧
      t.link.tx = none ∧ t.link.errors = 0 ∧ (∀ c, t.link.notices.get c = ⟨true, false, 0, none⟩) ∧
      t.signals = ⟨false, false, false, false⟩ ∧
      (∀ k, (t.store.jsec k).cells = (s.store.jsec k).cells ++
        match s.store.engine with
        | .programming (.journal j _) => if j = k then [none] else []
        | _ => []) ∧
      (∀ k, (t.store.tsec k).cells = (s.store.tsec k).cells ++
        match s.store.engine with
        | .programming (.table j _ _) => if j = k then [none] else []
        | .programming (.copy j _ _) => if j = k then [none] else []
        | _ => []) ∧
      t.store.idPlaces = (match s.store.engine with
        | .programming (.identity j _) => s.store.idPlaces.set j .spoiled
        | _ => s.store.idPlaces) ∧
      (∀ k, 40 ≤ k → ((t.store.jsec k).cut = true ↔ (s.store.jsec k).cut = true ∨
        ∃ e, (s.store.engine = .erasing e ∨ s.store.suspended = some e) ∧ e.work.sector = k)) ∧
      ∀ k, k < 40 → ((t.store.tsec k).cut = true ↔ (s.store.tsec k).cut = true ∨
        ∃ e, (s.store.engine = .erasing e ∨ s.store.suspended = some e) ∧ e.work.sector = k)

/-- The cold start (R1, R44, R65, R154, R170, R184, R187, R189): POWER_ON, RESET_RELEASED, PFW_DEASSERTED in PARKED
and POST_DRAIN_COLD_START each bring the part to RUN. The clock is taken from the backup domain, the link rate from
the straps but after a RESTART (R192), the identity from its first written place; volatile state starts, the space
signals clear, the notice table with every class enabled and nothing pending but the occurrences of the start itself,
that of the journal's level among them (R150, R178); no credential is left PENDING, the line masters of a commissioned
part are RUNNING, and the START record is the first staged, CLEAN where the newest record found is a complete
POWER_DOWN or there is none. A program in progress has run to its end first (R156), sound or failed, which is a free
value (notes/assumptions/14). With PFW asserted the part is PARKED instead: a program in progress goes on to its end,
an erase in progress is left interrupted, and nothing is offered, queued or sent (R188). -/
def Obligations.ColdStartsBegin : Prop :=
  ∀ (s : State) (c : Instr) (rate : LinkRate) (lost : Bool), s.store.tlog.wf → s.store.jreg.wf →
    coldStarts s c rate lost →
    ∃ t, exec c s = .next t ∧ t.power.drain = none ∧ t.link.rate = rate ∧
      t.link.inbound = ⟨[], [], 0, false, false, false⟩ ∧ t.link.holdOut = false ∧ t.link.slot = none ∧
      t.link.deferred = none ∧ t.link.deferredDone = none ∧ t.link.errors = 0 ∧ t.link.holdIn = s.link.holdIn ∧
      t.signals = ⟨false, false, false, false⟩ ∧
      (∀ k, ∃ l : List Detail, (∀ d ∈ l, ¬ startsParked s c ∧ startOccurrence k d) ∧
        noticed k (l.foldl Notice.occur ⟨true, false, 0, none⟩) t) ∧
      (∀ x, t.link.tx = some x → ∃ c n d, x = .notice c n d) ∧
      t.enc = ⟨none, none, s.enc.cardIn, none, none⟩ ∧
      (startsParked s c → t.power.state = .parked ∧ keepsSlots (cutErases s.store) t.store ∧
        t.store.engine = (cutErases s.store).engine ∧ t.store.nextAppend = s.store.nextAppend ∧
        t.store.suspended = none ∧ t.freeUses = s.freeUses ∧ t.journal.staging = [] ∧
        t.store.queue = [] ∧ (∀ i, (t.line i).running = false) ∧ t.link.tx = none) ∧
      (¬ startsParked s c → ∀ u, u = s.foundStore →
        t.power.state = .run ∧ keepsSlots u t.store ∧
        t.freeUses = s.freeUses + (match s.store.engine with
          | .programming _ => 1
          | _ => 0) ∧
        t.clock = (if s.clock.lost = true ∨ lost = true then ⟨0, 0, .invalid, false⟩ else s.clock) ∧
        t.store.identity = u.idPlaces.findSome? (fun p => match p with
          | .written i => some i
          | _ => none) ∧
        (∀ i, (t.line i).running = t.store.identity.isSome ∧ (t.line i).queue =
          (if t.store.identity.isSome = true ∧ t.clock.valid = .invalid then [⟨.standalone, .other, none, 0⟩] else []) ∧
          (t.store.identity.isSome = true →
            (t.line i).phase = 1 ∧ (t.line i).periodEnd = some (t.settings.period.get i))) ∧
        (∀ k n, t.nodes.get k = some n →
          n.link = ⟨if t.store.identity.isSome = true ∧ n.entry.enabled = true then .unknown else .disabled,
            0, 0, false, false, false, false, none⟩ ∧
          n.door = ⟨.closed, none, .none⟩ ∧ n.bar = ⟨.locked, false, none, none, false, none, none, 0, []⟩) ∧
        (∀ k r, t.rooms.get k = some r → r.privacy = false ∧ r.hold = false) ∧
        (∀ k r, t.cred.slots.get k = some r → r.state ≠ .pending) ∧
        (∀ n, n = t.journal.newest - t.journal.mark → t.journal.writer ≠ .overrun → t.journal.nextSeq ≤ max32 →
          noticed .journal ((if t.journal.writer = .full then [.full n] else if 9856 ≤ n then [.near n]
            else if 5632 ≤ n then [.half n] else [] : List Detail).foldl Notice.occur ⟨true, false, 0, none⟩) t) ∧
        (t.journal.writer ≠ .fault → (∀ k r, r ∈ (u.jsec k).cells → ∀ x, r = some x → x.seq < max32) →
          ∃ q clean, t.journal.staging.head? = some ⟨q, t.clock.minute, t.clock.second,
            ⟨.start, none, none, none, if clean = true then .clean else .unclean, .clock t.clock.valid, .none⟩⟩ ∧
          (q = 1 ∨ ∃ k x, some x ∈ (u.jsec k).cells ∧ x.seq + 1 = q) ∧
          ((∀ k, (u.jsec k).cells = []) → q = 1 ∧ clean = true) ∧
          ∀ k x, some x ∈ (u.jsec k).cells → (u.jsec k).interrupted = false →
            (∀ i y, some y ∈ (u.jsec i).cells → y = x ∨ y.seq < x.seq) →
            clean = decide (x.body.kind = .powerDown ∧ x.body.v2 = .complete)))

/-- What is durable comes back (R160, R185): after a cold start every price, every group, the settings and every
node's entry hold the contents of their newest table-log record, and their start value where there is none; a
room does too, but that its issue number is the highest of its own and those found on its ACTIVE GUEST credentials (R44;
that those lapsed by the same start count is the model's reading, notes/assumptions/35). A
credential's record does too, but that a PENDING one is REVOKED ISSUE_ABORTED and an ACTIVE one may be LAPSED at its
expiry or SUPERSEDED by its room's issue number (R44); the revocation list does, with the entries of those revocations
made and, the clock being VALID, its expired entries gone; the revocation count and the credential serial are no lower
than any sequence or number found. The journal-state entry gives the oldest retained sequence and, within the range
found, the collected mark (R147); with no record in the region the oldest retained is the next sequence (R143;
notes/assumptions/50). A program in progress has run to its end, sound or failed, which is a free value
(notes/assumptions/14). -/
def Obligations.TheTablesComeBack : Prop :=
  ∀ (s : State) (c : Instr) (rate : LinkRate) (lost : Bool) (l : List LogRec), coldStarts s c rate lost →
    ¬ startsParked s c → l = appliedRecs s.foundStore → (l.map LogRec.append).Nodup →
    (∀ q ∈ l, ∀ i a, q.key = .node i a → a ≤ 120) →
    ∃ t, exec c s = .next t ∧
      (∀ i e, newestHolds l (.price i) (.price e) → t.price i = e) ∧
      (∀ i, (∀ q ∈ l, q.key ≠ .price i) → t.price i = ⟨0, 0⟩) ∧
      (∀ g e, newestHolds l (.group g) (.group e) → t.group g = e) ∧
      (∀ g, (∀ q ∈ l, q.key ≠ .group g) → t.group g = ⟨false, .normal⟩) ∧
      (∀ x, newestHolds l .settings (.settings x) → t.settings = x) ∧
      ((∀ q ∈ l, q.key ≠ .settings) →
        t.settings = ⟨⟨250, 250, 250, 250⟩, ⟨5, 5, 5, 5⟩, 10, 5, 20, 120, 30, 15, .hold⟩) ∧
      (∀ i a v, newestHolds l (.node i a) (.node v) → (t.node i a).map Node.entry = v) ∧
      (∀ i a, a ≤ 120 → (∀ q ∈ l, q.key ≠ .node i a) → t.node i a = none) ∧
      (∀ i, newestHolds l (.room i) (.room none) → t.rooms.get i = none) ∧
      (∀ i e, newestHolds l (.room i) (.room (some e)) → ∃ r, t.rooms.get i = some r ∧ e.issue ≤ r.entry.issue ∧
        { r.entry with issue := e.issue } = e ∧
        (∀ k q, newestHolds l (.cred k) (.cred (some q)) → q.kind = .guest → q.state = .active → q.room = i →
          q.issue ≤ r.entry.issue) ∧
        (r.entry.issue = e.issue ∨ ∃ k q, newestHolds l (.cred k) (.cred (some q)) ∧ q.kind = .guest ∧
          q.state = .active ∧ q.room = i ∧ q.issue = r.entry.issue)) ∧
      (∀ i, (∀ q ∈ l, q.key ≠ .room i) → t.rooms.get i = none) ∧
      (∀ k, (newestHolds l (.cred k) (.cred none) ∨ ∀ q ∈ l, q.key ≠ .cred k) → t.cred.slots.get k = none) ∧
      (∀ k r, newestHolds l (.cred k) (.cred (some r)) → t.cred.slots.get k = some (
        if r.state = .pending then
          { r with state := .revoked, reason := some .issueAborted, revokedAt := t.clock.minute }
        else if r.state = .active ∧ t.clock.valid = .valid ∧ endBy t.clock.minute (t.expiry r) = true then
          { r with state := .lapsed }
        else if r.state = .active ∧ r.kind = .guest ∧ ∃ y, t.rooms.get r.room = some y ∧ y.entry.issue ≠ r.issue then
          { r with state := .superseded }
        else r)) ∧
      (∀ (found : CredUnit) (xs : List Listing), tablesFound l found →
        listsAll .issueAborted (found.slots.filter fun e => decide (e.2.state = .pending)) { t with cred := found } xs →
        (∀ k, t.cred.list.get k = (((xs.map Listing.list).getLast?.getD found.list).get k).map fun p =>
          ⟨p.seq, p.entry.filter fun e => decide (t.clock.valid = .invalid) || !endBy t.clock.minute e.expiry⟩) ∧
        t.cred.revCount = (xs.map Listing.count).getLast?.getD found.revCount ∧
        t.cred.serial = found.slots.foldl (fun m e => max m e.2.number) found.serial) ∧
      ∀ j, newestHolds l .journalState (.journalState j) →
        t.journal.oldest = (if t.store.journalRecs = [] then none else some j.oldest) ∧ t.journal.programmedMark = j.mark ∧
        (t.journal.writer ≠ .overrun → t.journal.mark = min t.journal.newest (max j.mark (j.oldest - 1)))

/-- The storm drain begins (R190, R192, R61, R87, R133, R169): PFW_ASSERTED in RUN and RESTART bring the part to
DRAINING, with a POWER occurrence; the reclaimer's list is gone and an erase in progress, running or suspended, is
broken off; the deferred COMMISSION is discarded; each RUNNING line breaks its cycle off, and, with no exchange
outstanding, sends its STANDALONE broadcast on leg A; every pending line of every minibar is finalised, in room index
order, as far as its places are there, and no minibar timer or mark is left; the encoder job is over, or holds the
outcome the drain gives it, released or aborted, with its cause. No slot of the store changes. RESTART is answered OK.
PFW_ASSERTED outside RUN, and PFW_DEASSERTED outside PARKED, change the level alone (R183). That a minibar that stops
does not stop the others, that a READ job's result is not kept, and the order of the step are the model's reading
(notes/assumptions/37, 45 and 49). -/
def Obligations.TheDrainBegins : Prop :=
  (∀ (s : State) (c : Instr) (cause : DrainCause),
    (c = .pfwAsserted ∧ s.power.state = .run ∧ cause = .pfw ∨
      ∃ h, c = .restart h ∧ accepts h s ∧ s.power.state = .run ∧ cause = .restart) →
    ∃ t, exec c s = .next t ∧
      t.power = { s.power with
        state := .draining, drain := some ⟨cause, false, none, false⟩
        pfw := if c = .pfwAsserted then true else s.power.pfw } ∧
      posted .power (.draining cause) s t ∧ (∀ h, c = .restart h → replied h [.ok] t) ∧
      t.store.work = [] ∧ t.store.idRequest = none ∧ t.store.suspended = none ∧
      (∀ e, t.store.engine ≠ .erasing e) ∧
      (∀ p, s.store.engine = .programming p → t.store.engine = .programming p) ∧
      keepsSlots s.store t.store ∧ t.store.identity = s.store.identity ∧ t.link.deferred = none ∧
      (∀ i, t.line i = if (s.line i).running = true then
          { s.line i with
            cycle := none
            exch := some ((s.line i).exch.getD (drainExchange s i .a)) }
        else s.line i) ∧
      (∀ j, t.enc.job = some j → j.kind = .issue ∧ j.outcome.isSome = true) ∧
      (∀ k n, t.nodes.get k = some n → n.entry.kind = .minibar →
        n.bar.latchEnd = none ∧ n.bar.graceEnd = none) ∧
      (∃ b u v, drainBegun s b ∧ barsCharged b.minibars b u ∧ jobDrained u v ∧
        t.nodes = v.nodes ∧ t.rooms = v.rooms ∧ t.cred = v.cred ∧ t.enc = v.enc ∧ t.journal = v.journal ∧
        queuesOnly [] v t ∧ ∀ c, c ≠ .power → c ≠ .store → postedAll c [] v t) ∧
      { t.link with
        slot := s.link.slot, deferred := s.link.deferred, tx := s.link.tx, notices := s.link.notices } = s.link ∧
      keepsBut [.power, .rooms, .nodes, .cred, .enc, .lines, .journal, .store, .link] s t) ∧
  (∀ s : State, (s.minibars.Pairwise fun x y => x.2.2.entry.room.getD 0 ≤ y.2.2.entry.room.getD 0) ∧
    ∀ e ∈ s.nodes, (keyLine e.1, keyAddr e.1, e.2) ∈ s.minibars ↔ e.2.entry.kind = .minibar) ∧
  (∀ s : State, s.power.state ≠ .run → exec .pfwAsserted s = .next { s with power := { s.power with pfw := true } }) ∧
  ∀ (s : State) (straps : LinkRate), s.power.state ≠ .parked →
    exec (.pfwDeasserted straps) s = .next { s with power := { s.power with pfw := false } }

/-- POWER_DOWN (R191): offered once, when the drain has nothing left to do, and marked COMPLETE where nothing is left
unapplied, INCOMPLETE where a stalled table log or a journal that can program nothing further leaves something; not
while a line is RUNNING, a job is in progress, a table change waits or more than 54 records are staged, and not again.
The drain ends as its record is programmed, as the staging queue empties where the record was not accepted, or as
the journal writer can program nothing further: with PFW asserted the part is PARKED and its encoder job is over, and
otherwise it waits for its cold start; a POWER occurrence is posted. That the job is over as the part parks is the
model's reading (notes/assumptions/52). -/
def Obligations.PowerDownIsOffered : Prop :=
  (∀ (s : State) (d : DrainInfo), s.power.state = .draining → s.power.drain = some d → d.offered = false →
    d.ended = false → (∀ i, (s.line i).running = false) → s.enc.job = none →
    (s.store.queue = [] ∧ s.store.waiting = [] ∨ s.store.stalled = true) →
    ((∀ e ∈ s.nodes, e.2.entry.kind = .minibar → e.2.bar.lines = []) → s.journal.staging.length ≤ 54 →
      s.journal.writer ≠ .fault → s.journal.owed = false →
      s.journal.nextSeq < max32 → s.journal.newest < s.journal.nextSeq → s.headFull = false →
      ∃ t, exec .powerDown s = .next t ∧
        t.journal = { s.journal with
          nextSeq := s.journal.nextSeq + 1
          staging := s.journal.staging ++ [⟨s.journal.nextSeq, s.clock.minute, s.clock.second,
            ⟨.powerDown, none, none, none, .drain d.cause,
              if s.store.queue = [] ∧ s.store.waiting = [] then .complete else .incomplete, .none⟩⟩] } ∧
        t.power = { s.power with drain := some { d with offered := true, seq := some s.journal.nextSeq } } ∧
        changesOnly [] [.power, .journal] [] s t) ∧
    ((s.journal.writer = .fault ∨ (s.headFull = true ∧ s.spareSec.erased = false ∧
        ∀ e ∈ s.nodes, e.2.entry.kind = .minibar → e.2.bar.lines = [])) →
      ∃ t complete, exec .powerDown s = .next t ∧
        (complete = true ↔ s.store.queue = [] ∧ s.store.waiting = [] ∧
          ∀ e ∈ s.nodes, e.2.entry.kind = .minibar → e.2.bar.lines = []) ∧
        journaled [⟨.powerDown, none, none, none, .drain d.cause, if complete = true then .complete else .incomplete,
          .none⟩] s t ∧
        posted .power .parked s t ∧
        (s.power.pfw = true → t.power = { s.power with state := .parked, drain := none }) ∧
        (s.power.pfw = false → ∃ q, t.power = { s.power with
          drain := some { d with offered := true, seq := q, ended := true } }) ∧
        changesOnly [] [.power, .enc, .journal] [.power, .journal] s t)) ∧
  (∀ s : State, (s.power.state ≠ .draining ∨ (∃ d, s.power.drain = some d ∧ d.offered = true) ∨
      (∃ i, (s.line i).running = true) ∨ (∃ j, s.enc.job = some j ∧ j.outcome = none) ∨
      (s.store.stalled = false ∧ (s.store.queue ≠ [] ∨ s.store.waiting ≠ [])) ∨
      (55 ≤ s.journal.staging.length ∧ s.journal.writer ≠ .fault ∧ (s.headFull = false ∨ s.spareSec.erased = true))) →
    exec .powerDown s = .next s) ∧
  (∀ (s : State) (d : DrainInfo) (k : Nat) (r : JRec), s.power.state = .draining → s.power.drain = some d →
    d.offered = true → d.ended = false → s.store.engine = .programming (.journal k r) →
    k = s.journal.head → (s.store.jsec k).hasSlot = true → (s.store.jsec k).cells.length ≤ 126 →
    ((∃ q, d.seq = some q ∧ q ≤ r.seq) ∨ (d.seq = none ∧ s.journal.staging.length ≤ 1)) →
    ∃ t, exec (.journalProgramComplete true) s = .next t ∧ posted .power .parked s t ∧
      (s.power.pfw = true → t.power = { s.power with state := .parked, drain := none } ∧ t.enc.job = none) ∧
      (s.power.pfw = false → t.power = { s.power with drain := some { d with ended := true } } ∧ t.enc = s.enc) ∧
      t.journal.staging = s.journal.staging.drop 1 ∧ t.journal.newest = r.seq ∧
      (t.store.jsec k).cells = (s.store.jsec k).cells ++ [some r] ∧
      (∀ i, i ≠ k → t.store.jsec i = s.store.jsec i) ∧ t.store.tlog = s.store.tlog ∧
      keepsBut [.power, .enc, .journal, .store, .link, .signals] s t) ∧
  ∀ (s : State) (d : DrainInfo) (k : Nat) (r : JRec) (sound : Bool), s.power.state = .draining →
    s.power.drain = some d → d.offered = true → d.ended = false → s.store.engine = .programming (.journal k r) →
    k = s.journal.head → k ≠ s.journal.spare → s.journal.writer ≠ .fault →
    ((s.spareSec.erased = false ∧ (s.store.jsec k).cells.length = 127) ∨
      (sound = false ∧ (s.store.jsec k).spoiledCount = 2 ∧ (s.store.jsec k).retired = false ∧ 40 ≤ k ∧ k ≤ 127 ∧
        s.store.usableJournal ≤ 2)) →
    ∃ t, exec (.journalProgramComplete sound) s = .next t ∧ posted .power .parked s t ∧
      (s.power.pfw = true → t.power = { s.power with state := .parked, drain := none } ∧ t.enc.job = none) ∧
      (s.power.pfw = false → t.power = { s.power with drain := some { d with ended := true } } ∧ t.enc = s.enc) ∧
      keepsBut [.power, .enc, .journal, .store, .link, .signals] s t

/-! ## The desk link (Chapter 9) -/

/-- CHARACTER_RECEIVED (R170, R172): a character joins the partly received line, and marks it bad with a framing
error; the 241st that is no CR and the 242nd that is no LF make it overlong, after which no character is kept; one
that finds the buffer full is not kept and marks the line overflowed. LINE_DISCARD_CHARACTER empties the partly
received line. DESK_LINE_RECEIVED (R171): the line of CR and LF alone leaves in silence, a marked or unreadable one
raises the link-error tally, any other is a request behind the earlier ones, and the oldest is taken where one can
be. That the character which makes a line overlong is kept is the model's choice (notes/assumptions/21).
TAKE_REQUEST (R173, R175): the oldest request leaves the buffer and is handled as its command is; a verb not in the
catalogue is answered E_VERB. -/
def Obligations.RequestsAreReceivedAndTaken : Prop :=
  (∀ (s : State) (c : Byte) (bad : Bool) (b : Inbound), s.working = true → c ≠ 0x0A → c ≠ 0x18 →
    b = s.link.inbound →
    ∃ t, exec (.characterReceived c bad) s = .next t ∧
      (b.overlong = false → b.chars < 2048 → changesOnly [] [] [] (s.withInbound { b with
        part := b.part ++ [c], seen := b.seen + 1, bad := b.bad || bad
        overlong := decide (b.seen = 240 ∧ c ≠ 0x0D ∨ 240 < b.seen) }) t) ∧
      (b.overlong = true → changesOnly [] [] [] (s.withInbound { b with
        seen := b.seen + 1, bad := b.bad || bad }) t) ∧
      (b.overlong = false → 2048 ≤ b.chars → changesOnly [] [] [] (s.withInbound { b with
        seen := b.seen + 1, bad := b.bad || bad, overflowed := true
        overlong := decide (b.seen = 240 ∧ c ≠ 0x0D ∨ 240 < b.seen) }) t)) ∧
  (∀ s : State, s.working = true →
    ∃ t, exec .lineDiscardCharacter s = .next t ∧
      changesOnly [] [] [] (s.withInbound ⟨s.link.inbound.requests, [], 0, false, false, false⟩) t) ∧
  (∀ (s : State) (bad : Bool) (b : Inbound), s.working = true → b = s.link.inbound → b.chars < 2048 →
    b.overlong = false →
    (b.bad = false → bad = false → b.overflowed = false → b.seen ≠ 240 → b.seen ≤ 241 → b.part = [0x0D] →
      exec (.deskLineReceived bad) s = exec .takeRequest
        ((s.withInbound { b with part := [0x0D, 0x0A] }).withInbound ⟨b.requests, [], 0, false, false, false⟩)) ∧
    ((b.bad = true ∨ bad = true ∨ b.overflowed = true ∨ (b.seen = 240 ∨ 241 < b.seen) ∨
        (b.part ≠ [0x0D] ∧ readLine (b.part ++ [0x0A]) = none)) →
      ∃ u, u = (s.withInbound { b with part := b.part ++ [0x0A] }).withInbound
          ⟨b.requests, [], 0, false, false, false⟩ ∧
        exec (.deskLineReceived bad) s = exec .takeRequest
          { u with link := { u.link with errors := satSucc max32 u.link.errors } }) ∧
    (b.bad = false → bad = false → b.overflowed = false → b.seen ≠ 240 → b.seen ≤ 241 → b.part ≠ [0x0D] →
      (readLine (b.part ++ [0x0A])).isSome = true →
      exec (.deskLineReceived bad) s = exec .takeRequest (s.withInbound
        ⟨b.requests ++ [b.part ++ [0x0A]], [], 0, false, false, false⟩))) ∧
  (∀ (s : State) (bad : Bool), s.working = true →
    (2048 ≤ s.link.inbound.chars ∨ s.link.inbound.overlong = true) →
    ∃ u, u = (s.withInbound s.link.inbound).withInbound ⟨s.link.inbound.requests, [], 0, false, false, false⟩ ∧
      exec (.deskLineReceived bad) s = exec .takeRequest
        { u with link := { u.link with errors := satSucc max32 u.link.errors } }) ∧
  (∀ (s : State) (line : List Byte) (rest : List (List Byte)) (tag : List (Fin 10)) (parts : List (List Byte)),
    s.takesRequest = true → s.link.inbound.requests = line :: rest → readLine line = some (tag, parts) →
    (∀ i, readRequest tag parts = some i → exec .takeRequest s =
      exec i (s.withInbound { s.link.inbound with requests := rest })) ∧
    (readRequest tag parts = none → ∃ t, exec .takeRequest s = .next t ∧
      answersOnly ⟨tag, false⟩ [.err .verb] [] [] []
        (s.withInbound { s.link.inbound with requests := rest }) t)) ∧
  ∀ s : State, (s.takesRequest = false ∨ s.link.inbound.requests = []) →
    ∃ t, exec .takeRequest s = .next t ∧ changesOnly [] [] [] s t

/-- HOLD_IN_ASSERTED and HOLD_IN_RELEASED (R177) change the level, and a released transmitter begins its next line.
TRANSMIT_LINE_COMPLETE (R173, R174, R177, R180): the next line of the reply is begun before any notice; after its
last line the slot empties, a completed deferred reply takes it, or the next request is taken; with no reply the
first pending class is sent and its mark, its count and its detail cleared; while HOLD_IN is asserted nothing is
begun. A reply's first line carries OK, ACCEPTED or ERR behind its tag, and its further lines `+` (R175, R176); a
notice begins with `*` (R180); every line closes with its check, in upper case, and CR LF (R171, R197). -/
def Obligations.TheTransmitterSendsLines : Prop :=
  (∀ y : RLine, (y.form = .err ↔ ∃ c, y = .err c) ∧
    (y.form = .accepted ↔ y = .readStarted ∨ ∃ n k i a b, y = .issued n k i a b) ∧ y.form ≠ .continuation) ∧
  (∀ x : TxLine, checkedBody x.chars = some x.body ∧
    (∃ c : List Byte, c.length = 4 ∧ (∀ b ∈ c, (0x30 ≤ b ∧ b ≤ 0x39) ∨ (0x41 ≤ b ∧ b ≤ 0x46)) ∧
      x.chars = x.body ++ 0x3B :: c ++ [0x0D, 0x0A]) ∧
    match x with
    | .reply tag form _ => ∃ more, x.body = tag.map (fun d => BitVec.ofNat 8 (48 + d.val)) ++ 0x20 :: (match form with
        | .ok => [0x4F, 0x4B]
        | .accepted => [0x41, 0x43, 0x43, 0x45, 0x50, 0x54, 0x45, 0x44]
        | .err => [0x45, 0x52, 0x52]
        | .continuation => [0x2B]) ++ 0x20 :: more
    | .notice _ _ _ => ∃ more, x.body = 0x2A :: 0x20 :: more) ∧
  (∀ s : State, exec .holdInAsserted s = .next { s with link := { s.link with holdIn := true } }) ∧
  (∀ s : State, ∃ t, exec .holdInReleased s = .next t ∧
    changesOnly [] [] [] { s with link := { s.link with holdIn := false } } t ∧
    ∀ r y, s.power.state ≠ .off → s.link.tx = none → s.link.slot = some r → r.lines[r.begun]? = some y →
      t.link.tx = some (.reply r.tag (if r.begun = 0 then y.form else .continuation) y)) ∧
  (∀ (s : State) (x : TxLine) (r : ReplySlot) (y : RLine), s.link.tx = some x → s.link.slot = some r →
    r.lines[r.begun]? = some y → s.power.state ≠ .off →
    ∃ t, exec .transmitLineComplete s = .next t ∧
      t.link.tx = (if s.link.holdIn = true then none
        else some (.reply r.tag (if r.begun = 0 then y.form else .continuation) y)) ∧
      t.link.slot = some (if s.link.holdIn = true then r else { r with begun := r.begun + 1 }) ∧
      changesOnly [] [] [] { s with link := { s.link with tx := none } } t) ∧
  (∀ (s : State) (r : ReplySlot) (tag : List (Fin 10)) (form : ReplyForm) (y : RLine),
    s.link.tx = some (.reply tag form y) → s.link.slot = some r → r.lines.length ≤ r.begun →
    s.link.deferredDone = none →
    exec .transmitLineComplete s = exec .takeRequest { s with link := { s.link with tx := none, slot := none } }) ∧
  (∀ (s : State) (r : ReplySlot) (tag done : List (Fin 10)) (form : ReplyForm) (y : RLine) (lines : List RLine),
    s.link.tx = some (.reply tag form y) → s.link.slot = some r → r.lines.length ≤ r.begun →
    s.link.deferredDone = some (done, lines) →
    ∃ t, exec .transmitLineComplete s = .next t ∧ replied ⟨done, false⟩ lines t ∧ t.link.deferredDone = none ∧
      t.link.inbound = s.link.inbound ∧ keepsCells s t ∧ queuesOnly [] s t ∧ keepsBut [.store, .link] s t) ∧
  ∀ (s : State) (x : TxLine) (c : NoticeClass) (p : Program) (before after : List NoticeClass),
    s.power.state = .run → s.link.tx = some x → s.link.slot = none → s.link.holdIn = false →
    (∀ tag form y, x ≠ .reply tag form y) → s.store.engine = .programming p →
    [.alarm, .power, .store, .line, .issue, .journal, .minibar, .clock] = before ++ c :: after →
    (∀ d ∈ before, (s.link.notices.get d).pending = false) → (s.link.notices.get c).pending = true →
    ∃ t, exec .transmitLineComplete s = .next t ∧
      t.link.tx = some (.notice c (s.link.notices.get c).count (s.link.notices.get c).detail) ∧
      t.link.notices.get c = { s.link.notices.get c with pending := false, count := 0, detail := none } ∧
      (∀ d, d ≠ c → t.link.notices.get d = s.link.notices.get d) ∧ keepsBut [.link] s t ∧
      { t.link with tx := s.link.tx, notices := s.link.notices } = s.link

/-! ## The journal and the store (Chapters 7 and 8) -/

/-- The acceptance of records (R137 to R139): what the staging queue takes from an ordinary record, with and without
drops owed, from a money record and from an OVERRUN record, and what it drops and tallies. The record that takes the
last sequence exhausts the journal: the EXHAUSTED occurrence is posted and the held OVERRUN records are dropped and
tallied (`State.exhaustedBy`); that with drops owed and one sequence left the GAP record takes it and the record is
dropped is the model's choice (notes/assumptions/64). HELD_OVERRUN_ACCEPT (R145, R146): on a space signal the oldest
held OVERRUN record takes the freed place. -/
def Obligations.RecordsAreAccepted : Prop :=
  (∀ (s : State) (b : JBody) (n : Nat), n = s.journal.staging.length →
    ((s.journal.writer = .fault ∨ max32 < s.journal.nextSeq ∨ (s.journal.owed = true ∧ 55 ≤ n) ∨ 56 ≤ n) →
      offer b s = { s with journal := if b.kind = .admitted ∨ b.kind = .refuse
        then { s.journal with dropAdm := min (s.journal.dropAdm + 1) max32 }
        else { s.journal with dropOther := min (s.journal.dropOther + 1) max32 } }) ∧
    (s.journal.writer ≠ .fault → s.journal.nextSeq < max32 → s.journal.owed = false → n ≤ 55 →
      offer b s = { s with journal := { s.journal with
        nextSeq := s.journal.nextSeq + 1
        staging := s.journal.staging ++ [⟨s.journal.nextSeq, s.clock.minute, s.clock.second, b⟩] } }) ∧
    (s.journal.writer ≠ .fault → s.journal.nextSeq + 1 < max32 → s.journal.owed = true → n ≤ 54 →
      offer b s = { s with journal := { s.journal with
        dropAdm := 0, dropOther := 0, nextSeq := s.journal.nextSeq + 2
        staging := s.journal.staging ++ [⟨s.journal.nextSeq, s.clock.minute, s.clock.second,
            ⟨.gap, none, none, none, .num s.journal.dropAdm, .num s.journal.dropOther, .none⟩⟩,
          ⟨s.journal.nextSeq + 1, s.clock.minute, s.clock.second, b⟩] } }) ∧
    (s.journal.writer ≠ .fault → s.journal.nextSeq = max32 → s.journal.owed = false → n ≤ 55 →
      offer b s = s.exhaustedBy b) ∧
    (s.journal.writer ≠ .fault → s.journal.owed = true → n ≤ 54 → ∀ gap : JBody,
      gap = ⟨.gap, none, none, none, .num s.journal.dropAdm, .num s.journal.dropOther, .none⟩ →
      (s.journal.nextSeq + 1 = max32 → offer b s = State.exhaustedBy { s with journal := { s.journal with
          dropAdm := 0, dropOther := 0, nextSeq := max32
          staging := s.journal.staging ++ [⟨s.journal.nextSeq, s.clock.minute, s.clock.second, gap⟩] } } b) ∧
      (s.journal.nextSeq = max32 → ∀ u,
        u = State.exhaustedBy { s with journal := { s.journal with dropAdm := 0, dropOther := 0 } } gap →
        offer b s = { u with journal := if b.kind = .admitted ∨ b.kind = .refuse
          then { u.journal with dropAdm := 1 }
          else { u.journal with dropOther := min (u.journal.dropOther + 1) max32 } })) ∧
    (s.journal.writer ≠ .fault → s.journal.nextSeq = max32 → n ≤ 63 → offerMoney b s = some (s.exhaustedBy b)) ∧
    ((s.journal.writer = .fault ∨ max32 < s.journal.nextSeq ∨ 64 ≤ n) → offerMoney b s = none) ∧
    (s.journal.writer ≠ .fault → s.journal.nextSeq < max32 → n ≤ 63 →
      offerMoney b s = some { s with journal := { s.journal with
        nextSeq := s.journal.nextSeq + 1
        staging := s.journal.staging ++ [⟨s.journal.nextSeq, s.clock.minute, s.clock.second, b⟩] } })) ∧
  (∀ (s : State) (first last : Nat) (b : JBody), b = ⟨.overrun, none, none, none, .num first, .num last, .none⟩ →
    ((s.journal.writer = .fault ∨ max32 < s.journal.nextSeq) →
      (offerOverrun (first, last) s).journal = s.journal.tally .overrun) ∧
    (s.journal.writer ≠ .fault → s.journal.nextSeq < max32 → s.journal.staging.length ≤ 63 →
      offerOverrun (first, last) s = { s with journal := { s.journal with
        nextSeq := s.journal.nextSeq + 1
        staging := s.journal.staging ++ [⟨s.journal.nextSeq, s.clock.minute, s.clock.second, b⟩] } }) ∧
    (s.journal.writer ≠ .fault → s.journal.nextSeq = max32 → s.journal.staging.length ≤ 63 →
      offerOverrun (first, last) s = s.exhaustedBy b) ∧
    (s.journal.writer ≠ .fault → s.journal.nextSeq ≤ max32 → 64 ≤ s.journal.staging.length →
      offerOverrun (first, last) s = { s with journal := { s.journal with
        heldOverruns := s.journal.heldOverruns ++ [(first, last)] } })) ∧
  ∀ (s : State) (first last : Nat) (rest : List (Nat × Nat)), s.working = true → s.signals.overrun = true →
    s.journal.heldOverruns = (first, last) :: rest →
    ∃ t, exec .heldOverrunAccept s = .next t ∧ t.signals = { s.signals with overrun := false } ∧
      (s.journal.writer ≠ .fault → s.journal.nextSeq < max32 → s.journal.staging.length ≤ 63 →
        t.journal = { s.journal with
          heldOverruns := rest, nextSeq := s.journal.nextSeq + 1
          staging := s.journal.staging ++ [⟨s.journal.nextSeq, s.clock.minute, s.clock.second,
            ⟨.overrun, none, none, none, .num first, .num last, .none⟩⟩] } ∧
        changesOnly [] [.journal, .signals] [] s t) ∧
      (s.journal.writer ≠ .fault → s.journal.nextSeq = max32 → s.journal.staging.length ≤ 63 →
        t.journal = (State.exhaustedBy { s with journal := { s.journal with heldOverruns := rest } }
          ⟨.overrun, none, none, none, .num first, .num last, .none⟩).journal ∧
        posted .journal .exhausted s t ∧ changesOnly [] [.journal, .signals] [.journal] s t) ∧
      (64 ≤ s.journal.staging.length → t.journal = s.journal ∧ changesOnly [] [.signals] [] s t)

/-- JOURNAL_PROGRAM_COMPLETE (R140, R141, R150, R166): a sound program leaves its record in the head's next slot, takes
it from the staging queue, makes it the newest programmed, signals space and posts HALF or NEAR as the uncollected count
rises to the level; in a region that held no record it is the oldest retained (R143; notes/assumptions/31). A failed one
spoils the slot and leaves the record to be programmed again, and the third spoiled slot retires the sector, with its
STORE_FAULT record and its STORE occurrence, JOURNAL_FAULT following where fewer than 2 usable sectors remain (R166,
R168). A program of either end that uses the head's last slot leaves the head full, and the head-full test follows
(`headFilled`): the head moves, or the writer waits for the spare, is FULL, or takes the OVERWRITE path (R142, R144,
R145). PROGRAM_TIMEOUT (R156) is the failure of the program in progress, whatever it is. -/
def Obligations.JournalProgramsComplete : Prop :=
  (∀ (s : State) (k : Nat) (r : JRec) (base : Journal) (posts : List Detail), s.power.state = .run →
    s.store.engine = .programming (.journal k r) → k = s.journal.head → (s.store.jsec k).hasSlot = true →
    base = { s.journal with
      staging := s.journal.staging.drop 1, newest := r.seq
      oldest := some (match s.journal.oldest with
        | none => r.seq
        | some q => min q r.seq) } →
    posts = levelPosts (s.journal.newest - s.journal.mark) (r.seq - s.journal.mark) →
    ∃ t, exec (.journalProgramComplete true) s = .next t ∧
      t.signals = { s.signals with minibar := true, credential := true, overrun := true } ∧
      t.store.jsec k = { s.store.jsec k with cells := (s.store.jsec k).cells ++ [some r] } ∧
      (∀ i, i ≠ k → t.store.jsec i = s.store.jsec i) ∧ t.store.tlog = s.store.tlog ∧
      t.store.idPlaces = s.store.idPlaces ∧ t.store.identity = s.store.identity ∧ storePosts none s t ∧
      keepsBut [.journal, .store, .link, .signals] s t ∧
      (((s.store.jsec k).cells.length ≤ 126 ∨ s.journal.writer = .fault) →
        t.journal = base ∧ postedAll .journal posts s t ∧ queuesOnly [] s t) ∧
      ((s.store.jsec k).cells.length = 127 → s.journal.writer ≠ .fault → s.journal.spare ≠ k →
        headFilled base posts s t)) ∧
  (∀ (s : State) (k : Nat) (r : JRec) (c : Instr), s.power.state = .run →
    s.store.engine = .programming (.journal k r) → (c = .journalProgramComplete false ∨ c = .programTimeout) →
    ∃ t, exec c s = .next t ∧ (t.store.jsec k).cells = (s.store.jsec k).cells ++ [none] ∧
      (∀ i, i ≠ k → t.store.jsec i = s.store.jsec i) ∧ t.store.tlog = s.store.tlog ∧
      t.store.idPlaces = s.store.idPlaces ∧ t.store.identity = s.store.identity ∧
      queuesOnly [.journalState] s t ∧ keepsBut [.journal, .store, .link] s t ∧
      ((s.store.jsec k).spoiledCount ≤ 1 → (t.store.jsec k).retired = (s.store.jsec k).retired ∧ storePosts none s t) ∧
      ((s.store.jsec k).spoiledCount ≤ 1 → (s.store.jsec k).cells.length ≤ 126 → k = s.journal.head →
        (s.store.jsec k).hasSlot = true → t.journal = s.journal ∧ (t.store.jsec k).retired = false) ∧
      ((s.store.jsec k).spoiledCount ≤ 1 → (s.store.jsec k).cells.length = 127 → k = s.journal.head →
        (s.store.jsec k).hasSlot = true → s.journal.writer ≠ .fault → s.journal.spare ≠ k →
        headFilled s.journal [] s t) ∧
      ((s.store.jsec k).spoiledCount = 2 → (t.store.jsec k).retired = true ∧
        ((s.store.jsec k).retired = false → storePosts (some (k, .spoiledSlots)) s t ∧
          (s.journal.writer ≠ .fault → (t.journal.writer = .fault ↔ t.store.usableJournal < 2))) ∧
        (s.journal.writer ≠ .fault → s.journal.nextSeq < max32 → s.journal.owed = false →
          s.journal.staging.length ≤ 55 → (s.store.jsec k).retired = false →
          ∃ x ∈ t.journal.staging, x.seq = s.journal.nextSeq ∧
            x.body = ⟨.storeFault, none, none, none, .num k, .retire .spoiledSlots, .none⟩))) ∧
  ∀ (s : State) (p : Program), s.store.engine = .programming p →
    exec .programTimeout s = exec (match p with
      | .journal _ _ => .journalProgramComplete false
      | .table _ _ _ => .tableLogProgramComplete false
      | .copy _ _ _ => .copyForwardComplete false
      | .identity _ _ => .identityProgramComplete false) s

/-- TABLE_LOG_PROGRAM_COMPLETE (R161, R162, R50, R147): a sound program appends its record to the head under the next
append count, reports the entry to the block that waits on it, and frees its place with a space signal, unless the
place's contents are newer. COPY_FORWARD_COMPLETE (R164) appends alike, frees no place and reports nothing. A
failed program of either kind spoils its slot, appends nothing and frees no place; the third spoiled slot retires
the sector, with its STORE_FAULT record and its STORE occurrence, and below 30 usable sectors the tables are read-only,
which posts READ_ONLY as it comes to be (R166, R167). A head filled with no other erased usable sector stalls the table
log, which posts STALLED (R165). -/
def Obligations.TableProgramsComplete : Prop :=
  (∀ (s : State) (k : Nat) (key : EntryKey) (v : EntryVal), s.power.state = .run →
    s.store.engine = .programming (.table k key v) →
    ∃ t, exec (.tableLogProgramComplete true) s = .next t ∧
      t.store.tsec k = { s.store.tsec k with
        cells := (s.store.tsec k).cells ++ [some ⟨s.store.nextAppend, key, v⟩] } ∧
      (∀ i, i ≠ k → t.store.tsec i = s.store.tsec i) ∧ t.store.nextAppend = s.store.nextAppend + 1 ∧
      t.store.jreg = s.store.jreg ∧ t.store.idPlaces = s.store.idPlaces ∧ t.store.identity = s.store.identity ∧
      t.store.readOnly = s.store.readOnly ∧ t.store.waiting = s.store.waiting ∧ queuesOnly [key] s t ∧
      storePosts none s t ∧
      (k = s.store.head → (s.store.tsec k).cells.length = 127 →
        (∀ i, i < 40 → i ≠ k → (s.store.tsec i).erased = false ∨ (s.store.tsec i).retired = true) →
        t.store.stalled = true) ∧
      ((∃ p ∈ s.store.queue, p.key = key ∧ p.fresh = false) → t.store.contents key = none ∧
        t.signals = { s.signals with minibar := true, credential := true, waiting := true }) ∧
      ((∀ p ∈ s.store.queue, p.key = key → p.fresh = true) →
        t.store.contents key = s.store.contents key ∧ t.signals = s.signals) ∧
      t.enc = (match v with
        | .cred (some r) => if r.state = .pending then { s.enc with report := some r.number } else s.enc
        | _ => s.enc) ∧
      t.journal = (match v with
        | .journalState j => { s.journal with programmedMark := j.mark }
        | _ => s.journal) ∧
      keepsBut [.enc, .journal, .store, .link, .signals] s t) ∧
  (∀ (s : State) (k : Nat) (key : EntryKey) (v : EntryVal), s.power.state = .run →
    s.store.engine = .programming (.copy k key v) →
    ∃ t, exec (.copyForwardComplete true) s = .next t ∧
      t.store.tsec k = { s.store.tsec k with
        cells := (s.store.tsec k).cells ++ [some ⟨s.store.nextAppend, key, v⟩] } ∧
      (∀ i, i ≠ k → t.store.tsec i = s.store.tsec i) ∧ t.store.nextAppend = s.store.nextAppend + 1 ∧
      t.store.jreg = s.store.jreg ∧ t.store.idPlaces = s.store.idPlaces ∧ t.store.identity = s.store.identity ∧
      t.store.readOnly = s.store.readOnly ∧ storePosts none s t ∧ queuesOnly [] s t ∧
      keepsBut [.store, .link] s t) ∧
  ∀ (s : State) (k : Nat) (key : EntryKey) (v : EntryVal) (c : Instr), s.power.state = .run →
    (s.store.engine = .programming (.table k key v) ∧ c = .tableLogProgramComplete false ∨
      s.store.engine = .programming (.copy k key v) ∧ c = .copyForwardComplete false) →
    ∃ t, exec c s = .next t ∧ (t.store.tsec k).cells = (s.store.tsec k).cells ++ [none] ∧
      (∀ i, i ≠ k → t.store.tsec i = s.store.tsec i) ∧ t.store.nextAppend = s.store.nextAppend ∧
      t.store.jreg = s.store.jreg ∧ t.store.idPlaces = s.store.idPlaces ∧ t.store.identity = s.store.identity ∧
      queuesOnly [] s t ∧
      ((s.store.tsec k).spoiledCount ≤ 1 → (t.store.tsec k).retired = (s.store.tsec k).retired ∧
        t.store.readOnly = s.store.readOnly ∧ storePosts none s t ∧ keepsBut [.store, .link] s t) ∧
      ((s.store.tsec k).spoiledCount = 2 → (s.store.tsec k).retired = false →
        (t.store.tsec k).retired = true ∧
        t.store.readOnly = (s.store.readOnly || decide (t.store.usableLog < 30)) ∧
        storePosts (some (k, .spoiledSlots)) s t ∧
        journaled [⟨.storeFault, none, none, none, .num k, .retire .spoiledSlots, .none⟩] s t ∧
        keepsBut [.journal, .store, .link] s t)

/-- ERASE_COMPLETE (R142, R143, R147, R159, R164, R166): a sound erase leaves its sector erased and its item ended;
that of the journal's spare gives the oldest retained sequence, the first of the next sector of the retained range
that holds records, or, with none, the next sequence (that a retired sector passed over on an earlier round is not
counted again is the model's reading: notes/assumptions/31), and queues the journal-state entry, and a head that
waits for it moves; the erase of any other journal sector queues that entry and changes nothing else of the journal.
A failed one retires the sector, its records staying in it, with its STORE_FAULT record and its STORE occurrence, and
READ_ONLY, JOURNAL_FAULT and STALLED are posted as they come to be (R165 to R168). ERASE_RUN_LIMIT (R156) is the failure of the erase in
progress. What a failed erase leaves to be found by a cold start is a free value (notes/assumptions/11). -/
def Obligations.ErasesComplete : Prop :=
  (∀ (s : State) (e : EraseRun) (k : Nat), s.power.state = .run → s.store.engine = .erasing e →
    k = e.work.sector → s.store.work.Nodup →
    ∃ t, exec (.eraseComplete true) s = .next t ∧ e.work ∉ t.store.work ∧ t.store.nextAppend = s.store.nextAppend ∧
      t.store.idPlaces = s.store.idPlaces ∧ t.store.identity = s.store.identity ∧
      t.store.readOnly = s.store.readOnly ∧ storePosts none s t ∧
      (k < 40 → t.store.tsec k = ⟨[], false, false, false⟩ ∧ (∀ i, i ≠ k → t.store.tsec i = s.store.tsec i) ∧
        t.store.jreg = s.store.jreg ∧ queuesOnly [] s t ∧ keepsBut [.store, .link] s t) ∧
      (40 ≤ k → t.store.jsec k = ⟨[], false, false, false⟩ ∧ (∀ i, i ≠ k → t.store.jsec i = s.store.jsec i) ∧
        t.store.tlog = s.store.tlog ∧ queuesOnly [.journalState] s t ∧ keepsBut [.journal, .store, .link] s t ∧
        (s.journal.writer = .fault → t.journal = s.journal) ∧
        (k = s.journal.spare → s.journal.head ≠ k → s.headFull = false → s.journal.writer ≠ .fault →
          s.store.canQueue [.journalState] 0 = true →
          placed [.journalState] t ∧ ∀ (range : List Nat) (o : Option Nat),
            range = (circleAfter k).takeWhile (fun i => decide (i ≠ s.journal.head)) ++ [s.journal.head] →
            o = (range.findSome? fun i => (s.store.jsec i).recs.head?.filter fun r =>
              decide (s.journal.oldest.getD s.journal.nextSeq ≤ r.seq)).map JRec.seq →
            t.journal = { s.journal with oldest := o }) ∧
        (k ≠ s.journal.spare → s.journal.writer ≠ .fault → t.journal = s.journal ∧
          (s.store.canQueue [.journalState] 0 = true → placed [.journalState] t)) ∧
        (k = s.journal.spare → s.headFull = true → s.journal.head ≠ k → s.journal.writer = .waitingSpare →
          t.journal.head = k ∧ t.journal.writer = .writing ∧
          t.journal.spare = ((circleAfter k).find? fun i => !(t.store.jsec i).retired).getD k))) ∧
  (∀ (s : State) (e : EraseRun) (k : Nat), s.power.state = .run → s.store.engine = .erasing e →
    k = e.work.sector → s.store.work.Nodup → (e.work.kind = .evacuation → s.store.liveIn k = []) →
    ∃ t, exec (.eraseComplete false) s = .next t ∧ e.work ∉ t.store.work ∧ t.freeUses = s.freeUses + 1 ∧
      keepsSlots s.store t.store ∧ t.store.nextAppend = s.store.nextAppend ∧ t.store.identity = s.store.identity ∧
      storePosts (some (k, .eraseFailed)) s t ∧
      (k < 40 → (t.store.tsec k).retired = true ∧ (∀ i, i ≠ k → t.store.tsec i = s.store.tsec i) ∧
        t.store.jreg = s.store.jreg ∧ queuesOnly [] s t ∧
        t.store.readOnly = (s.store.readOnly || decide (t.store.usableLog < 30)) ∧
        journaled [⟨.storeFault, none, none, none, .num k, .retire .eraseFailed, .none⟩] s t ∧
        keepsBut [.journal, .store, .link, .freeUses] s t) ∧
      (40 ≤ k → (t.store.jsec k).retired = true ∧ (∀ i, i ≠ k → t.store.jsec i = s.store.jsec i) ∧
        t.store.tlog = s.store.tlog ∧ queuesOnly [.journalState] s t ∧
        (t.store.usableJournal < 2 → t.journal.writer = .fault) ∧
        (k ≠ s.journal.head → k ≠ s.journal.spare → 2 ≤ t.store.usableJournal →
          journaled [⟨.storeFault, none, none, none, .num k, .retire .eraseFailed, .none⟩] s t) ∧
        keepsBut [.journal, .store, .link, .freeUses] s t)) ∧
  ∀ (s : State) (e : EraseRun), s.store.engine = .erasing e →
    exec .eraseRunLimit s = exec (.eraseComplete false) s

/-- PRE_ERASE (R142) places the spare's erase once the mark that makes it reclaimable has been programmed, and not
before. ERASE_SUSPEND (R158): an erase that has run 1 ms is ordered suspended where a program waits, up to 8 times.
SUSPENSION_TAKES_EFFECT (R158): the erase stands suspended and a waiting program is carried out, or with none it
resumes. WAITING_SET_PLACEMENT (R160): on a space signal the entries of the waiting set take their places, with the
contents they now hold. That a waiting identity program goes ahead of a table-log program is the model's choice where
the latter waited first (notes/assumptions/69). -/
def Obligations.StoreWorkGoesOn : Prop :=
  (∀ s : State, s.power.state = .run →
    (s.journal.writer ≠ .fault → s.spareSec.erased = false → s.spareSec.retired = false →
      (∀ r ∈ s.spareSec.recs, r.seq ≤ s.journal.mark ∧ r.seq ≤ s.journal.programmedMark) →
      (∀ w ∈ s.store.work, w.sector ≠ s.journal.spare) →
      ∃ t, exec .preErase s = .next t ∧ (⟨s.journal.spare, .journalErase⟩ : Work) ∈ t.store.work ∧
        changesOnly [] [] [] s t) ∧
    ((∃ r ∈ s.spareSec.recs, s.journal.programmedMark < r.seq) → exec .preErase s = .next s)) ∧
  (∀ (s : State) (e : EraseRun), s.working = true → s.store.engine = .erasing e → e.ran = false → e.ordered = false →
    ∃ t, exec .eraseSuspend s = .next t ∧ changesOnly [] [] [] s t ∧ t.store.engine = .erasing
      (if e.suspensions < 8 ∧ (s.store.tableRequest.isSome = true ∨ s.journalRequest.isSome = true)
        then { e with ran := true, ordered := true, suspensions := e.suspensions + 1 } else { e with ran := true })) ∧
  (∀ (s : State) (e : EraseRun), s.working = true → s.store.engine = .erasing e → e.ordered = true →
    ∃ t, exec .suspensionTakesEffect s = .next t ∧ changesOnly [] [] [] s t ∧
      ((s.store.tableRequest.isSome = true ∨ s.journalRequest.isSome = true) →
        t.store.suspended = some { e with ordered := false } ∧
        ∃ p, t.store.engine = .programming p ∧ (s.store.tableRequest = some p ∨ s.journalRequest = some p)) ∧
      (s.store.tableRequest = none → s.journalRequest = none → t.store.suspended = none ∧
        t.store.engine = .erasing { e with ran := false, ordered := false })) ∧
  ∀ s : State, s.working = true → s.signals.waiting = true →
    (∀ k ∈ s.store.waiting, ∀ p ∈ s.store.queue, p.key ≠ k) →
    s.store.queue.length + s.store.waiting.length ≤ 64 →
    ∃ t, exec .waitingSetPlacement s = .next t ∧ t.signals = { s.signals with waiting := false } ∧
      t.store.waiting = [] ∧ placed s.store.waiting t ∧ changesOnly s.store.waiting [.signals] [] s t
end

