-- ==== Sys2Proof/Laws/State.lean ====
section
/-!
SUPPORT. One lemma per field per update of the state: what `State.on<Part>` does to every part.
-/

namespace Sys2Proof.Machine

section
variable (s : State) (f : PowerUnit → PowerUnit)

@[simp] theorem State.onPower_power : (s.onPower f).power = f s.power := rfl
@[simp] theorem State.onPower_clock : (s.onPower f).clock = s.clock := rfl
@[simp] theorem State.onPower_rooms : (s.onPower f).rooms = s.rooms := rfl
@[simp] theorem State.onPower_nodes : (s.onPower f).nodes = s.nodes := rfl
@[simp] theorem State.onPower_groups : (s.onPower f).groups = s.groups := rfl
@[simp] theorem State.onPower_prices : (s.onPower f).prices = s.prices := rfl
@[simp] theorem State.onPower_settings : (s.onPower f).settings = s.settings := rfl
@[simp] theorem State.onPower_cred : (s.onPower f).cred = s.cred := rfl
@[simp] theorem State.onPower_enc : (s.onPower f).enc = s.enc := rfl
@[simp] theorem State.onPower_lines : (s.onPower f).lines = s.lines := rfl
@[simp] theorem State.onPower_journal : (s.onPower f).journal = s.journal := rfl
@[simp] theorem State.onPower_store : (s.onPower f).store = s.store := rfl
@[simp] theorem State.onPower_link : (s.onPower f).link = s.link := rfl
@[simp] theorem State.onPower_signals : (s.onPower f).signals = s.signals := rfl
@[simp] theorem State.onPower_freeUses : (s.onPower f).freeUses = s.freeUses := rfl
@[simp] theorem State.onPower_pending : (s.onPower f).pending = s.pending := rfl

end

section
variable (s : State) (f : HotelClock → HotelClock)

@[simp] theorem State.onClock_power : (s.onClock f).power = s.power := rfl
@[simp] theorem State.onClock_clock : (s.onClock f).clock = f s.clock := rfl
@[simp] theorem State.onClock_rooms : (s.onClock f).rooms = s.rooms := rfl
@[simp] theorem State.onClock_nodes : (s.onClock f).nodes = s.nodes := rfl
@[simp] theorem State.onClock_groups : (s.onClock f).groups = s.groups := rfl
@[simp] theorem State.onClock_prices : (s.onClock f).prices = s.prices := rfl
@[simp] theorem State.onClock_settings : (s.onClock f).settings = s.settings := rfl
@[simp] theorem State.onClock_cred : (s.onClock f).cred = s.cred := rfl
@[simp] theorem State.onClock_enc : (s.onClock f).enc = s.enc := rfl
@[simp] theorem State.onClock_lines : (s.onClock f).lines = s.lines := rfl
@[simp] theorem State.onClock_journal : (s.onClock f).journal = s.journal := rfl
@[simp] theorem State.onClock_store : (s.onClock f).store = s.store := rfl
@[simp] theorem State.onClock_link : (s.onClock f).link = s.link := rfl
@[simp] theorem State.onClock_signals : (s.onClock f).signals = s.signals := rfl
@[simp] theorem State.onClock_freeUses : (s.onClock f).freeUses = s.freeUses := rfl
@[simp] theorem State.onClock_pending : (s.onClock f).pending = s.pending := rfl

end

section
variable (s : State) (f : FMap Room → FMap Room)

@[simp] theorem State.onRooms_power : (s.onRooms f).power = s.power := rfl
@[simp] theorem State.onRooms_clock : (s.onRooms f).clock = s.clock := rfl
@[simp] theorem State.onRooms_rooms : (s.onRooms f).rooms = f s.rooms := rfl
@[simp] theorem State.onRooms_nodes : (s.onRooms f).nodes = s.nodes := rfl
@[simp] theorem State.onRooms_groups : (s.onRooms f).groups = s.groups := rfl
@[simp] theorem State.onRooms_prices : (s.onRooms f).prices = s.prices := rfl
@[simp] theorem State.onRooms_settings : (s.onRooms f).settings = s.settings := rfl
@[simp] theorem State.onRooms_cred : (s.onRooms f).cred = s.cred := rfl
@[simp] theorem State.onRooms_enc : (s.onRooms f).enc = s.enc := rfl
@[simp] theorem State.onRooms_lines : (s.onRooms f).lines = s.lines := rfl
@[simp] theorem State.onRooms_journal : (s.onRooms f).journal = s.journal := rfl
@[simp] theorem State.onRooms_store : (s.onRooms f).store = s.store := rfl
@[simp] theorem State.onRooms_link : (s.onRooms f).link = s.link := rfl
@[simp] theorem State.onRooms_signals : (s.onRooms f).signals = s.signals := rfl
@[simp] theorem State.onRooms_freeUses : (s.onRooms f).freeUses = s.freeUses := rfl
@[simp] theorem State.onRooms_pending : (s.onRooms f).pending = s.pending := rfl

end

section
variable (s : State) (f : FMap Node → FMap Node)

@[simp] theorem State.onNodes_power : (s.onNodes f).power = s.power := rfl
@[simp] theorem State.onNodes_clock : (s.onNodes f).clock = s.clock := rfl
@[simp] theorem State.onNodes_rooms : (s.onNodes f).rooms = s.rooms := rfl
@[simp] theorem State.onNodes_nodes : (s.onNodes f).nodes = f s.nodes := rfl
@[simp] theorem State.onNodes_groups : (s.onNodes f).groups = s.groups := rfl
@[simp] theorem State.onNodes_prices : (s.onNodes f).prices = s.prices := rfl
@[simp] theorem State.onNodes_settings : (s.onNodes f).settings = s.settings := rfl
@[simp] theorem State.onNodes_cred : (s.onNodes f).cred = s.cred := rfl
@[simp] theorem State.onNodes_enc : (s.onNodes f).enc = s.enc := rfl
@[simp] theorem State.onNodes_lines : (s.onNodes f).lines = s.lines := rfl
@[simp] theorem State.onNodes_journal : (s.onNodes f).journal = s.journal := rfl
@[simp] theorem State.onNodes_store : (s.onNodes f).store = s.store := rfl
@[simp] theorem State.onNodes_link : (s.onNodes f).link = s.link := rfl
@[simp] theorem State.onNodes_signals : (s.onNodes f).signals = s.signals := rfl
@[simp] theorem State.onNodes_freeUses : (s.onNodes f).freeUses = s.freeUses := rfl
@[simp] theorem State.onNodes_pending : (s.onNodes f).pending = s.pending := rfl

end

section
variable (s : State) (f : FMap GroupEntry → FMap GroupEntry)

@[simp] theorem State.onGroups_power : (s.onGroups f).power = s.power := rfl
@[simp] theorem State.onGroups_clock : (s.onGroups f).clock = s.clock := rfl
@[simp] theorem State.onGroups_rooms : (s.onGroups f).rooms = s.rooms := rfl
@[simp] theorem State.onGroups_nodes : (s.onGroups f).nodes = s.nodes := rfl
@[simp] theorem State.onGroups_groups : (s.onGroups f).groups = f s.groups := rfl
@[simp] theorem State.onGroups_prices : (s.onGroups f).prices = s.prices := rfl
@[simp] theorem State.onGroups_settings : (s.onGroups f).settings = s.settings := rfl
@[simp] theorem State.onGroups_cred : (s.onGroups f).cred = s.cred := rfl
@[simp] theorem State.onGroups_enc : (s.onGroups f).enc = s.enc := rfl
@[simp] theorem State.onGroups_lines : (s.onGroups f).lines = s.lines := rfl
@[simp] theorem State.onGroups_journal : (s.onGroups f).journal = s.journal := rfl
@[simp] theorem State.onGroups_store : (s.onGroups f).store = s.store := rfl
@[simp] theorem State.onGroups_link : (s.onGroups f).link = s.link := rfl
@[simp] theorem State.onGroups_signals : (s.onGroups f).signals = s.signals := rfl
@[simp] theorem State.onGroups_freeUses : (s.onGroups f).freeUses = s.freeUses := rfl
@[simp] theorem State.onGroups_pending : (s.onGroups f).pending = s.pending := rfl

end

section
variable (s : State) (f : FMap PriceEntry → FMap PriceEntry)

@[simp] theorem State.onPrices_power : (s.onPrices f).power = s.power := rfl
@[simp] theorem State.onPrices_clock : (s.onPrices f).clock = s.clock := rfl
@[simp] theorem State.onPrices_rooms : (s.onPrices f).rooms = s.rooms := rfl
@[simp] theorem State.onPrices_nodes : (s.onPrices f).nodes = s.nodes := rfl
@[simp] theorem State.onPrices_groups : (s.onPrices f).groups = s.groups := rfl
@[simp] theorem State.onPrices_prices : (s.onPrices f).prices = f s.prices := rfl
@[simp] theorem State.onPrices_settings : (s.onPrices f).settings = s.settings := rfl
@[simp] theorem State.onPrices_cred : (s.onPrices f).cred = s.cred := rfl
@[simp] theorem State.onPrices_enc : (s.onPrices f).enc = s.enc := rfl
@[simp] theorem State.onPrices_lines : (s.onPrices f).lines = s.lines := rfl
@[simp] theorem State.onPrices_journal : (s.onPrices f).journal = s.journal := rfl
@[simp] theorem State.onPrices_store : (s.onPrices f).store = s.store := rfl
@[simp] theorem State.onPrices_link : (s.onPrices f).link = s.link := rfl
@[simp] theorem State.onPrices_signals : (s.onPrices f).signals = s.signals := rfl
@[simp] theorem State.onPrices_freeUses : (s.onPrices f).freeUses = s.freeUses := rfl
@[simp] theorem State.onPrices_pending : (s.onPrices f).pending = s.pending := rfl

end

section
variable (s : State) (f : Settings → Settings)

@[simp] theorem State.onSettings_power : (s.onSettings f).power = s.power := rfl
@[simp] theorem State.onSettings_clock : (s.onSettings f).clock = s.clock := rfl
@[simp] theorem State.onSettings_rooms : (s.onSettings f).rooms = s.rooms := rfl
@[simp] theorem State.onSettings_nodes : (s.onSettings f).nodes = s.nodes := rfl
@[simp] theorem State.onSettings_groups : (s.onSettings f).groups = s.groups := rfl
@[simp] theorem State.onSettings_prices : (s.onSettings f).prices = s.prices := rfl
@[simp] theorem State.onSettings_settings : (s.onSettings f).settings = f s.settings := rfl
@[simp] theorem State.onSettings_cred : (s.onSettings f).cred = s.cred := rfl
@[simp] theorem State.onSettings_enc : (s.onSettings f).enc = s.enc := rfl
@[simp] theorem State.onSettings_lines : (s.onSettings f).lines = s.lines := rfl
@[simp] theorem State.onSettings_journal : (s.onSettings f).journal = s.journal := rfl
@[simp] theorem State.onSettings_store : (s.onSettings f).store = s.store := rfl
@[simp] theorem State.onSettings_link : (s.onSettings f).link = s.link := rfl
@[simp] theorem State.onSettings_signals : (s.onSettings f).signals = s.signals := rfl
@[simp] theorem State.onSettings_freeUses : (s.onSettings f).freeUses = s.freeUses := rfl
@[simp] theorem State.onSettings_pending : (s.onSettings f).pending = s.pending := rfl

end

section
variable (s : State) (f : CredUnit → CredUnit)

@[simp] theorem State.onCred_power : (s.onCred f).power = s.power := rfl
@[simp] theorem State.onCred_clock : (s.onCred f).clock = s.clock := rfl
@[simp] theorem State.onCred_rooms : (s.onCred f).rooms = s.rooms := rfl
@[simp] theorem State.onCred_nodes : (s.onCred f).nodes = s.nodes := rfl
@[simp] theorem State.onCred_groups : (s.onCred f).groups = s.groups := rfl
@[simp] theorem State.onCred_prices : (s.onCred f).prices = s.prices := rfl
@[simp] theorem State.onCred_settings : (s.onCred f).settings = s.settings := rfl
@[simp] theorem State.onCred_cred : (s.onCred f).cred = f s.cred := rfl
@[simp] theorem State.onCred_enc : (s.onCred f).enc = s.enc := rfl
@[simp] theorem State.onCred_lines : (s.onCred f).lines = s.lines := rfl
@[simp] theorem State.onCred_journal : (s.onCred f).journal = s.journal := rfl
@[simp] theorem State.onCred_store : (s.onCred f).store = s.store := rfl
@[simp] theorem State.onCred_link : (s.onCred f).link = s.link := rfl
@[simp] theorem State.onCred_signals : (s.onCred f).signals = s.signals := rfl
@[simp] theorem State.onCred_freeUses : (s.onCred f).freeUses = s.freeUses := rfl
@[simp] theorem State.onCred_pending : (s.onCred f).pending = s.pending := rfl

end

section
variable (s : State) (f : Encoder → Encoder)

@[simp] theorem State.onEnc_power : (s.onEnc f).power = s.power := rfl
@[simp] theorem State.onEnc_clock : (s.onEnc f).clock = s.clock := rfl
@[simp] theorem State.onEnc_rooms : (s.onEnc f).rooms = s.rooms := rfl
@[simp] theorem State.onEnc_nodes : (s.onEnc f).nodes = s.nodes := rfl
@[simp] theorem State.onEnc_groups : (s.onEnc f).groups = s.groups := rfl
@[simp] theorem State.onEnc_prices : (s.onEnc f).prices = s.prices := rfl
@[simp] theorem State.onEnc_settings : (s.onEnc f).settings = s.settings := rfl
@[simp] theorem State.onEnc_cred : (s.onEnc f).cred = s.cred := rfl
@[simp] theorem State.onEnc_enc : (s.onEnc f).enc = f s.enc := rfl
@[simp] theorem State.onEnc_lines : (s.onEnc f).lines = s.lines := rfl
@[simp] theorem State.onEnc_journal : (s.onEnc f).journal = s.journal := rfl
@[simp] theorem State.onEnc_store : (s.onEnc f).store = s.store := rfl
@[simp] theorem State.onEnc_link : (s.onEnc f).link = s.link := rfl
@[simp] theorem State.onEnc_signals : (s.onEnc f).signals = s.signals := rfl
@[simp] theorem State.onEnc_freeUses : (s.onEnc f).freeUses = s.freeUses := rfl
@[simp] theorem State.onEnc_pending : (s.onEnc f).pending = s.pending := rfl

end

section
variable (s : State) (f : PerLine Line → PerLine Line)

@[simp] theorem State.onLines_power : (s.onLines f).power = s.power := rfl
@[simp] theorem State.onLines_clock : (s.onLines f).clock = s.clock := rfl
@[simp] theorem State.onLines_rooms : (s.onLines f).rooms = s.rooms := rfl
@[simp] theorem State.onLines_nodes : (s.onLines f).nodes = s.nodes := rfl
@[simp] theorem State.onLines_groups : (s.onLines f).groups = s.groups := rfl
@[simp] theorem State.onLines_prices : (s.onLines f).prices = s.prices := rfl
@[simp] theorem State.onLines_settings : (s.onLines f).settings = s.settings := rfl
@[simp] theorem State.onLines_cred : (s.onLines f).cred = s.cred := rfl
@[simp] theorem State.onLines_enc : (s.onLines f).enc = s.enc := rfl
@[simp] theorem State.onLines_lines : (s.onLines f).lines = f s.lines := rfl
@[simp] theorem State.onLines_journal : (s.onLines f).journal = s.journal := rfl
@[simp] theorem State.onLines_store : (s.onLines f).store = s.store := rfl
@[simp] theorem State.onLines_link : (s.onLines f).link = s.link := rfl
@[simp] theorem State.onLines_signals : (s.onLines f).signals = s.signals := rfl
@[simp] theorem State.onLines_freeUses : (s.onLines f).freeUses = s.freeUses := rfl
@[simp] theorem State.onLines_pending : (s.onLines f).pending = s.pending := rfl

end

section
variable (s : State) (f : Journal → Journal)

@[simp] theorem State.onJournal_power : (s.onJournal f).power = s.power := rfl
@[simp] theorem State.onJournal_clock : (s.onJournal f).clock = s.clock := rfl
@[simp] theorem State.onJournal_rooms : (s.onJournal f).rooms = s.rooms := rfl
@[simp] theorem State.onJournal_nodes : (s.onJournal f).nodes = s.nodes := rfl
@[simp] theorem State.onJournal_groups : (s.onJournal f).groups = s.groups := rfl
@[simp] theorem State.onJournal_prices : (s.onJournal f).prices = s.prices := rfl
@[simp] theorem State.onJournal_settings : (s.onJournal f).settings = s.settings := rfl
@[simp] theorem State.onJournal_cred : (s.onJournal f).cred = s.cred := rfl
@[simp] theorem State.onJournal_enc : (s.onJournal f).enc = s.enc := rfl
@[simp] theorem State.onJournal_lines : (s.onJournal f).lines = s.lines := rfl
@[simp] theorem State.onJournal_journal : (s.onJournal f).journal = f s.journal := rfl
@[simp] theorem State.onJournal_store : (s.onJournal f).store = s.store := rfl
@[simp] theorem State.onJournal_link : (s.onJournal f).link = s.link := rfl
@[simp] theorem State.onJournal_signals : (s.onJournal f).signals = s.signals := rfl
@[simp] theorem State.onJournal_freeUses : (s.onJournal f).freeUses = s.freeUses := rfl
@[simp] theorem State.onJournal_pending : (s.onJournal f).pending = s.pending := rfl

end

section
variable (s : State) (f : Store → Store)

@[simp] theorem State.onStore_power : (s.onStore f).power = s.power := rfl
@[simp] theorem State.onStore_clock : (s.onStore f).clock = s.clock := rfl
@[simp] theorem State.onStore_rooms : (s.onStore f).rooms = s.rooms := rfl
@[simp] theorem State.onStore_nodes : (s.onStore f).nodes = s.nodes := rfl
@[simp] theorem State.onStore_groups : (s.onStore f).groups = s.groups := rfl
@[simp] theorem State.onStore_prices : (s.onStore f).prices = s.prices := rfl
@[simp] theorem State.onStore_settings : (s.onStore f).settings = s.settings := rfl
@[simp] theorem State.onStore_cred : (s.onStore f).cred = s.cred := rfl
@[simp] theorem State.onStore_enc : (s.onStore f).enc = s.enc := rfl
@[simp] theorem State.onStore_lines : (s.onStore f).lines = s.lines := rfl
@[simp] theorem State.onStore_journal : (s.onStore f).journal = s.journal := rfl
@[simp] theorem State.onStore_store : (s.onStore f).store = f s.store := rfl
@[simp] theorem State.onStore_link : (s.onStore f).link = s.link := rfl
@[simp] theorem State.onStore_signals : (s.onStore f).signals = s.signals := rfl
@[simp] theorem State.onStore_freeUses : (s.onStore f).freeUses = s.freeUses := rfl
@[simp] theorem State.onStore_pending : (s.onStore f).pending = s.pending := rfl

end

section
variable (s : State) (f : Link → Link)

@[simp] theorem State.onLink_power : (s.onLink f).power = s.power := rfl
@[simp] theorem State.onLink_clock : (s.onLink f).clock = s.clock := rfl
@[simp] theorem State.onLink_rooms : (s.onLink f).rooms = s.rooms := rfl
@[simp] theorem State.onLink_nodes : (s.onLink f).nodes = s.nodes := rfl
@[simp] theorem State.onLink_groups : (s.onLink f).groups = s.groups := rfl
@[simp] theorem State.onLink_prices : (s.onLink f).prices = s.prices := rfl
@[simp] theorem State.onLink_settings : (s.onLink f).settings = s.settings := rfl
@[simp] theorem State.onLink_cred : (s.onLink f).cred = s.cred := rfl
@[simp] theorem State.onLink_enc : (s.onLink f).enc = s.enc := rfl
@[simp] theorem State.onLink_lines : (s.onLink f).lines = s.lines := rfl
@[simp] theorem State.onLink_journal : (s.onLink f).journal = s.journal := rfl
@[simp] theorem State.onLink_store : (s.onLink f).store = s.store := rfl
@[simp] theorem State.onLink_link : (s.onLink f).link = f s.link := rfl
@[simp] theorem State.onLink_signals : (s.onLink f).signals = s.signals := rfl
@[simp] theorem State.onLink_freeUses : (s.onLink f).freeUses = s.freeUses := rfl
@[simp] theorem State.onLink_pending : (s.onLink f).pending = s.pending := rfl

end

section
variable (s : State) (f : Signals → Signals)

@[simp] theorem State.onSignals_power : (s.onSignals f).power = s.power := rfl
@[simp] theorem State.onSignals_clock : (s.onSignals f).clock = s.clock := rfl
@[simp] theorem State.onSignals_rooms : (s.onSignals f).rooms = s.rooms := rfl
@[simp] theorem State.onSignals_nodes : (s.onSignals f).nodes = s.nodes := rfl
@[simp] theorem State.onSignals_groups : (s.onSignals f).groups = s.groups := rfl
@[simp] theorem State.onSignals_prices : (s.onSignals f).prices = s.prices := rfl
@[simp] theorem State.onSignals_settings : (s.onSignals f).settings = s.settings := rfl
@[simp] theorem State.onSignals_cred : (s.onSignals f).cred = s.cred := rfl
@[simp] theorem State.onSignals_enc : (s.onSignals f).enc = s.enc := rfl
@[simp] theorem State.onSignals_lines : (s.onSignals f).lines = s.lines := rfl
@[simp] theorem State.onSignals_journal : (s.onSignals f).journal = s.journal := rfl
@[simp] theorem State.onSignals_store : (s.onSignals f).store = s.store := rfl
@[simp] theorem State.onSignals_link : (s.onSignals f).link = s.link := rfl
@[simp] theorem State.onSignals_signals : (s.onSignals f).signals = f s.signals := rfl
@[simp] theorem State.onSignals_freeUses : (s.onSignals f).freeUses = s.freeUses := rfl
@[simp] theorem State.onSignals_pending : (s.onSignals f).pending = s.pending := rfl

end

section
variable (s : State) (f : Nat → Nat)

@[simp] theorem State.onFreeUses_power : (s.onFreeUses f).power = s.power := rfl
@[simp] theorem State.onFreeUses_clock : (s.onFreeUses f).clock = s.clock := rfl
@[simp] theorem State.onFreeUses_rooms : (s.onFreeUses f).rooms = s.rooms := rfl
@[simp] theorem State.onFreeUses_nodes : (s.onFreeUses f).nodes = s.nodes := rfl
@[simp] theorem State.onFreeUses_groups : (s.onFreeUses f).groups = s.groups := rfl
@[simp] theorem State.onFreeUses_prices : (s.onFreeUses f).prices = s.prices := rfl
@[simp] theorem State.onFreeUses_settings : (s.onFreeUses f).settings = s.settings := rfl
@[simp] theorem State.onFreeUses_cred : (s.onFreeUses f).cred = s.cred := rfl
@[simp] theorem State.onFreeUses_enc : (s.onFreeUses f).enc = s.enc := rfl
@[simp] theorem State.onFreeUses_lines : (s.onFreeUses f).lines = s.lines := rfl
@[simp] theorem State.onFreeUses_journal : (s.onFreeUses f).journal = s.journal := rfl
@[simp] theorem State.onFreeUses_store : (s.onFreeUses f).store = s.store := rfl
@[simp] theorem State.onFreeUses_link : (s.onFreeUses f).link = s.link := rfl
@[simp] theorem State.onFreeUses_signals : (s.onFreeUses f).signals = s.signals := rfl
@[simp] theorem State.onFreeUses_freeUses : (s.onFreeUses f).freeUses = f s.freeUses := rfl
@[simp] theorem State.onFreeUses_pending : (s.onFreeUses f).pending = s.pending := rfl

end

section
variable (s : State) (f : List Instr → List Instr)

@[simp] theorem State.onPending_power : (s.onPending f).power = s.power := rfl
@[simp] theorem State.onPending_clock : (s.onPending f).clock = s.clock := rfl
@[simp] theorem State.onPending_rooms : (s.onPending f).rooms = s.rooms := rfl
@[simp] theorem State.onPending_nodes : (s.onPending f).nodes = s.nodes := rfl
@[simp] theorem State.onPending_groups : (s.onPending f).groups = s.groups := rfl
@[simp] theorem State.onPending_prices : (s.onPending f).prices = s.prices := rfl
@[simp] theorem State.onPending_settings : (s.onPending f).settings = s.settings := rfl
@[simp] theorem State.onPending_cred : (s.onPending f).cred = s.cred := rfl
@[simp] theorem State.onPending_enc : (s.onPending f).enc = s.enc := rfl
@[simp] theorem State.onPending_lines : (s.onPending f).lines = s.lines := rfl
@[simp] theorem State.onPending_journal : (s.onPending f).journal = s.journal := rfl
@[simp] theorem State.onPending_store : (s.onPending f).store = s.store := rfl
@[simp] theorem State.onPending_link : (s.onPending f).link = s.link := rfl
@[simp] theorem State.onPending_signals : (s.onPending f).signals = s.signals := rfl
@[simp] theorem State.onPending_freeUses : (s.onPending f).freeUses = s.freeUses := rfl
@[simp] theorem State.onPending_pending : (s.onPending f).pending = f s.pending := rfl

end

end Sys2Proof.Machine
end

