-- ==== Sys2Proof/Laws/Frames.lean ====
section
/-!
SUPPORT. Frames: for each operation, the parts of the state it leaves as they were.
-/

namespace Sys2Proof.Machine

/-- Every part but these is as it was. -/
abbrev KeepsAllBut_nodes (s t : State) : Prop :=
  t.power = s.power ∧ t.clock = s.clock ∧ t.rooms = s.rooms ∧ t.groups = s.groups ∧ t.prices = s.prices ∧ t.settings = s.settings ∧ t.cred = s.cred ∧ t.enc = s.enc ∧ t.lines = s.lines ∧ t.journal = s.journal ∧ t.store = s.store ∧ t.link = s.link ∧ t.signals = s.signals ∧ t.freeUses = s.freeUses ∧ t.pending = s.pending

/-- Every part but these is as it was. -/
abbrev KeepsAllBut_lines (s t : State) : Prop :=
  t.power = s.power ∧ t.clock = s.clock ∧ t.rooms = s.rooms ∧ t.nodes = s.nodes ∧ t.groups = s.groups ∧ t.prices = s.prices ∧ t.settings = s.settings ∧ t.cred = s.cred ∧ t.enc = s.enc ∧ t.journal = s.journal ∧ t.store = s.store ∧ t.link = s.link ∧ t.signals = s.signals ∧ t.freeUses = s.freeUses ∧ t.pending = s.pending

/-- Every part but these is as it was. -/
abbrev KeepsAllBut_rooms (s t : State) : Prop :=
  t.power = s.power ∧ t.clock = s.clock ∧ t.nodes = s.nodes ∧ t.groups = s.groups ∧ t.prices = s.prices ∧ t.settings = s.settings ∧ t.cred = s.cred ∧ t.enc = s.enc ∧ t.lines = s.lines ∧ t.journal = s.journal ∧ t.store = s.store ∧ t.link = s.link ∧ t.signals = s.signals ∧ t.freeUses = s.freeUses ∧ t.pending = s.pending

/-- Every part but these is as it was. -/
abbrev KeepsAllBut_link (s t : State) : Prop :=
  t.power = s.power ∧ t.clock = s.clock ∧ t.rooms = s.rooms ∧ t.nodes = s.nodes ∧ t.groups = s.groups ∧ t.prices = s.prices ∧ t.settings = s.settings ∧ t.cred = s.cred ∧ t.enc = s.enc ∧ t.lines = s.lines ∧ t.journal = s.journal ∧ t.store = s.store ∧ t.signals = s.signals ∧ t.freeUses = s.freeUses ∧ t.pending = s.pending

/-- Every part but these is as it was. -/
abbrev KeepsAllBut_journal_link (s t : State) : Prop :=
  t.power = s.power ∧ t.clock = s.clock ∧ t.rooms = s.rooms ∧ t.nodes = s.nodes ∧ t.groups = s.groups ∧ t.prices = s.prices ∧ t.settings = s.settings ∧ t.cred = s.cred ∧ t.enc = s.enc ∧ t.lines = s.lines ∧ t.store = s.store ∧ t.signals = s.signals ∧ t.freeUses = s.freeUses ∧ t.pending = s.pending

/-- Every part but these is as it was. -/
abbrev KeepsAllBut_journal (s t : State) : Prop :=
  t.power = s.power ∧ t.clock = s.clock ∧ t.rooms = s.rooms ∧ t.nodes = s.nodes ∧ t.groups = s.groups ∧ t.prices = s.prices ∧ t.settings = s.settings ∧ t.cred = s.cred ∧ t.enc = s.enc ∧ t.lines = s.lines ∧ t.store = s.store ∧ t.link = s.link ∧ t.signals = s.signals ∧ t.freeUses = s.freeUses ∧ t.pending = s.pending

/-- Every part but these is as it was. -/
abbrev KeepsAllBut_store (s t : State) : Prop :=
  t.power = s.power ∧ t.clock = s.clock ∧ t.rooms = s.rooms ∧ t.nodes = s.nodes ∧ t.groups = s.groups ∧ t.prices = s.prices ∧ t.settings = s.settings ∧ t.cred = s.cred ∧ t.enc = s.enc ∧ t.lines = s.lines ∧ t.journal = s.journal ∧ t.link = s.link ∧ t.signals = s.signals ∧ t.freeUses = s.freeUses ∧ t.pending = s.pending

/-- Every part but these is as it was. -/
abbrev KeepsAllBut_signals (s t : State) : Prop :=
  t.power = s.power ∧ t.clock = s.clock ∧ t.rooms = s.rooms ∧ t.nodes = s.nodes ∧ t.groups = s.groups ∧ t.prices = s.prices ∧ t.settings = s.settings ∧ t.cred = s.cred ∧ t.enc = s.enc ∧ t.lines = s.lines ∧ t.journal = s.journal ∧ t.store = s.store ∧ t.link = s.link ∧ t.freeUses = s.freeUses ∧ t.pending = s.pending

/-- Every part but these is as it was. -/
abbrev KeepsAllBut_journal_store_link (s t : State) : Prop :=
  t.power = s.power ∧ t.clock = s.clock ∧ t.rooms = s.rooms ∧ t.nodes = s.nodes ∧ t.groups = s.groups ∧ t.prices = s.prices ∧ t.settings = s.settings ∧ t.cred = s.cred ∧ t.enc = s.enc ∧ t.lines = s.lines ∧ t.signals = s.signals ∧ t.freeUses = s.freeUses ∧ t.pending = s.pending

/-- Every part but these is as it was. -/
abbrev KeepsAllBut_journal_store_link_signals (s t : State) : Prop :=
  t.power = s.power ∧ t.clock = s.clock ∧ t.rooms = s.rooms ∧ t.nodes = s.nodes ∧ t.groups = s.groups ∧ t.prices = s.prices ∧ t.settings = s.settings ∧ t.cred = s.cred ∧ t.enc = s.enc ∧ t.lines = s.lines ∧ t.freeUses = s.freeUses ∧ t.pending = s.pending

/-- Every part but these is as it was. -/
abbrev KeepsAllBut_store_link (s t : State) : Prop :=
  t.power = s.power ∧ t.clock = s.clock ∧ t.rooms = s.rooms ∧ t.nodes = s.nodes ∧ t.groups = s.groups ∧ t.prices = s.prices ∧ t.settings = s.settings ∧ t.cred = s.cred ∧ t.enc = s.enc ∧ t.lines = s.lines ∧ t.journal = s.journal ∧ t.signals = s.signals ∧ t.freeUses = s.freeUses ∧ t.pending = s.pending

/-- Every part but these is as it was. -/
abbrev KeepsAllBut_enc_journal (s t : State) : Prop :=
  t.power = s.power ∧ t.clock = s.clock ∧ t.rooms = s.rooms ∧ t.nodes = s.nodes ∧ t.groups = s.groups ∧ t.prices = s.prices ∧ t.settings = s.settings ∧ t.cred = s.cred ∧ t.lines = s.lines ∧ t.store = s.store ∧ t.link = s.link ∧ t.signals = s.signals ∧ t.freeUses = s.freeUses ∧ t.pending = s.pending

/-- Every part but these is as it was. -/
abbrev KeepsAllBut_store_signals (s t : State) : Prop :=
  t.power = s.power ∧ t.clock = s.clock ∧ t.rooms = s.rooms ∧ t.nodes = s.nodes ∧ t.groups = s.groups ∧ t.prices = s.prices ∧ t.settings = s.settings ∧ t.cred = s.cred ∧ t.enc = s.enc ∧ t.lines = s.lines ∧ t.journal = s.journal ∧ t.link = s.link ∧ t.freeUses = s.freeUses ∧ t.pending = s.pending

/-- Every part but these is as it was. -/
abbrev KeepsAllBut_enc_journal_store_link_signals (s t : State) : Prop :=
  t.power = s.power ∧ t.clock = s.clock ∧ t.rooms = s.rooms ∧ t.nodes = s.nodes ∧ t.groups = s.groups ∧ t.prices = s.prices ∧ t.settings = s.settings ∧ t.cred = s.cred ∧ t.lines = s.lines ∧ t.freeUses = s.freeUses ∧ t.pending = s.pending

/-- Every part but these is as it was. -/
abbrev KeepsAllBut_journal_store_link_freeUses (s t : State) : Prop :=
  t.power = s.power ∧ t.clock = s.clock ∧ t.rooms = s.rooms ∧ t.nodes = s.nodes ∧ t.groups = s.groups ∧ t.prices = s.prices ∧ t.settings = s.settings ∧ t.cred = s.cred ∧ t.enc = s.enc ∧ t.lines = s.lines ∧ t.signals = s.signals ∧ t.pending = s.pending

/-- Every part but these is as it was. -/
abbrev KeepsAllBut_cred (s t : State) : Prop :=
  t.power = s.power ∧ t.clock = s.clock ∧ t.rooms = s.rooms ∧ t.nodes = s.nodes ∧ t.groups = s.groups ∧ t.prices = s.prices ∧ t.settings = s.settings ∧ t.enc = s.enc ∧ t.lines = s.lines ∧ t.journal = s.journal ∧ t.store = s.store ∧ t.link = s.link ∧ t.signals = s.signals ∧ t.freeUses = s.freeUses ∧ t.pending = s.pending

/-- Every part but these is as it was. -/
abbrev KeepsAllBut_cred_journal_link (s t : State) : Prop :=
  t.power = s.power ∧ t.clock = s.clock ∧ t.rooms = s.rooms ∧ t.nodes = s.nodes ∧ t.groups = s.groups ∧ t.prices = s.prices ∧ t.settings = s.settings ∧ t.enc = s.enc ∧ t.lines = s.lines ∧ t.store = s.store ∧ t.signals = s.signals ∧ t.freeUses = s.freeUses ∧ t.pending = s.pending

/-- Every part but these is as it was. -/
abbrev KeepsAllBut_cred_journal_store_link (s t : State) : Prop :=
  t.power = s.power ∧ t.clock = s.clock ∧ t.rooms = s.rooms ∧ t.nodes = s.nodes ∧ t.groups = s.groups ∧ t.prices = s.prices ∧ t.settings = s.settings ∧ t.enc = s.enc ∧ t.lines = s.lines ∧ t.signals = s.signals ∧ t.freeUses = s.freeUses ∧ t.pending = s.pending

/-- Every part but these is as it was. -/
abbrev KeepsAllBut_cred_store (s t : State) : Prop :=
  t.power = s.power ∧ t.clock = s.clock ∧ t.rooms = s.rooms ∧ t.nodes = s.nodes ∧ t.groups = s.groups ∧ t.prices = s.prices ∧ t.settings = s.settings ∧ t.enc = s.enc ∧ t.lines = s.lines ∧ t.journal = s.journal ∧ t.link = s.link ∧ t.signals = s.signals ∧ t.freeUses = s.freeUses ∧ t.pending = s.pending

/-- Every part but these is as it was. -/
abbrev KeepsAllBut_rooms_journal_link (s t : State) : Prop :=
  t.power = s.power ∧ t.clock = s.clock ∧ t.nodes = s.nodes ∧ t.groups = s.groups ∧ t.prices = s.prices ∧ t.settings = s.settings ∧ t.cred = s.cred ∧ t.enc = s.enc ∧ t.lines = s.lines ∧ t.store = s.store ∧ t.signals = s.signals ∧ t.freeUses = s.freeUses ∧ t.pending = s.pending

/-- Every part but these is as it was. -/
abbrev KeepsAllBut_rooms_cred_journal_store_link (s t : State) : Prop :=
  t.power = s.power ∧ t.clock = s.clock ∧ t.nodes = s.nodes ∧ t.groups = s.groups ∧ t.prices = s.prices ∧ t.settings = s.settings ∧ t.enc = s.enc ∧ t.lines = s.lines ∧ t.signals = s.signals ∧ t.freeUses = s.freeUses ∧ t.pending = s.pending

/-- Every part but these is as it was. -/
abbrev KeepsAllBut_enc_link (s t : State) : Prop :=
  t.power = s.power ∧ t.clock = s.clock ∧ t.rooms = s.rooms ∧ t.nodes = s.nodes ∧ t.groups = s.groups ∧ t.prices = s.prices ∧ t.settings = s.settings ∧ t.cred = s.cred ∧ t.lines = s.lines ∧ t.journal = s.journal ∧ t.store = s.store ∧ t.signals = s.signals ∧ t.freeUses = s.freeUses ∧ t.pending = s.pending

/-- Every part but these is as it was. -/
abbrev KeepsAllBut_rooms_cred_enc_journal_store_link (s t : State) : Prop :=
  t.power = s.power ∧ t.clock = s.clock ∧ t.nodes = s.nodes ∧ t.groups = s.groups ∧ t.prices = s.prices ∧ t.settings = s.settings ∧ t.lines = s.lines ∧ t.signals = s.signals ∧ t.freeUses = s.freeUses ∧ t.pending = s.pending

/-- Every part but these is as it was. -/
abbrev KeepsAllBut_enc (s t : State) : Prop :=
  t.power = s.power ∧ t.clock = s.clock ∧ t.rooms = s.rooms ∧ t.nodes = s.nodes ∧ t.groups = s.groups ∧ t.prices = s.prices ∧ t.settings = s.settings ∧ t.cred = s.cred ∧ t.lines = s.lines ∧ t.journal = s.journal ∧ t.store = s.store ∧ t.link = s.link ∧ t.signals = s.signals ∧ t.freeUses = s.freeUses ∧ t.pending = s.pending

/-- Every part but these is as it was. -/
abbrev KeepsAllBut_cred_enc_store (s t : State) : Prop :=
  t.power = s.power ∧ t.clock = s.clock ∧ t.rooms = s.rooms ∧ t.nodes = s.nodes ∧ t.groups = s.groups ∧ t.prices = s.prices ∧ t.settings = s.settings ∧ t.lines = s.lines ∧ t.journal = s.journal ∧ t.link = s.link ∧ t.signals = s.signals ∧ t.freeUses = s.freeUses ∧ t.pending = s.pending

/-- Every part but these is as it was. -/
abbrev KeepsAllBut_nodes_lines_journal_link (s t : State) : Prop :=
  t.power = s.power ∧ t.clock = s.clock ∧ t.rooms = s.rooms ∧ t.groups = s.groups ∧ t.prices = s.prices ∧ t.settings = s.settings ∧ t.cred = s.cred ∧ t.enc = s.enc ∧ t.store = s.store ∧ t.signals = s.signals ∧ t.freeUses = s.freeUses ∧ t.pending = s.pending

/-- Every part but these is as it was. -/
abbrev KeepsAllBut_nodes_journal_link (s t : State) : Prop :=
  t.power = s.power ∧ t.clock = s.clock ∧ t.rooms = s.rooms ∧ t.groups = s.groups ∧ t.prices = s.prices ∧ t.settings = s.settings ∧ t.cred = s.cred ∧ t.enc = s.enc ∧ t.lines = s.lines ∧ t.store = s.store ∧ t.signals = s.signals ∧ t.freeUses = s.freeUses ∧ t.pending = s.pending

/-- Every part but these is as it was. -/
abbrev KeepsAllBut_nodes_lines (s t : State) : Prop :=
  t.power = s.power ∧ t.clock = s.clock ∧ t.rooms = s.rooms ∧ t.groups = s.groups ∧ t.prices = s.prices ∧ t.settings = s.settings ∧ t.cred = s.cred ∧ t.enc = s.enc ∧ t.journal = s.journal ∧ t.store = s.store ∧ t.link = s.link ∧ t.signals = s.signals ∧ t.freeUses = s.freeUses ∧ t.pending = s.pending

/-- Every part but these is as it was. -/
abbrev KeepsAllBut_lines_journal_link (s t : State) : Prop :=
  t.power = s.power ∧ t.clock = s.clock ∧ t.rooms = s.rooms ∧ t.nodes = s.nodes ∧ t.groups = s.groups ∧ t.prices = s.prices ∧ t.settings = s.settings ∧ t.cred = s.cred ∧ t.enc = s.enc ∧ t.store = s.store ∧ t.signals = s.signals ∧ t.freeUses = s.freeUses ∧ t.pending = s.pending

/-- Every part but these is as it was. -/
abbrev KeepsAllBut_rooms_journal_store_link (s t : State) : Prop :=
  t.power = s.power ∧ t.clock = s.clock ∧ t.nodes = s.nodes ∧ t.groups = s.groups ∧ t.prices = s.prices ∧ t.settings = s.settings ∧ t.cred = s.cred ∧ t.enc = s.enc ∧ t.lines = s.lines ∧ t.signals = s.signals ∧ t.freeUses = s.freeUses ∧ t.pending = s.pending

/-- Every part but these is as it was. -/
abbrev KeepsAllBut_nodes_store (s t : State) : Prop :=
  t.power = s.power ∧ t.clock = s.clock ∧ t.rooms = s.rooms ∧ t.groups = s.groups ∧ t.prices = s.prices ∧ t.settings = s.settings ∧ t.cred = s.cred ∧ t.enc = s.enc ∧ t.lines = s.lines ∧ t.journal = s.journal ∧ t.link = s.link ∧ t.signals = s.signals ∧ t.freeUses = s.freeUses ∧ t.pending = s.pending

/-- Every part but these is as it was. -/
abbrev KeepsAllBut_rooms_nodes_journal_store_link (s t : State) : Prop :=
  t.power = s.power ∧ t.clock = s.clock ∧ t.groups = s.groups ∧ t.prices = s.prices ∧ t.settings = s.settings ∧ t.cred = s.cred ∧ t.enc = s.enc ∧ t.lines = s.lines ∧ t.signals = s.signals ∧ t.freeUses = s.freeUses ∧ t.pending = s.pending

/-- Every part but these is as it was. -/
abbrev KeepsAllBut_nodes_link (s t : State) : Prop :=
  t.power = s.power ∧ t.clock = s.clock ∧ t.rooms = s.rooms ∧ t.groups = s.groups ∧ t.prices = s.prices ∧ t.settings = s.settings ∧ t.cred = s.cred ∧ t.enc = s.enc ∧ t.lines = s.lines ∧ t.journal = s.journal ∧ t.store = s.store ∧ t.signals = s.signals ∧ t.freeUses = s.freeUses ∧ t.pending = s.pending

/-- Every part but these is as it was. -/
abbrev KeepsAllBut_rooms_nodes_lines_journal_store_link (s t : State) : Prop :=
  t.power = s.power ∧ t.clock = s.clock ∧ t.groups = s.groups ∧ t.prices = s.prices ∧ t.settings = s.settings ∧ t.cred = s.cred ∧ t.enc = s.enc ∧ t.signals = s.signals ∧ t.freeUses = s.freeUses ∧ t.pending = s.pending

/-- Every part but these is as it was. -/
abbrev KeepsAllBut_nodes_journal_store_link (s t : State) : Prop :=
  t.power = s.power ∧ t.clock = s.clock ∧ t.rooms = s.rooms ∧ t.groups = s.groups ∧ t.prices = s.prices ∧ t.settings = s.settings ∧ t.cred = s.cred ∧ t.enc = s.enc ∧ t.lines = s.lines ∧ t.signals = s.signals ∧ t.freeUses = s.freeUses ∧ t.pending = s.pending

/-- Every part but these is as it was. -/
abbrev KeepsAllBut_rooms_nodes_link (s t : State) : Prop :=
  t.power = s.power ∧ t.clock = s.clock ∧ t.groups = s.groups ∧ t.prices = s.prices ∧ t.settings = s.settings ∧ t.cred = s.cred ∧ t.enc = s.enc ∧ t.lines = s.lines ∧ t.journal = s.journal ∧ t.store = s.store ∧ t.signals = s.signals ∧ t.freeUses = s.freeUses ∧ t.pending = s.pending

/-- Every part but these is as it was. -/
abbrev KeepsAllBut_rooms_nodes_journal_link (s t : State) : Prop :=
  t.power = s.power ∧ t.clock = s.clock ∧ t.groups = s.groups ∧ t.prices = s.prices ∧ t.settings = s.settings ∧ t.cred = s.cred ∧ t.enc = s.enc ∧ t.lines = s.lines ∧ t.store = s.store ∧ t.signals = s.signals ∧ t.freeUses = s.freeUses ∧ t.pending = s.pending

/-- Every part but these is as it was. -/
abbrev KeepsAllBut_rooms_nodes_groups_prices_settings_cred_journal (s t : State) : Prop :=
  t.power = s.power ∧ t.clock = s.clock ∧ t.enc = s.enc ∧ t.lines = s.lines ∧ t.store = s.store ∧ t.link = s.link ∧ t.signals = s.signals ∧ t.freeUses = s.freeUses ∧ t.pending = s.pending

/-- Every part but these is as it was. -/
abbrev KeepsAllBut_rooms_store (s t : State) : Prop :=
  t.power = s.power ∧ t.clock = s.clock ∧ t.nodes = s.nodes ∧ t.groups = s.groups ∧ t.prices = s.prices ∧ t.settings = s.settings ∧ t.cred = s.cred ∧ t.enc = s.enc ∧ t.lines = s.lines ∧ t.journal = s.journal ∧ t.link = s.link ∧ t.signals = s.signals ∧ t.freeUses = s.freeUses ∧ t.pending = s.pending

/-- Every part but these is as it was. -/
abbrev KeepsAllBut_store_freeUses (s t : State) : Prop :=
  t.power = s.power ∧ t.clock = s.clock ∧ t.rooms = s.rooms ∧ t.nodes = s.nodes ∧ t.groups = s.groups ∧ t.prices = s.prices ∧ t.settings = s.settings ∧ t.cred = s.cred ∧ t.enc = s.enc ∧ t.lines = s.lines ∧ t.journal = s.journal ∧ t.link = s.link ∧ t.signals = s.signals ∧ t.pending = s.pending

/-- Every part but these is as it was. -/
abbrev KeepsAllBut_power_rooms_nodes_groups_prices_settings_cred_enc_lines_journal_store_link_signals (s t : State) : Prop :=
  t.clock = s.clock ∧ t.freeUses = s.freeUses ∧ t.pending = s.pending

/-- Every part but these is as it was. -/
abbrev KeepsAllBut_power_rooms_nodes_cred_enc_lines_journal_store_link (s t : State) : Prop :=
  t.clock = s.clock ∧ t.groups = s.groups ∧ t.prices = s.prices ∧ t.settings = s.settings ∧ t.signals = s.signals ∧ t.freeUses = s.freeUses ∧ t.pending = s.pending

/-- Every part but these is as it was. -/
abbrev KeepsAllBut_power_enc_link (s t : State) : Prop :=
  t.clock = s.clock ∧ t.rooms = s.rooms ∧ t.nodes = s.nodes ∧ t.groups = s.groups ∧ t.prices = s.prices ∧ t.settings = s.settings ∧ t.cred = s.cred ∧ t.lines = s.lines ∧ t.journal = s.journal ∧ t.store = s.store ∧ t.signals = s.signals ∧ t.freeUses = s.freeUses ∧ t.pending = s.pending

/-- Every part but these is as it was. -/
abbrev KeepsAllBut_power_enc_journal_link (s t : State) : Prop :=
  t.clock = s.clock ∧ t.rooms = s.rooms ∧ t.nodes = s.nodes ∧ t.groups = s.groups ∧ t.prices = s.prices ∧ t.settings = s.settings ∧ t.cred = s.cred ∧ t.lines = s.lines ∧ t.store = s.store ∧ t.signals = s.signals ∧ t.freeUses = s.freeUses ∧ t.pending = s.pending

/-- Every part but these is as it was. -/
abbrev KeepsAllBut_power_enc_journal_store_link_signals (s t : State) : Prop :=
  t.clock = s.clock ∧ t.rooms = s.rooms ∧ t.nodes = s.nodes ∧ t.groups = s.groups ∧ t.prices = s.prices ∧ t.settings = s.settings ∧ t.cred = s.cred ∧ t.lines = s.lines ∧ t.freeUses = s.freeUses ∧ t.pending = s.pending

/-- Every part but these is as it was. -/
abbrev KeepsAllBut_nodes_lines_journal_store_link (s t : State) : Prop :=
  t.power = s.power ∧ t.clock = s.clock ∧ t.rooms = s.rooms ∧ t.groups = s.groups ∧ t.prices = s.prices ∧ t.settings = s.settings ∧ t.cred = s.cred ∧ t.enc = s.enc ∧ t.signals = s.signals ∧ t.freeUses = s.freeUses ∧ t.pending = s.pending

/-- Every part but these is as it was. -/
abbrev KeepsAllBut_power_nodes_enc_lines_journal_store_link_signals (s t : State) : Prop :=
  t.clock = s.clock ∧ t.rooms = s.rooms ∧ t.groups = s.groups ∧ t.prices = s.prices ∧ t.settings = s.settings ∧ t.cred = s.cred ∧ t.freeUses = s.freeUses ∧ t.pending = s.pending

/-- Every part but these is as it was. -/
abbrev KeepsAllBut_clock_nodes_cred_journal_store_link (s t : State) : Prop :=
  t.power = s.power ∧ t.rooms = s.rooms ∧ t.groups = s.groups ∧ t.prices = s.prices ∧ t.settings = s.settings ∧ t.enc = s.enc ∧ t.lines = s.lines ∧ t.signals = s.signals ∧ t.freeUses = s.freeUses ∧ t.pending = s.pending

/-- Every part but these is as it was. -/
abbrev KeepsAllBut_rooms_nodes (s t : State) : Prop :=
  t.power = s.power ∧ t.clock = s.clock ∧ t.groups = s.groups ∧ t.prices = s.prices ∧ t.settings = s.settings ∧ t.cred = s.cred ∧ t.enc = s.enc ∧ t.lines = s.lines ∧ t.journal = s.journal ∧ t.store = s.store ∧ t.link = s.link ∧ t.signals = s.signals ∧ t.freeUses = s.freeUses ∧ t.pending = s.pending

/-- Every part but these is as it was. -/
abbrev KeepsAllBut_rooms_nodes_lines (s t : State) : Prop :=
  t.power = s.power ∧ t.clock = s.clock ∧ t.groups = s.groups ∧ t.prices = s.prices ∧ t.settings = s.settings ∧ t.cred = s.cred ∧ t.enc = s.enc ∧ t.journal = s.journal ∧ t.store = s.store ∧ t.link = s.link ∧ t.signals = s.signals ∧ t.freeUses = s.freeUses ∧ t.pending = s.pending

/-- Every part but these is as it was. -/
abbrev KeepsAllBut_rooms_nodes_lines_journal_link (s t : State) : Prop :=
  t.power = s.power ∧ t.clock = s.clock ∧ t.groups = s.groups ∧ t.prices = s.prices ∧ t.settings = s.settings ∧ t.cred = s.cred ∧ t.enc = s.enc ∧ t.store = s.store ∧ t.signals = s.signals ∧ t.freeUses = s.freeUses ∧ t.pending = s.pending

/-- Every part but these is as it was. -/
abbrev KeepsAllBut_journal_store (s t : State) : Prop :=
  t.power = s.power ∧ t.clock = s.clock ∧ t.rooms = s.rooms ∧ t.nodes = s.nodes ∧ t.groups = s.groups ∧ t.prices = s.prices ∧ t.settings = s.settings ∧ t.cred = s.cred ∧ t.enc = s.enc ∧ t.lines = s.lines ∧ t.link = s.link ∧ t.signals = s.signals ∧ t.freeUses = s.freeUses ∧ t.pending = s.pending

@[simp] theorem foldl_power {α : Type} (f : State → α → State) (l : List α) (s : State)
    (h : ∀ s x, (f s x).power = s.power) : (l.foldl f s).power = s.power := by
  induction l generalizing s with
  | nil => rfl
  | cons a t ih => rw [List.foldl_cons, ih, h]

@[simp] theorem foldl_clock {α : Type} (f : State → α → State) (l : List α) (s : State)
    (h : ∀ s x, (f s x).clock = s.clock) : (l.foldl f s).clock = s.clock := by
  induction l generalizing s with
  | nil => rfl
  | cons a t ih => rw [List.foldl_cons, ih, h]

@[simp] theorem foldl_rooms {α : Type} (f : State → α → State) (l : List α) (s : State)
    (h : ∀ s x, (f s x).rooms = s.rooms) : (l.foldl f s).rooms = s.rooms := by
  induction l generalizing s with
  | nil => rfl
  | cons a t ih => rw [List.foldl_cons, ih, h]

@[simp] theorem foldl_nodes {α : Type} (f : State → α → State) (l : List α) (s : State)
    (h : ∀ s x, (f s x).nodes = s.nodes) : (l.foldl f s).nodes = s.nodes := by
  induction l generalizing s with
  | nil => rfl
  | cons a t ih => rw [List.foldl_cons, ih, h]

@[simp] theorem foldl_groups {α : Type} (f : State → α → State) (l : List α) (s : State)
    (h : ∀ s x, (f s x).groups = s.groups) : (l.foldl f s).groups = s.groups := by
  induction l generalizing s with
  | nil => rfl
  | cons a t ih => rw [List.foldl_cons, ih, h]

@[simp] theorem foldl_prices {α : Type} (f : State → α → State) (l : List α) (s : State)
    (h : ∀ s x, (f s x).prices = s.prices) : (l.foldl f s).prices = s.prices := by
  induction l generalizing s with
  | nil => rfl
  | cons a t ih => rw [List.foldl_cons, ih, h]

@[simp] theorem foldl_settings {α : Type} (f : State → α → State) (l : List α) (s : State)
    (h : ∀ s x, (f s x).settings = s.settings) : (l.foldl f s).settings = s.settings := by
  induction l generalizing s with
  | nil => rfl
  | cons a t ih => rw [List.foldl_cons, ih, h]

@[simp] theorem foldl_cred {α : Type} (f : State → α → State) (l : List α) (s : State)
    (h : ∀ s x, (f s x).cred = s.cred) : (l.foldl f s).cred = s.cred := by
  induction l generalizing s with
  | nil => rfl
  | cons a t ih => rw [List.foldl_cons, ih, h]

@[simp] theorem foldl_enc {α : Type} (f : State → α → State) (l : List α) (s : State)
    (h : ∀ s x, (f s x).enc = s.enc) : (l.foldl f s).enc = s.enc := by
  induction l generalizing s with
  | nil => rfl
  | cons a t ih => rw [List.foldl_cons, ih, h]

@[simp] theorem foldl_lines {α : Type} (f : State → α → State) (l : List α) (s : State)
    (h : ∀ s x, (f s x).lines = s.lines) : (l.foldl f s).lines = s.lines := by
  induction l generalizing s with
  | nil => rfl
  | cons a t ih => rw [List.foldl_cons, ih, h]

@[simp] theorem foldl_journal {α : Type} (f : State → α → State) (l : List α) (s : State)
    (h : ∀ s x, (f s x).journal = s.journal) : (l.foldl f s).journal = s.journal := by
  induction l generalizing s with
  | nil => rfl
  | cons a t ih => rw [List.foldl_cons, ih, h]

@[simp] theorem foldl_store {α : Type} (f : State → α → State) (l : List α) (s : State)
    (h : ∀ s x, (f s x).store = s.store) : (l.foldl f s).store = s.store := by
  induction l generalizing s with
  | nil => rfl
  | cons a t ih => rw [List.foldl_cons, ih, h]

@[simp] theorem foldl_link {α : Type} (f : State → α → State) (l : List α) (s : State)
    (h : ∀ s x, (f s x).link = s.link) : (l.foldl f s).link = s.link := by
  induction l generalizing s with
  | nil => rfl
  | cons a t ih => rw [List.foldl_cons, ih, h]

@[simp] theorem foldl_signals {α : Type} (f : State → α → State) (l : List α) (s : State)
    (h : ∀ s x, (f s x).signals = s.signals) : (l.foldl f s).signals = s.signals := by
  induction l generalizing s with
  | nil => rfl
  | cons a t ih => rw [List.foldl_cons, ih, h]

@[simp] theorem foldl_freeUses {α : Type} (f : State → α → State) (l : List α) (s : State)
    (h : ∀ s x, (f s x).freeUses = s.freeUses) : (l.foldl f s).freeUses = s.freeUses := by
  induction l generalizing s with
  | nil => rfl
  | cons a t ih => rw [List.foldl_cons, ih, h]

@[simp] theorem foldl_pending {α : Type} (f : State → α → State) (l : List α) (s : State)
    (h : ∀ s x, (f s x).pending = s.pending) : (l.foldl f s).pending = s.pending := by
  induction l generalizing s with
  | nil => rfl
  | cons a t ih => rw [List.foldl_cons, ih, h]

@[simp] theorem State.modNodeAt_frame (s : State) (key : Nat) (f : Node → Node) : KeepsAllBut_nodes s (State.modNodeAt s key f) := by
  unfold State.modNodeAt; try dsimp only
  (repeat' split) <;> simp [KeepsAllBut_nodes]

@[simp] theorem State.modNode_frame (s : State) (line : LineId) (addr : Nat) (f : Node → Node) : KeepsAllBut_nodes s (State.modNode s line addr f) := by
  unfold State.modNode; try dsimp only
  (repeat' split) <;> simp [KeepsAllBut_nodes]

@[simp] theorem State.modLine_frame (s : State) (i : LineId) (f : Line → Line) : KeepsAllBut_lines s (State.modLine s i f) := by
  unfold State.modLine; try dsimp only
  (repeat' split) <;> simp [KeepsAllBut_lines]

@[simp] theorem State.modRoom_frame (s : State) (i : Nat) (f : Room → Room) : KeepsAllBut_rooms s (State.modRoom s i f) := by
  unfold State.modRoom; try dsimp only
  (repeat' split) <;> simp [KeepsAllBut_rooms]

@[simp] theorem post_frame (c : NoticeClass) (d : Detail) (s : State) : KeepsAllBut_link s (post c d s) := by
  unfold post; try dsimp only
  (repeat' split) <;> simp [KeepsAllBut_link]

@[simp] theorem acceptRec_frame (b : JBody) (s : State) : KeepsAllBut_journal_link s (acceptRec b s) := by
  unfold acceptRec; try dsimp only
  (repeat' split) <;> simp [KeepsAllBut_journal_link]

@[simp] theorem dropRec_frame (b : JBody) (s : State) : KeepsAllBut_journal s (dropRec b s) := by
  unfold dropRec; try dsimp only
  (repeat' split) <;> simp [KeepsAllBut_journal]

@[simp] theorem acceptGap_frame (s : State) : KeepsAllBut_journal_link s (acceptGap s) := by
  unfold acceptGap; try dsimp only
  (repeat' split) <;> simp [KeepsAllBut_journal_link]

@[simp] theorem offer_frame (b : JBody) (s : State) : KeepsAllBut_journal_link s (offer b s) := by
  unfold offer; try dsimp only
  (repeat' split) <;> simp [KeepsAllBut_journal_link]

@[simp] theorem offerOverrun_frame (r : Nat × Nat) (s : State) : KeepsAllBut_journal_link s (offerOverrun r s) := by
  unfold offerOverrun; try dsimp only
  (repeat' split) <;> simp [KeepsAllBut_journal_link]

@[simp] theorem enqueue_frame (k : EntryKey) (s : State) : KeepsAllBut_store s (enqueue k s) := by
  unfold enqueue; try dsimp only
  (repeat' split) <;> simp [KeepsAllBut_store]

@[simp] theorem placeOrder_frame (i : LineId) (o : Order) (s : State) : KeepsAllBut_lines s (placeOrder i o s) := by
  unfold placeOrder; try dsimp only
  (repeat' split) <;> simp [KeepsAllBut_lines]

@[simp] theorem placeReply_frame (tag : List (Fin 10)) (lines : List RLine) (s : State) : KeepsAllBut_link s (placeReply tag lines s) := by
  unfold placeReply; try dsimp only
  (repeat' split) <;> simp [KeepsAllBut_link]

@[simp] theorem pumpTx_frame (s : State) : KeepsAllBut_link s (pumpTx s) := by
  unfold pumpTx; try dsimp only
  (repeat' split) <;> simp [KeepsAllBut_link]

@[simp] theorem journalSpace_frame (s : State) : KeepsAllBut_signals s (journalSpace s) := by
  unfold journalSpace; try dsimp only
  (repeat' split) <;> simp [KeepsAllBut_signals]

@[simp] theorem tableSpace_frame (s : State) : KeepsAllBut_signals s (tableSpace s) := by
  unfold tableSpace; try dsimp only
  (repeat' split) <;> simp [KeepsAllBut_signals]

@[simp] theorem chooseSpare_frame (s : State) : KeepsAllBut_journal s (chooseSpare s) := by
  unfold chooseSpare; try dsimp only
  (repeat' split) <;> simp [KeepsAllBut_journal]

@[simp] theorem raiseMark_frame (s : State) : KeepsAllBut_journal_store_link s (raiseMark s) := by
  unfold raiseMark; try dsimp only
  (repeat' split) <;> simp [KeepsAllBut_journal_store_link]

@[simp] theorem overrunPath_frame (s : State) : KeepsAllBut_journal_store_link s (overrunPath s) := by
  unfold overrunPath; try dsimp only
  (repeat' split) <;> simp [KeepsAllBut_journal_store_link]

@[simp] theorem moveJournalHead_frame (s : State) : KeepsAllBut_journal s (moveJournalHead s) := by
  unfold moveJournalHead; try dsimp only
  (repeat' split) <;> simp [KeepsAllBut_journal]

@[simp] theorem enterFull_frame (s : State) : KeepsAllBut_journal_link s (enterFull s) := by
  unfold enterFull; try dsimp only
  (repeat' split) <;> simp [KeepsAllBut_journal_link]

@[simp] theorem headFullTest_frame (s : State) : KeepsAllBut_journal_store_link s (headFullTest s) := by
  unfold headFullTest; try dsimp only
  (repeat' split) <;> simp [KeepsAllBut_journal_store_link]

@[simp] theorem testHead_frame (s : State) : KeepsAllBut_journal_store_link s (testHead s) := by
  unfold testHead; try dsimp only
  (repeat' split) <;> simp [KeepsAllBut_journal_store_link]

@[simp] theorem declareFault_frame (s : State) : KeepsAllBut_journal_store_link s (declareFault s) := by
  unfold declareFault; try dsimp only
  (repeat' split) <;> simp [KeepsAllBut_journal_store_link]

@[simp] theorem journalRetired_frame (k : Nat) (s : State) : KeepsAllBut_journal_store_link s (journalRetired k s) := by
  unfold journalRetired; try dsimp only
  (repeat' split) <;> simp [KeepsAllBut_journal_store_link]

@[simp] theorem journalErased_frame (k : Nat) (s : State) : KeepsAllBut_journal_store_link s (journalErased k s) := by
  unfold journalErased; try dsimp only
  (repeat' split) <;> simp [KeepsAllBut_journal_store_link]

@[simp] theorem postLevel_frame (old new : Nat) (s : State) : KeepsAllBut_link s (postLevel old new s) := by
  unfold postLevel; try dsimp only
  (repeat' split) <;> simp [KeepsAllBut_link]

@[simp] theorem journalProgrammed_frame (sector : Nat) (r : JRec) (s : State) : KeepsAllBut_journal_store_link_signals s (journalProgrammed sector r s) := by
  unfold journalProgrammed; try dsimp only
  (repeat' split) <;> simp [KeepsAllBut_journal_store_link_signals]

@[simp] theorem stall_frame (s : State) : KeepsAllBut_store_link s (stall s) := by
  unfold stall; try dsimp only
  (repeat' split) <;> simp [KeepsAllBut_store_link]

@[simp] theorem countErased_frame (s : State) : KeepsAllBut_store_link s (countErased s) := by
  unfold countErased; try dsimp only
  (repeat' split) <;> simp [KeepsAllBut_store_link]

@[simp] theorem holdWriter_frame (s : State) : KeepsAllBut_store s (holdWriter s) := by
  unfold holdWriter; try dsimp only
  (repeat' split) <;> simp [KeepsAllBut_store]

@[simp] theorem takeLast_frame (forCopy : Bool) (k : Nat) (s : State) : KeepsAllBut_store_link s (takeLast forCopy k s) := by
  unfold takeLast; try dsimp only
  (repeat' split) <;> simp [KeepsAllBut_store_link]

@[simp] theorem moveLogHead_frame (forCopy : Bool) (s : State) : KeepsAllBut_store_link s (moveLogHead forCopy s) := by
  unfold moveLogHead; try dsimp only
  (repeat' split) <;> simp [KeepsAllBut_store_link]

@[simp] theorem testReadOnly_frame (s : State) : KeepsAllBut_store_link s (testReadOnly s) := by
  unfold testReadOnly; try dsimp only
  (repeat' split) <;> simp [KeepsAllBut_store_link]

@[simp] theorem reportRetired_frame (k : Nat) (c : RetireCause) (s : State) : KeepsAllBut_journal_link s (reportRetired k c s) := by
  unfold reportRetired; try dsimp only
  (repeat' split) <;> simp [KeepsAllBut_journal_link]

@[simp] theorem evacuate_frame (k : Nat) (s : State) : KeepsAllBut_store s (evacuate k s) := by
  unfold evacuate; try dsimp only
  (repeat' split) <;> simp [KeepsAllBut_store]

@[simp] theorem retireLog_frame (k : Nat) (c : RetireCause) (s : State) : KeepsAllBut_journal_store_link s (retireLog k c s) := by
  unfold retireLog; try dsimp only
  (repeat' split) <;> simp [KeepsAllBut_journal_store_link]

@[simp] theorem endEvacuations_frame (s : State) : KeepsAllBut_store s (endEvacuations s) := by
  unfold endEvacuations; try dsimp only
  (repeat' split) <;> simp [KeepsAllBut_store]

@[simp] theorem retireJournal_frame (k : Nat) (c : RetireCause) (s : State) : KeepsAllBut_journal_store_link s (retireJournal k c s) := by
  unfold retireJournal; try dsimp only
  (repeat' split) <;> simp [KeepsAllBut_journal_store_link]

@[simp] theorem spoilLog_frame (k : Nat) (s : State) : KeepsAllBut_journal_store_link s (spoilLog k s) := by
  unfold spoilLog; try dsimp only
  (repeat' split) <;> simp [KeepsAllBut_journal_store_link]

@[simp] theorem spoilJournal_frame (k : Nat) (s : State) : KeepsAllBut_journal_store_link s (spoilJournal k s) := by
  unfold spoilJournal; try dsimp only
  (repeat' split) <;> simp [KeepsAllBut_journal_store_link]

@[simp] theorem reportProgrammed_frame (v : EntryVal) (s : State) : KeepsAllBut_enc_journal s (reportProgrammed v s) := by
  unfold reportProgrammed; try dsimp only
  (repeat' split) <;> simp [KeepsAllBut_enc_journal]

@[simp] theorem dropPlace_frame (key : EntryKey) (s : State) : KeepsAllBut_store_signals s (dropPlace key s) := by
  unfold dropPlace; try dsimp only
  (repeat' split) <;> simp [KeepsAllBut_store_signals]

@[simp] theorem logProgrammed_frame (k : Nat) (key : EntryKey) (v : EntryVal) (s : State) : KeepsAllBut_enc_journal_store_link_signals s (logProgrammed k key v s) := by
  unfold logProgrammed; try dsimp only
  (repeat' split) <;> simp [KeepsAllBut_enc_journal_store_link_signals]

@[simp] theorem copyProgrammed_frame (k : Nat) (key : EntryKey) (v : EntryVal) (s : State) : KeepsAllBut_store_link s (copyProgrammed k key v s) := by
  unfold copyProgrammed; try dsimp only
  (repeat' split) <;> simp [KeepsAllBut_store_link]

@[simp] theorem serve_frame (r : Requester) (s : State) : KeepsAllBut_store_link s (serve r s) := by
  unfold serve; try dsimp only
  (repeat' split) <;> simp [KeepsAllBut_store_link]

@[simp] theorem orderSuspension_frame (e : EraseRun) (s : State) : KeepsAllBut_store s (orderSuspension e s) := by
  unfold orderSuspension; try dsimp only
  (repeat' split) <;> simp [KeepsAllBut_store]

@[simp] theorem resume_frame (s : State) : KeepsAllBut_store s (resume s) := by
  unfold resume; try dsimp only
  (repeat' split) <;> simp [KeepsAllBut_store]

@[simp] theorem pumpEngine_frame (s : State) : KeepsAllBut_store_link s (pumpEngine s) := by
  unfold pumpEngine; try dsimp only
  (repeat' split) <;> simp [KeepsAllBut_store_link]

@[simp] theorem finish_frame (s : State) : KeepsAllBut_store_link s (finish s) := by
  unfold finish; try dsimp only
  (repeat' split) <;> simp [KeepsAllBut_store_link]

@[simp] theorem freeEngine_frame (s : State) : KeepsAllBut_store s (freeEngine s) := by
  unfold freeEngine; try dsimp only
  (repeat' split) <;> simp [KeepsAllBut_store]

@[simp] theorem endWork_frame (w : Work) (s : State) : KeepsAllBut_store s (endWork w s) := by
  unfold endWork; try dsimp only
  (repeat' split) <;> simp [KeepsAllBut_store]

@[simp] theorem eraseSound_frame (w : Work) (s : State) : KeepsAllBut_journal_store_link s (eraseSound w s) := by
  unfold eraseSound; try dsimp only
  (repeat' split) <;> simp [KeepsAllBut_journal_store_link]

@[simp] theorem eraseFailed_frame (w : Work) (s : State) : KeepsAllBut_journal_store_link_freeUses s (eraseFailed w s) := by
  unfold eraseFailed; try dsimp only
  (repeat' split) <;> simp [KeepsAllBut_journal_store_link_freeUses]

@[simp] theorem reportDisplaced_frame (number seq : Nat) (expiry : EndMinute) (s : State) : KeepsAllBut_journal_link s (reportDisplaced number seq expiry s) := by
  unfold reportDisplaced; try dsimp only
  (repeat' split) <;> simp [KeepsAllBut_journal_link]

@[simp] theorem enterAt_frame (i : Nat) (e : RevEntry) (s : State) : KeepsAllBut_cred s (enterAt i e s) := by
  unfold enterAt; try dsimp only
  (repeat' split) <;> simp [KeepsAllBut_cred]

@[simp] theorem applyVerdict_frame (v : ListVerdict) (e : RevEntry) (s : State) : KeepsAllBut_cred_journal_link s (applyVerdict v e s) := by
  unfold applyVerdict; try dsimp only
  (repeat' split) <;> simp [KeepsAllBut_cred_journal_link]

@[simp] theorem revokeCred_frame (slot : Nat) (reason : RevReason) (s : State) : KeepsAllBut_cred_journal_store_link s (revokeCred slot reason s) := by
  unfold revokeCred; try dsimp only
  (repeat' split) <;> simp [KeepsAllBut_cred_journal_store_link]

@[simp] theorem revokeReported_frame (slot : Nat) (reason : RevReason) (s : State) : KeepsAllBut_cred_journal_store_link s (revokeReported slot reason s) := by
  unfold revokeReported; try dsimp only
  (repeat' split) <;> simp [KeepsAllBut_cred_journal_store_link]

@[simp] theorem expiryPass_frame (m : Nat) (s : State) : KeepsAllBut_cred s (expiryPass m s) := by
  unfold expiryPass; try dsimp only
  (repeat' split) <;> simp [KeepsAllBut_cred]

@[simp] theorem retireEntries_frame (m : Nat) (s : State) : KeepsAllBut_cred_store s (retireEntries m s) := by
  unfold retireEntries; try dsimp only
  (repeat' split) <;> simp [KeepsAllBut_cred_store]

@[simp] theorem minuteWork_frame (m : Nat) (s : State) : KeepsAllBut_cred_store s (minuteWork m s) := by
  unfold minuteWork; try dsimp only
  (repeat' split) <;> simp [KeepsAllBut_cred_store]

@[simp] theorem carry_frame (places : List Nat) (s : State) : KeepsAllBut_cred_store s (carry places s) := by
  unfold carry; try dsimp only
  (repeat' split) <;> simp [KeepsAllBut_cred_store]

@[simp] theorem settle_frame (room amount issue : Nat) (why : SettleReason) (s : State) : KeepsAllBut_rooms_journal_link s (settle room amount issue why s) := by
  unfold settle; try dsimp only
  (repeat' split) <;> simp [KeepsAllBut_rooms_journal_link]

@[simp] theorem setCredState_frame (slot : Nat) (st : CredState) (s : State) : KeepsAllBut_cred s (setCredState slot st s) := by
  unfold setCredState; try dsimp only
  (repeat' split) <;> simp [KeepsAllBut_cred]

@[simp] theorem newStaySuccess_frame (slot : Nat) (r : CredRec) (s : State) : KeepsAllBut_rooms_cred_journal_store_link s (newStaySuccess slot r s) := by
  unfold newStaySuccess; try dsimp only
  (repeat' split) <;> simp [KeepsAllBut_rooms_cred_journal_store_link]

@[simp] theorem plainSuccess_frame (slot : Nat) (s : State) : KeepsAllBut_cred_store s (plainSuccess slot s) := by
  unfold plainSuccess; try dsimp only
  (repeat' split) <;> simp [KeepsAllBut_cred_store]

@[simp] theorem applySuccess_frame (j : Job) (r : CredRec) (s : State) : KeepsAllBut_rooms_cred_journal_store_link s (applySuccess j r s) := by
  unfold applySuccess; try dsimp only
  (repeat' split) <;> simp [KeepsAllBut_rooms_cred_journal_store_link]

@[simp] theorem applyReleased_frame (slot : Nat) (s : State) : KeepsAllBut_cred_store s (applyReleased slot s) := by
  unfold applyReleased; try dsimp only
  (repeat' split) <;> simp [KeepsAllBut_cred_store]

@[simp] theorem jobEnds_frame (j : Job) (o : JobOutcome) (s : State) : KeepsAllBut_enc_link s (jobEnds j o s) := by
  unfold jobEnds; try dsimp only
  (repeat' split) <;> simp [KeepsAllBut_enc_link]

@[simp] theorem applyOutcome_frame (j : Job) (o : JobOutcome) (r : CredRec) (s : State) : KeepsAllBut_rooms_cred_enc_journal_store_link s (applyOutcome j o r s) := by
  unfold applyOutcome; try dsimp only
  (repeat' split) <;> simp [KeepsAllBut_rooms_cred_enc_journal_store_link]

@[simp] theorem tryOutcome_frame (s : State) : KeepsAllBut_rooms_cred_enc_journal_store_link s (tryOutcome s) := by
  unfold tryOutcome; try dsimp only
  (repeat' split) <;> simp [KeepsAllBut_rooms_cred_enc_journal_store_link]

@[simp] theorem reportOutcome_frame (o : JobOutcome) (cause : Option JobCause) (s : State) : KeepsAllBut_rooms_cred_enc_journal_store_link s (reportOutcome o cause s) := by
  unfold reportOutcome; try dsimp only
  (repeat' split) <;> simp [KeepsAllBut_rooms_cred_enc_journal_store_link]

@[simp] theorem modJob_frame (f : Job → Job) (s : State) : KeepsAllBut_enc s (modJob f s) := by
  unfold modJob; try dsimp only
  (repeat' split) <;> simp [KeepsAllBut_enc]

@[simp] theorem buildImage_frame (r : CredRec) (s : State) : KeepsAllBut_cred_enc_store s (buildImage r s) := by
  unfold buildImage; try dsimp only
  (repeat' split) <;> simp [KeepsAllBut_cred_enc_store]

@[simp] theorem sendHead_frame (op : HeadOp) (s : State) : KeepsAllBut_enc s (sendHead op s) := by
  unfold sendHead; try dsimp only
  (repeat' split) <;> simp [KeepsAllBut_enc]

@[simp] theorem sendWrite_frame (j : Job) (s : State) : KeepsAllBut_enc s (sendWrite j s) := by
  unfold sendWrite; try dsimp only
  (repeat' split) <;> simp [KeepsAllBut_enc]

@[simp] theorem sendRead_frame (st : JobState) (s : State) : KeepsAllBut_enc s (sendRead st s) := by
  unfold sendRead; try dsimp only
  (repeat' split) <;> simp [KeepsAllBut_enc]

@[simp] theorem enterVoiding_frame (number : Nat) (cause : JobCause) (s : State) : KeepsAllBut_enc s (enterVoiding number cause s) := by
  unfold enterVoiding; try dsimp only
  (repeat' split) <;> simp [KeepsAllBut_enc]

@[simp] theorem failOrVoid_frame (j : Job) (cause : JobCause) (s : State) : KeepsAllBut_rooms_cred_enc_journal_store_link s (failOrVoid j cause s) := by
  unfold failOrVoid; try dsimp only
  (repeat' split) <;> simp [KeepsAllBut_rooms_cred_enc_journal_store_link]

@[simp] theorem endRead_frame (r : ReadResult) (s : State) : KeepsAllBut_enc_link s (endRead r s) := by
  unfold endRead; try dsimp only
  (repeat' split) <;> simp [KeepsAllBut_enc_link]

@[simp] theorem waitEnds_frame (j : Job) (s : State) : KeepsAllBut_rooms_cred_enc_journal_store_link s (waitEnds j s) := by
  unfold waitEnds; try dsimp only
  (repeat' split) <;> simp [KeepsAllBut_rooms_cred_enc_journal_store_link]

@[simp] theorem cardArrives_frame (j : Job) (s : State) : KeepsAllBut_enc s (cardArrives j s) := by
  unfold cardArrives; try dsimp only
  (repeat' split) <;> simp [KeepsAllBut_enc]

@[simp] theorem enterWaiting_frame (s : State) : KeepsAllBut_rooms_cred_enc_journal_store_link s (enterWaiting s) := by
  unfold enterWaiting; try dsimp only
  (repeat' split) <;> simp [KeepsAllBut_rooms_cred_enc_journal_store_link]

@[simp] theorem cancelJob_frame (s : State) : KeepsAllBut_rooms_cred_enc_journal_store_link s (cancelJob s).1 := by
  unfold cancelJob; try dsimp only
  (repeat' split) <;> simp [KeepsAllBut_rooms_cred_enc_journal_store_link]

@[simp] theorem markHeld_frame (why : RevReason) (s : State) : KeepsAllBut_enc s (markHeld why s) := by
  unfold markHeld; try dsimp only
  (repeat' split) <;> simp [KeepsAllBut_enc]

@[simp] theorem reachPending_frame (why : RevReason) (s : State) : KeepsAllBut_rooms_cred_enc_journal_store_link s (reachPending why s) := by
  unfold reachPending; try dsimp only
  (repeat' split) <;> simp [KeepsAllBut_rooms_cred_enc_journal_store_link]

@[simp] theorem drainJob_frame (s : State) : KeepsAllBut_rooms_cred_enc_journal_store_link s (drainJob s) := by
  unfold drainJob; try dsimp only
  (repeat' split) <;> simp [KeepsAllBut_rooms_cred_enc_journal_store_link]

@[simp] theorem writeAnswered_frame (j : Job) (fault : Option JobCause) (s : State) : KeepsAllBut_rooms_cred_enc_journal_store_link s (writeAnswered j fault s) := by
  unfold writeAnswered; try dsimp only
  (repeat' split) <;> simp [KeepsAllBut_rooms_cred_enc_journal_store_link]

@[simp] theorem verified_frame (j : Job) (b : List Byte) (s : State) : KeepsAllBut_rooms_cred_enc_journal_store_link s (verified j b s) := by
  unfold verified; try dsimp only
  (repeat' split) <;> simp [KeepsAllBut_rooms_cred_enc_journal_store_link]

@[simp] theorem readAnswered_frame (j : Job) (a : List Byte ⊕ JobCause) (s : State) : KeepsAllBut_rooms_cred_enc_journal_store_link s (readAnswered j a s) := by
  unfold readAnswered; try dsimp only
  (repeat' split) <;> simp [KeepsAllBut_rooms_cred_enc_journal_store_link]

@[simp] theorem takeReport_frame (s : State) : KeepsAllBut_rooms_cred_enc_journal_store_link s (takeReport s) := by
  unfold takeReport; try dsimp only
  (repeat' split) <;> simp [KeepsAllBut_rooms_cred_enc_journal_store_link]

@[simp] theorem placeDecision_frame (line : LineId) (addr time : Nat) (d : Decision) (s : State) : KeepsAllBut_lines s (placeDecision line addr time d s) := by
  unfold placeDecision; try dsimp only
  (repeat' split) <;> simp [KeepsAllBut_lines]

@[simp] theorem setRelease_frame (line : LineId) (addr : Nat) (v : LastRelease) (s : State) : KeepsAllBut_nodes s (setRelease line addr v s) := by
  unfold setRelease; try dsimp only
  (repeat' split) <;> simp [KeepsAllBut_nodes]

@[simp] theorem admitCard_frame (line : LineId) (addr : Nat) (n : Node) (p : Presentation) (s : State) : KeepsAllBut_nodes_lines_journal_link s (admitCard line addr n p s) := by
  unfold admitCard; try dsimp only
  (repeat' split) <;> simp [KeepsAllBut_nodes_lines_journal_link]

@[simp] theorem modDoor_frame (line : LineId) (addr : Nat) (f : DoorRec → DoorRec) (s : State) : KeepsAllBut_nodes s (modDoor line addr f s) := by
  unfold modDoor; try dsimp only
  (repeat' split) <;> simp [KeepsAllBut_nodes]

@[simp] theorem doorOpened_frame (line : LineId) (addr : Nat) (n : Node) (s : State) : KeepsAllBut_nodes_journal_link s (doorOpened line addr n s) := by
  unfold doorOpened; try dsimp only
  (repeat' split) <;> simp [KeepsAllBut_nodes_journal_link]

@[simp] theorem doorClosed_frame (line : LineId) (addr : Nat) (s : State) : KeepsAllBut_nodes s (doorClosed line addr s) := by
  unfold doorClosed; try dsimp only
  (repeat' split) <;> simp [KeepsAllBut_nodes]

@[simp] theorem doorForced_frame (line : LineId) (addr : Nat) (n : Node) (s : State) : KeepsAllBut_nodes_journal_link s (doorForced line addr n s) := by
  unfold doorForced; try dsimp only
  (repeat' split) <;> simp [KeepsAllBut_nodes_journal_link]

@[simp] theorem doorHeld_frame (line : LineId) (addr : Nat) (n : Node) (s : State) : KeepsAllBut_nodes_journal_link s (doorHeld line addr n s) := by
  unfold doorHeld; try dsimp only
  (repeat' split) <;> simp [KeepsAllBut_nodes_journal_link]

@[simp] theorem modNodesOn_frame (i : LineId) (f : Node → Node) (s : State) : KeepsAllBut_nodes s (modNodesOn i f s) := by
  unfold modNodesOn; try dsimp only
  (repeat' split) <;> simp [KeepsAllBut_nodes]

@[simp] theorem modLink_frame (i : LineId) (addr : Nat) (f : NodeLink → NodeLink) (s : State) : KeepsAllBut_nodes s (modLink i addr f s) := by
  unfold modLink; try dsimp only
  (repeat' split) <;> simp [KeepsAllBut_nodes]

@[simp] theorem sendFrame_frame (i : LineId) (kind : ExchKind) (leg : Leg) (addr : Nat) (second : Bool) (frame : List Byte) (s : State) : KeepsAllBut_lines s (sendFrame i kind leg addr second frame s) := by
  unfold sendFrame; try dsimp only
  (repeat' split) <;> simp [KeepsAllBut_lines]

@[simp] theorem sendTagged_frame (i : LineId) (kind : ExchKind) (leg : Leg) (addr : Nat) (second : Bool) (body : List Byte) (s : State) : KeepsAllBut_lines s (sendTagged i kind leg addr second body s) := by
  unfold sendTagged; try dsimp only
  (repeat' split) <;> simp [KeepsAllBut_lines]

@[simp] theorem sendOldest_frame (i : LineId) (s : State) : KeepsAllBut_lines s (sendOldest i s) := by
  unfold sendOldest; try dsimp only
  (repeat' split) <;> simp [KeepsAllBut_lines]

@[simp] theorem sendOwedMode_frame (i : LineId) (addr : Nat) (s : State) : KeepsAllBut_nodes_lines s (sendOwedMode i addr s) := by
  unfold sendOwedMode; try dsimp only
  (repeat' split) <;> simp [KeepsAllBut_nodes_lines]

@[simp] theorem sendOwedGroup_frame (i : LineId) (addr group : Nat) (s : State) : KeepsAllBut_nodes_lines s (sendOwedGroup i addr group s) := by
  unfold sendOwedGroup; try dsimp only
  (repeat' split) <;> simp [KeepsAllBut_nodes_lines]

@[simp] theorem sendPoll_frame (i : LineId) (v : Visit) (s : State) : KeepsAllBut_lines s (sendPoll i v s) := by
  unfold sendPoll; try dsimp only
  (repeat' split) <;> simp [KeepsAllBut_lines]

@[simp] theorem retry_frame (i : LineId) (x : Exchange) (s : State) : KeepsAllBut_lines s (retry i x s) := by
  unfold retry; try dsimp only
  (repeat' split) <;> simp [KeepsAllBut_lines]

@[simp] theorem modVisit_frame (i : LineId) (f : Visit → Visit) (s : State) : KeepsAllBut_lines s (modVisit i f s) := by
  unfold modVisit; try dsimp only
  (repeat' split) <;> simp [KeepsAllBut_lines]

@[simp] theorem workVisit_frame (i : LineId) (v : Visit) (s : State) : KeepsAllBut_nodes_lines s (workVisit i v s) := by
  unfold workVisit; try dsimp only
  (repeat' split) <;> simp [KeepsAllBut_nodes_lines]

@[simp] theorem locate_frame (i : LineId) (s : State) : KeepsAllBut_lines_journal_link s (locate i s) := by
  unfold locate; try dsimp only
  (repeat' split) <;> simp [KeepsAllBut_lines_journal_link]

@[simp] theorem completeCycle_frame (i : LineId) (s : State) : KeepsAllBut_lines_journal_link s (completeCycle i s) := by
  unfold completeCycle; try dsimp only
  (repeat' split) <;> simp [KeepsAllBut_lines_journal_link]

@[simp] theorem nextVisit_frame (i : LineId) (listed : List Nat) (s : State) : KeepsAllBut_nodes_lines_journal_link s (nextVisit i listed s) := by
  unfold nextVisit; try dsimp only
  (repeat' split) <;> simp [KeepsAllBut_nodes_lines_journal_link]

@[simp] theorem openCycle_frame (i : LineId) (listed : List Nat) (s : State) : KeepsAllBut_nodes_lines_journal_link s (openCycle i listed s) := by
  unfold openCycle; try dsimp only
  (repeat' split) <;> simp [KeepsAllBut_nodes_lines_journal_link]

@[simp] theorem beginCycle_frame (i : LineId) (s : State) : KeepsAllBut_nodes_lines_journal_link s (beginCycle i s) := by
  unfold beginCycle; try dsimp only
  (repeat' split) <;> simp [KeepsAllBut_nodes_lines_journal_link]

@[simp] theorem sendBetween_frame (i : LineId) (s : State) : KeepsAllBut_lines s (sendBetween i s) := by
  unfold sendBetween; try dsimp only
  (repeat' split) <;> simp [KeepsAllBut_lines]

@[simp] theorem betweenCycles_frame (i : LineId) (s : State) : KeepsAllBut_nodes_lines_journal_link s (betweenCycles i s) := by
  unfold betweenCycles; try dsimp only
  (repeat' split) <;> simp [KeepsAllBut_nodes_lines_journal_link]

@[simp] theorem workCycle_frame (i : LineId) (c : Cycle) (s : State) : KeepsAllBut_nodes_lines_journal_link s (workCycle i c s) := by
  unfold workCycle; try dsimp only
  (repeat' split) <;> simp [KeepsAllBut_nodes_lines_journal_link]

@[simp] theorem sendDrain_frame (i : LineId) (leg : Leg) (s : State) : KeepsAllBut_lines s (sendDrain i leg s) := by
  unfold sendDrain; try dsimp only
  (repeat' split) <;> simp [KeepsAllBut_lines]

@[simp] theorem proceed_frame (i : LineId) (s : State) : KeepsAllBut_nodes_lines_journal_link s (proceed i s) := by
  unfold proceed; try dsimp only
  (repeat' split) <;> simp [KeepsAllBut_nodes_lines_journal_link]

@[simp] theorem journalLost_frame (i : LineId) (c : LostCause) (l : List Order) (s : State) : KeepsAllBut_journal_link s (journalLost i c l s) := by
  unfold journalLost; try dsimp only
  (repeat' split) <;> simp [KeepsAllBut_journal_link]

@[simp] theorem placeStandalone_frame (i : LineId) (s : State) : KeepsAllBut_lines s (placeStandalone i s) := by
  unfold placeStandalone; try dsimp only
  (repeat' split) <;> simp [KeepsAllBut_lines]

@[simp] theorem startLine_frame (i : LineId) (s : State) : KeepsAllBut_nodes_lines_journal_link s (startLine i s) := by
  unfold startLine; try dsimp only
  (repeat' split) <;> simp [KeepsAllBut_nodes_lines_journal_link]

@[simp] theorem stopLine_frame (i : LineId) (s : State) : KeepsAllBut_nodes_lines_journal_link s (stopLine i s) := by
  unfold stopLine; try dsimp only
  (repeat' split) <;> simp [KeepsAllBut_nodes_lines_journal_link]

@[simp] theorem resetLine_frame (i : LineId) (s : State) : KeepsAllBut_nodes_lines_journal_link s (resetLine i s) := by
  unfold resetLine; try dsimp only
  (repeat' split) <;> simp [KeepsAllBut_nodes_lines_journal_link]

@[simp] theorem endLineDrain_frame (i : LineId) (s : State) : KeepsAllBut_lines_journal_link s (endLineDrain i s) := by
  unfold endLineDrain; try dsimp only
  (repeat' split) <;> simp [KeepsAllBut_lines_journal_link]

@[simp] theorem drainLine_frame (i : LineId) (s : State) : KeepsAllBut_nodes_lines_journal_link s (drainLine i s) := by
  unfold drainLine; try dsimp only
  (repeat' split) <;> simp [KeepsAllBut_nodes_lines_journal_link]

@[simp] theorem modBar_frame (line : LineId) (addr : Nat) (f : BarRec → BarRec) (s : State) : KeepsAllBut_nodes s (modBar line addr f s) := by
  unfold modBar; try dsimp only
  (repeat' split) <;> simp [KeepsAllBut_nodes]

@[simp] theorem comeToRest_frame (line : LineId) (addr : Nat) (s : State) : KeepsAllBut_nodes s (comeToRest line addr s) := by
  unfold comeToRest; try dsimp only
  (repeat' split) <;> simp [KeepsAllBut_nodes]

@[simp] theorem chargeTab_frame (name : NodeName) (room slot : Nat) (l : PendingLine) (s : State) : KeepsAllBut_rooms_journal_store_link s (chargeTab name room slot l s) := by
  unfold chargeTab; try dsimp only
  (repeat' split) <;> simp [KeepsAllBut_rooms_journal_store_link]

@[simp] theorem chargePrior_frame (name : NodeName) (room slot : Nat) (l : PendingLine) (s : State) : KeepsAllBut_journal_link s (chargePrior name room slot l s) := by
  unfold chargePrior; try dsimp only
  (repeat' split) <;> simp [KeepsAllBut_journal_link]

@[simp] theorem leaveSlot_frame (line : LineId) (addr slot : Nat) (s : State) : KeepsAllBut_nodes_store s (leaveSlot line addr slot s) := by
  unfold leaveSlot; try dsimp only
  (repeat' split) <;> simp [KeepsAllBut_nodes_store]

@[simp] theorem finaliseLines_frame (line : LineId) (addr room : Nat) (l : FMap PendingLine) (s : State) : KeepsAllBut_rooms_nodes_journal_store_link s (finaliseLines line addr room l s).1 := by
  induction l generalizing s with
  | nil => simp [finaliseLines, KeepsAllBut_rooms_nodes_journal_store_link]
  | cons e t ih =>
    obtain ⟨slot, x⟩ := e
    simp only [finaliseLines]
    split
    · rename_i h; simp only [finaliseLine] at h; split at h
      · cases h; split <;> simp [ih, KeepsAllBut_rooms_nodes_journal_store_link]
      · cases h
    · simp [KeepsAllBut_rooms_nodes_journal_store_link]

@[simp] theorem finaliseBar_frame (line : LineId) (addr : Nat) (s : State) : KeepsAllBut_rooms_nodes_journal_store_link s (finaliseBar line addr s).1 := by
  unfold finaliseBar; try dsimp only
  (repeat' split) <;> simp [KeepsAllBut_rooms_nodes_journal_store_link]

@[simp] theorem enterChargeWait_frame (line : LineId) (addr room : Nat) (s : State) : KeepsAllBut_nodes_link s (enterChargeWait line addr room s) := by
  unfold enterChargeWait; try dsimp only
  (repeat' split) <;> simp [KeepsAllBut_nodes_link]

@[simp] theorem graceEnds_frame (line : LineId) (addr room : Nat) (s : State) : KeepsAllBut_rooms_nodes_journal_store_link s (graceEnds line addr room s) := by
  unfold graceEnds; try dsimp only
  (repeat' split) <;> simp [KeepsAllBut_rooms_nodes_journal_store_link]

@[simp] theorem enterSettling_frame (line : LineId) (addr room : Nat) (s : State) : KeepsAllBut_rooms_nodes_journal_store_link s (enterSettling line addr room s) := by
  unfold enterSettling; try dsimp only
  (repeat' split) <;> simp [KeepsAllBut_rooms_nodes_journal_store_link]

@[simp] theorem retryWaiting_frame (l : List (LineId × Nat × Node)) (s : State) : KeepsAllBut_rooms_nodes_journal_store_link s (retryWaiting l s) := by
  induction l generalizing s with
  | nil => simp [retryWaiting, KeepsAllBut_rooms_nodes_journal_store_link]
  | cons e t ih => obtain ⟨a, b, c⟩ := e; simp only [retryWaiting]; split <;> simp [ih, KeepsAllBut_rooms_nodes_journal_store_link]

@[simp] theorem finaliseAll_frame (s : State) : KeepsAllBut_rooms_nodes_journal_store_link s (finaliseAll s) := by
  unfold finaliseAll; try dsimp only
  (repeat' split) <;> simp [KeepsAllBut_rooms_nodes_journal_store_link]

@[simp] theorem drainMinibars_frame (s : State) : KeepsAllBut_rooms_nodes_journal_store_link s (drainMinibars s) := by
  unfold drainMinibars; try dsimp only
  (repeat' split) <;> simp [KeepsAllBut_rooms_nodes_journal_store_link]

@[simp] theorem endUnused_frame (line : LineId) (addr : Nat) (n : Node) (s : State) : KeepsAllBut_rooms_nodes_lines_journal_store_link s (endUnused line addr n s) := by
  unfold endUnused; try dsimp only
  (repeat' split) <;> simp [KeepsAllBut_rooms_nodes_lines_journal_store_link]

@[simp] theorem refuseBar_frame (line : LineId) (addr : Nat) (n : Node) (p : Presentation) (d : Decision) (s : State) : KeepsAllBut_lines_journal_link s (refuseBar line addr n p d s) := by
  unfold refuseBar; try dsimp only
  (repeat' split) <;> simp [KeepsAllBut_lines_journal_link]

@[simp] theorem grantBar_frame (line : LineId) (addr : Nat) (n : Node) (p : Presentation) (f : BarRec → BarRec) (kind : JVal) (sum : Nat) (s : State) : KeepsAllBut_nodes_lines_journal_link s (grantBar line addr n p f kind sum s) := by
  unfold grantBar; try dsimp only
  (repeat' split) <;> simp [KeepsAllBut_nodes_lines_journal_link]

@[simp] theorem guestPresents_frame (line : LineId) (addr : Nat) (n : Node) (p : Presentation) (r : CredRec) (s : State) : KeepsAllBut_nodes_lines_journal_link s (guestPresents line addr n p r s) := by
  unfold guestPresents; try dsimp only
  (repeat' split) <;> simp [KeepsAllBut_nodes_lines_journal_link]

@[simp] theorem restockPresents_frame (line : LineId) (addr : Nat) (n : Node) (p : Presentation) (r : CredRec) (s : State) : KeepsAllBut_rooms_nodes_lines_journal_store_link s (restockPresents line addr n p r s) := by
  unfold restockPresents; try dsimp only
  (repeat' split) <;> simp [KeepsAllBut_rooms_nodes_lines_journal_store_link]

@[simp] theorem minibarPresents_frame (line : LineId) (addr : Nat) (n : Node) (p : Presentation) (s : State) : KeepsAllBut_rooms_nodes_lines_journal_store_link s (minibarPresents line addr n p s) := by
  unfold minibarPresents; try dsimp only
  (repeat' split) <;> simp [KeepsAllBut_rooms_nodes_lines_journal_store_link]

@[simp] theorem endGuest_frame (line : LineId) (addr : Nat) (n : Node) (s : State) : KeepsAllBut_rooms_nodes_journal_store_link s (endGuest line addr n s) := by
  unfold endGuest; try dsimp only
  (repeat' split) <;> simp [KeepsAllBut_rooms_nodes_journal_store_link]

@[simp] theorem endRestock_frame (line : LineId) (addr : Nat) (n : Node) (s : State) : KeepsAllBut_nodes_journal_store_link s (endRestock line addr n s) := by
  unfold endRestock; try dsimp only
  (repeat' split) <;> simp [KeepsAllBut_nodes_journal_store_link]

@[simp] theorem minibarDoor_frame (line : LineId) (addr : Nat) (n : Node) (isOpen : Bool) (s : State) : KeepsAllBut_rooms_nodes_journal_store_link s (minibarDoor line addr n isOpen s) := by
  unfold minibarDoor; try dsimp only
  (repeat' split) <;> simp [KeepsAllBut_rooms_nodes_journal_store_link]

@[simp] theorem firstSlots_frame (line : LineId) (addr : Nat) (n : Node) (reported : SlotSet) (s : State) : KeepsAllBut_nodes s (firstSlots line addr n reported s) := by
  unfold firstSlots; try dsimp only
  (repeat' split) <;> simp [KeepsAllBut_nodes]

@[simp] theorem guestSlot_frame (line : LineId) (addr : Nat) (n : Node) (reported : SlotSet) (slot : Nat) (s : State) : KeepsAllBut_nodes_journal_link s (guestSlot line addr n reported slot s) := by
  unfold guestSlot; try dsimp only
  (repeat' split) <;> simp [KeepsAllBut_nodes_journal_link]

@[simp] theorem takeSlots_frame (line : LineId) (addr : Nat) (reported : SlotSet) (s : State) : KeepsAllBut_nodes s (takeSlots line addr reported s) := by
  unfold takeSlots; try dsimp only
  (repeat' split) <;> simp [KeepsAllBut_nodes]

@[simp] theorem settleIfEmpty_frame (line : LineId) (addr : Nat) (s : State) : KeepsAllBut_nodes s (settleIfEmpty line addr s) := by
  unfold settleIfEmpty; try dsimp only
  (repeat' split) <;> simp [KeepsAllBut_nodes]

@[simp] theorem tamperSlots_frame (line : LineId) (addr : Nat) (n : Node) (removed returned : SlotSet) (s : State) : KeepsAllBut_nodes_journal_link s (tamperSlots line addr n removed returned s) := by
  unfold tamperSlots; try dsimp only
  (repeat' split) <;> simp [KeepsAllBut_nodes_journal_link]

@[simp] theorem slotEvent_frame (line : LineId) (addr : Nat) (n : Node) (present reported : SlotSet) (s : State) : KeepsAllBut_nodes_journal_link s (slotEvent line addr n present reported s) := by
  unfold slotEvent; try dsimp only
  (repeat' split) <;> simp [KeepsAllBut_nodes_journal_link]

@[simp] theorem slotsReported_frame (line : LineId) (addr : Nat) (n : Node) (reported : SlotSet) (s : State) : KeepsAllBut_nodes_journal_link s (slotsReported line addr n reported s) := by
  unfold slotsReported; try dsimp only
  (repeat' split) <;> simp [KeepsAllBut_nodes_journal_link]

@[simp] theorem endExch_frame (i : LineId) (s : State) : KeepsAllBut_lines s (endExch i s) := by
  unfold endExch; try dsimp only
  (repeat' split) <;> simp [KeepsAllBut_lines]

@[simp] theorem dropOldest_frame (i : LineId) (s : State) : KeepsAllBut_lines s (dropOldest i s) := by
  unfold dropOldest; try dsimp only
  (repeat' split) <;> simp [KeepsAllBut_lines]

@[simp] theorem restored_frame (i : LineId) (addr : Nat) (leg : Leg) (n : Node) (s : State) : KeepsAllBut_journal_link s (restored i addr leg n s) := by
  unfold restored; try dsimp only
  (repeat' split) <;> simp [KeepsAllBut_journal_link]

@[simp] theorem recordStatus_frame (i : LineId) (addr : Nat) (n : Node) (st : NodeStatus) (s : State) : KeepsAllBut_rooms_nodes_link s (recordStatus i addr n st s) := by
  unfold recordStatus; try dsimp only
  (repeat' split) <;> simp [KeepsAllBut_rooms_nodes_link]

@[simp] theorem answered_frame (i : LineId) (addr : Nat) (leg : Leg) (n : Node) (st : NodeStatus) (s : State) : KeepsAllBut_rooms_nodes_journal_link s (answered i addr leg n st s) := by
  unfold answered; try dsimp only
  (repeat' split) <;> simp [KeepsAllBut_rooms_nodes_journal_link]

@[simp] theorem doorEvent_frame (i : LineId) (addr : Nat) (n : Node) (e : NodeEvent) (s : State) : KeepsAllBut_nodes_lines_journal_link s (doorEvent i addr n e s) := by
  unfold doorEvent; try dsimp only
  (repeat' split) <;> simp [KeepsAllBut_nodes_lines_journal_link]

@[simp] theorem barEvent_frame (i : LineId) (addr : Nat) (n : Node) (e : NodeEvent) (s : State) : KeepsAllBut_rooms_nodes_lines_journal_store_link s (barEvent i addr n e s) := by
  unfold barEvent; try dsimp only
  (repeat' split) <;> simp [KeepsAllBut_rooms_nodes_lines_journal_store_link]

@[simp] theorem handOn_frame (i : LineId) (addr : Nat) (e : NodeEvent) (s : State) : KeepsAllBut_rooms_nodes_lines_journal_store_link s (handOn i addr e s) := by
  unfold handOn; try dsimp only
  (repeat' split) <;> simp [KeepsAllBut_rooms_nodes_lines_journal_store_link]

@[simp] theorem clearOwed_frame (i : LineId) (x : Exchange) (s : State) : KeepsAllBut_nodes s (clearOwed i x s) := by
  unfold clearOwed; try dsimp only
  (repeat' split) <;> simp [KeepsAllBut_nodes]

@[simp] theorem concluded_frame (i : LineId) (x : Exchange) (r : ReplyFrame) (s : State) : KeepsAllBut_rooms_nodes_lines_journal_store_link s (concluded i x r s) := by
  unfold concluded; try dsimp only
  (repeat' split) <;> simp [KeepsAllBut_rooms_nodes_lines_journal_store_link]

@[simp] theorem replyTaken_frame (i : LineId) (x : Exchange) (r : ReplyFrame) (s : State) : KeepsAllBut_rooms_nodes_lines_journal_store_link s (replyTaken i x r s) := by
  unfold replyTaken; try dsimp only
  (repeat' split) <;> simp [KeepsAllBut_rooms_nodes_lines_journal_store_link]

@[simp] theorem garbled_frame (i : LineId) (addr : Nat) (s : State) : KeepsAllBut_nodes s (garbled i addr s) := by
  unfold garbled; try dsimp only
  (repeat' split) <;> simp [KeepsAllBut_nodes]

@[simp] theorem spoilExch_frame (i : LineId) (s : State) : KeepsAllBut_lines s (spoilExch i s) := by
  unfold spoilExch; try dsimp only
  (repeat' split) <;> simp [KeepsAllBut_lines]

@[simp] theorem received_frame (i : LineId) (x : Exchange) (frame : List Byte) (s : State) : KeepsAllBut_rooms_nodes_lines_journal_store_link s (received i x frame s) := by
  unfold received; try dsimp only
  (repeat' split) <;> simp [KeepsAllBut_rooms_nodes_lines_journal_store_link]

@[simp] theorem missed_frame (i : LineId) (addr : Nat) (s : State) : KeepsAllBut_nodes_journal_link s (missed i addr s) := by
  unfold missed; try dsimp only
  (repeat' split) <;> simp [KeepsAllBut_nodes_journal_link]

@[simp] theorem failedBoth_frame (i : LineId) (x : Exchange) (s : State) : KeepsAllBut_nodes_lines_journal_link s (failedBoth i x s) := by
  unfold failedBoth; try dsimp only
  (repeat' split) <;> simp [KeepsAllBut_nodes_lines_journal_link]

@[simp] theorem expired_frame (i : LineId) (x : Exchange) (s : State) : KeepsAllBut_nodes_lines_journal_link s (expired i x s) := by
  unfold expired; try dsimp only
  (repeat' split) <;> simp [KeepsAllBut_nodes_lines_journal_link]

@[simp] theorem broadcastEnds_frame (i : LineId) (x : Exchange) (s : State) : KeepsAllBut_nodes_lines_journal_link s (broadcastEnds i x s) := by
  unfold broadcastEnds; try dsimp only
  (repeat' split) <;> simp [KeepsAllBut_nodes_lines_journal_link]

@[simp] theorem applyRec_frame (s : State) (r : LogRec) : KeepsAllBut_rooms_nodes_groups_prices_settings_cred_journal s (applyRec s r) := by
  unfold applyRec; try dsimp only
  (repeat' split) <;> simp [KeepsAllBut_rooms_nodes_groups_prices_settings_cred_journal]

@[simp] theorem placeJournal_frame (s : State) : KeepsAllBut_journal s (placeJournal s) := by
  unfold placeJournal; try dsimp only
  (repeat' split) <;> simp [KeepsAllBut_journal]

@[simp] theorem postStartLevel_frame (s : State) : KeepsAllBut_link s (postStartLevel s) := by
  unfold postStartLevel; try dsimp only
  (repeat' split) <;> simp [KeepsAllBut_link]

@[simp] theorem raiseIssue_frame (found : FMap CredRec) (s : State) (room : Nat) : KeepsAllBut_rooms_store s (raiseIssue found s room) := by
  unfold raiseIssue; try dsimp only
  (repeat' split) <;> simp [KeepsAllBut_rooms_store]

@[simp] theorem supersedeOld_frame (s : State) (room : Nat) : KeepsAllBut_cred_store s (supersedeOld s room) := by
  unfold supersedeOld; try dsimp only
  (repeat' split) <;> simp [KeepsAllBut_cred_store]

@[simp] theorem credentialStart_frame (s : State) : KeepsAllBut_rooms_cred_journal_store_link s (credentialStart s) := by
  unfold credentialStart; try dsimp only
  (repeat' split) <;> simp [KeepsAllBut_rooms_cred_journal_store_link]

@[simp] theorem endColdStart_frame (s : State) : KeepsAllBut_nodes_lines_journal_link s (endColdStart s) := by
  unfold endColdStart; try dsimp only
  (repeat' split) <;> simp [KeepsAllBut_nodes_lines_journal_link]

@[simp] theorem endProgram_frame (s : State) : KeepsAllBut_store_freeUses s (endProgram s) := by
  unfold endProgram; try dsimp only
  (repeat' split) <;> simp [KeepsAllBut_store_freeUses]

@[simp] theorem parkStart_frame (rate : LinkRate) (s : State) : KeepsAllBut_power_rooms_nodes_groups_prices_settings_cred_enc_lines_journal_store_link_signals s (parkStart rate s) := ⟨rfl, rfl, rfl⟩

@[simp] theorem beginDrain_frame (cause : DrainCause) (s : State) : KeepsAllBut_power_rooms_nodes_cred_enc_lines_journal_store_link s (beginDrain cause s) := by
  unfold beginDrain; try dsimp only
  (repeat' split) <;> simp [KeepsAllBut_power_rooms_nodes_cred_enc_lines_journal_store_link]

@[simp] theorem endDrain_frame (d : DrainInfo) (s : State) : KeepsAllBut_power_enc_link s (endDrain d s) := by
  unfold endDrain; try dsimp only
  (repeat' split) <;> simp [KeepsAllBut_power_enc_link]

@[simp] theorem testDrainEnd_frame (s : State) : KeepsAllBut_power_enc_link s (testDrainEnd s) := by
  unfold testDrainEnd; try dsimp only
  (repeat' split) <;> simp [KeepsAllBut_power_enc_link]

@[simp] theorem offerPowerDown_frame (d : DrainInfo) (s : State) : KeepsAllBut_power_enc_journal_link s (offerPowerDown d s) := by
  unfold offerPowerDown; try dsimp only
  (repeat' split) <;> simp [KeepsAllBut_power_enc_journal_link]

@[simp] theorem journalCompletes_frame (k : Nat) (r : JRec) (sound : Bool) (s : State) : KeepsAllBut_power_enc_journal_store_link_signals s (journalCompletes k r sound s) := by
  unfold journalCompletes; try dsimp only
  (repeat' split) <;> simp [KeepsAllBut_power_enc_journal_store_link_signals]

@[simp] theorem tableCompletes_frame (k : Nat) (key : EntryKey) (v : EntryVal) (sound : Bool) (s : State) : KeepsAllBut_enc_journal_store_link_signals s (tableCompletes k key v sound s) := by
  unfold tableCompletes; try dsimp only
  (repeat' split) <;> simp [KeepsAllBut_enc_journal_store_link_signals]

@[simp] theorem copyCompletes_frame (k : Nat) (key : EntryKey) (v : EntryVal) (sound : Bool) (s : State) : KeepsAllBut_journal_store_link s (copyCompletes k key v sound s) := by
  unfold copyCompletes; try dsimp only
  (repeat' split) <;> simp [KeepsAllBut_journal_store_link]

@[simp] theorem answerDeferred_frame (lines : List RLine) (s : State) : KeepsAllBut_link s (answerDeferred lines s) := by
  unfold answerDeferred; try dsimp only
  (repeat' split) <;> simp [KeepsAllBut_link]

@[simp] theorem startIfStopped_frame (s : State) (i : LineId) : KeepsAllBut_nodes_lines_journal_link s (startIfStopped s i) := by
  unfold startIfStopped; try dsimp only
  (repeat' split) <;> simp [KeepsAllBut_nodes_lines_journal_link]

@[simp] theorem commissioned_frame (i : Identity) (s : State) : KeepsAllBut_nodes_lines_journal_store_link s (commissioned i s) := by
  unfold commissioned; try dsimp only
  (repeat' split) <;> simp [KeepsAllBut_nodes_lines_journal_store_link]

@[simp] theorem identityFailed_frame (n : Nat) (i : Identity) (s : State) : KeepsAllBut_store_link s (identityFailed n i s) := by
  unfold identityFailed; try dsimp only
  (repeat' split) <;> simp [KeepsAllBut_store_link]

@[simp] theorem identityCompletes_frame (n : Nat) (i : Identity) (sound : Bool) (s : State) : KeepsAllBut_nodes_lines_journal_store_link s (identityCompletes n i sound s) := by
  unfold identityCompletes; try dsimp only
  (repeat' split) <;> simp [KeepsAllBut_nodes_lines_journal_store_link]

@[simp] theorem programCompletes_frame (p : Program) (sound : Bool) (s : State) : KeepsAllBut_power_nodes_enc_lines_journal_store_link_signals s (programCompletes p sound s) := by
  unfold programCompletes; try dsimp only
  (repeat' split) <;> simp [KeepsAllBut_power_nodes_enc_lines_journal_store_link_signals]

@[simp] theorem eraseCompletes_frame (e : EraseRun) (sound : Bool) (s : State) : KeepsAllBut_journal_store_link_freeUses s (eraseCompletes e sound s) := by
  unfold eraseCompletes; try dsimp only
  (repeat' split) <;> simp [KeepsAllBut_journal_store_link_freeUses]

@[simp] theorem acceptHeld_frame (s : State) : KeepsAllBut_journal_link s (acceptHeld s) := by
  unfold acceptHeld; try dsimp only
  (repeat' split) <;> simp [KeepsAllBut_journal_link]

@[simp] theorem placeWaiting_frame (s : State) (k : EntryKey) : KeepsAllBut_store s (placeWaiting s k) := by
  unfold placeWaiting; try dsimp only
  (repeat' split) <;> simp [KeepsAllBut_store]

@[simp] theorem oweModes_frame (s : State) : KeepsAllBut_nodes s (oweModes s) := by
  unfold oweModes; try dsimp only
  (repeat' split) <;> simp [KeepsAllBut_nodes]

@[simp] theorem setClock_frame (minute second : Nat) (s : State) : KeepsAllBut_clock_nodes_cred_journal_store_link s (setClock minute second s) := by
  unfold setClock; try dsimp only
  (repeat' split) <;> simp [KeepsAllBut_clock_nodes_cred_journal_store_link]

@[simp] theorem putRoom_frame (i : Nat) (e : RoomEntry) (s : State) : KeepsAllBut_rooms s (putRoom i e s) := by
  unfold putRoom; try dsimp only
  (repeat' split) <;> simp [KeepsAllBut_rooms]

@[simp] theorem dropPrivacy_frame (old : NodeEntry) (s : State) : KeepsAllBut_rooms s (dropPrivacy old s) := by
  unfold dropPrivacy; try dsimp only
  (repeat' split) <;> simp [KeepsAllBut_rooms]

@[simp] theorem putNode_frame (line : LineId) (addr : Nat) (e : NodeEntry) (s : State) : KeepsAllBut_rooms_nodes s (putNode line addr e s) := by
  unfold putNode; try dsimp only
  (repeat' split) <;> simp [KeepsAllBut_rooms_nodes]

@[simp] theorem applyNodeSet_frame (line : LineId) (addr : Nat) (e : NodeEntry) (s : State) : KeepsAllBut_rooms_nodes_lines s (applyNodeSet line addr e s) := by
  unfold applyNodeSet; try dsimp only
  (repeat' split) <;> simp [KeepsAllBut_rooms_nodes_lines]

@[simp] theorem removeNode_frame (line : LineId) (addr : Nat) (n : Node) (s : State) : KeepsAllBut_rooms_nodes_lines_journal_link s (removeNode line addr n s) := by
  unfold removeNode; try dsimp only
  (repeat' split) <;> simp [KeepsAllBut_rooms_nodes_lines_journal_link]

@[simp] theorem oweGroup_frame (i : LineId) (g : Nat) (s : State) : KeepsAllBut_nodes s (oweGroup i g s) := by
  unfold oweGroup; try dsimp only
  (repeat' split) <;> simp [KeepsAllBut_nodes]

@[simp] theorem sendGroup_frame (g : Nat) (o : Order) (r : State × GroupSent) (i : LineId) : KeepsAllBut_nodes_lines_journal_link r.1 (sendGroup g o r i).1 := by
  unfold sendGroup; try dsimp only
  (repeat' split) <;> simp [KeepsAllBut_nodes_lines_journal_link]

@[simp] theorem sendGroupOrder_frame (g : Nat) (s : State) : KeepsAllBut_nodes_lines_journal_link s (sendGroupOrder g s).1 := by
  unfold sendGroupOrder; simp [allLines, KeepsAllBut_nodes_lines_journal_link]

@[simp] theorem acceptIssue_frame (m : IssueMode) (slot : Nat) (r : CredRec) (s : State) : KeepsAllBut_cred_enc_store s (acceptIssue m slot r s) := by
  unfold acceptIssue; try dsimp only
  (repeat' split) <;> simp [KeepsAllBut_cred_enc_store]

@[simp] theorem checkOut_frame (room : Nat) (slots : List Nat) (s : State) : KeepsAllBut_rooms_cred_enc_journal_store_link s (checkOut room slots s) := by
  unfold checkOut; try dsimp only
  (repeat' split) <;> simp [KeepsAllBut_rooms_cred_enc_journal_store_link]

@[simp] theorem setHold_frame (room : Nat) (hold : Bool) (s : State) : KeepsAllBut_rooms_nodes s (setHold room hold s) := by
  unfold setHold; try dsimp only
  (repeat' split) <;> simp [KeepsAllBut_rooms_nodes]

@[simp] theorem releaseTo_frame (mark : Nat) (s : State) : KeepsAllBut_journal_store s (releaseTo mark s) := by
  unfold releaseTo; try dsimp only
  (repeat' split) <;> simp [KeepsAllBut_journal_store]

@[simp] theorem modInbound_frame (f : Inbound → Inbound) (s : State) : KeepsAllBut_link s (modInbound f s) := by
  unfold modInbound; try dsimp only
  (repeat' split) <;> simp [KeepsAllBut_link]

@[simp] theorem endLine_frame (s : State) : KeepsAllBut_link s (endLine s) := by
  unfold endLine; try dsimp only
  (repeat' split) <;> simp [KeepsAllBut_link]

@[simp] theorem discardPart_frame (s : State) : KeepsAllBut_link s (discardPart s) := by
  unfold discardPart; try dsimp only
  (repeat' split) <;> simp [KeepsAllBut_link]

end Sys2Proof.Machine
end

