-- ==== Sys2Proof/Laws/Finish.lean ====
section
/-!
SUPPORT. What ends every step: what the engine and the transmitter leave alone when they take up work.
-/

namespace Sys2Proof.Machine

/-! ## The engine -/

/-- What a change of the store by the engine's own choice leaves alone: the cells, what is read from them,
the waiting set, and the contents of every place. -/
structure Store.keeps (t u : Store) : Prop where
  tlog : u.tlog = t.tlog
  jreg : u.jreg = t.jreg
  idPlaces : u.idPlaces = t.idPlaces
  identity : u.identity = t.identity
  nextAppend : u.nextAppend = t.nextAppend
  waiting : u.waiting = t.waiting
  readOnly : u.readOnly = t.readOnly
  places : u.queue.map (fun p => (p.key, p.val)) = t.queue.map fun p => (p.key, p.val)

theorem Store.keeps_refl (t : Store) : t.keeps t := by constructor <;> rfl

theorem Store.keeps_trans {t u v : Store} (h : t.keeps u) (g : u.keeps v) : t.keeps v := by
  obtain ⟨a, b, c, d, e, f, i, j⟩ := h
  obtain ⟨a', b', c', d', e', f', i', j'⟩ := g
  exact ⟨a'.trans a, b'.trans b, c'.trans c, d'.trans d, e'.trans e, f'.trans f, i'.trans i, j'.trans j⟩

theorem post_store (c : NoticeClass) (d : Detail) (s : State) : (post c d s).store = s.store := rfl

theorem stall_keeps (s : State) : s.store.keeps (stall s).store := by
  unfold stall; split
  · exact s.store.keeps_refl
  · constructor <;> rfl

theorem countErased_keeps (s : State) : s.store.keeps (countErased s).store := by
  unfold countErased; split
  · exact s.store.keeps_refl
  · split
    · constructor <;> rfl
    · exact stall_keeps s

theorem takeLast_keeps (b : Bool) (k : Nat) (s : State) : s.store.keeps (takeLast b k s).store := by
  have held : s.store.keeps (if s.store.hasReclaim && !s.draining then holdWriter s else s).store := by
    split <;> constructor <;> rfl
  unfold takeLast; dsimp only
  generalize (if s.store.hasReclaim && !s.draining then holdWriter s else s) = u at held ⊢
  split
  · exact held
  · exact Store.keeps_trans held (Store.keeps_trans (by constructor <;> rfl) (countErased_keeps _))

theorem moveLogHead_keeps (b : Bool) (s : State) : s.store.keeps (moveLogHead b s).store := by
  unfold moveLogHead; split
  · exact s.store.keeps_refl
  · split
    · exact stall_keeps s
    · exact takeLast_keeps b _ s
    · exact Store.keeps_trans (by constructor <;> rfl) (countErased_keeps _)

theorem takeOldest_places (t : Store) :
    t.takeOldest.queue.map (fun p => (p.key, p.val)) = t.queue.map fun p => (p.key, p.val) := by
  unfold Store.takeOldest; split <;> simp_all

theorem takeOldest_keeps (t : Store) : t.keeps t.takeOldest := by
  refine ⟨?_, ?_, ?_, ?_, ?_, ?_, ?_, takeOldest_places t⟩ <;> (unfold Store.takeOldest; split <;> rfl)

theorem serve_keeps (r : Requester) (s : State) : s.store.keeps (serve r s).store := by
  unfold serve
  cases r with
  | tableWriter =>
    dsimp only; split
    · exact s.store.keeps_refl
    · constructor <;> rfl
    · exact Store.keeps_trans (takeOldest_keeps _) (by constructor <;> rfl)
  | journalWriter =>
    dsimp only; split
    · exact s.store.keeps_refl
    · constructor <;> rfl
  | reclaimer =>
    dsimp only; split
    · exact s.store.keeps_refl
    · constructor <;> rfl
    · exact Store.keeps_trans (moveLogHead_keeps true s) (by constructor <;> rfl)

theorem pumpEngine_keeps (s : State) : s.store.keeps (pumpEngine s).store := by
  unfold pumpEngine; split
  · exact s.store.keeps_refl
  · split
    · exact s.store.keeps_refl
    · unfold orderSuspension; split
      · constructor <;> rfl
      · exact s.store.keeps_refl
    · split
      · exact serve_keeps _ s
      · unfold resume; split
        · exact s.store.keeps_refl
        · constructor <;> rfl

theorem finish_keeps (s : State) : s.store.keeps (finish s).store := by
  have h := pumpEngine_keeps s
  unfold finish pumpTx
  split <;> simpa using h

@[simp] theorem finish_tlog (s : State) : (finish s).store.tlog = s.store.tlog := (finish_keeps s).tlog
@[simp] theorem finish_jreg (s : State) : (finish s).store.jreg = s.store.jreg := (finish_keeps s).jreg
@[simp] theorem finish_idPlaces (s : State) : (finish s).store.idPlaces = s.store.idPlaces := (finish_keeps s).idPlaces
@[simp] theorem finish_identity (s : State) : (finish s).store.identity = s.store.identity := (finish_keeps s).identity
@[simp] theorem finish_nextAppend (s : State) : (finish s).store.nextAppend = s.store.nextAppend :=
  (finish_keeps s).nextAppend
@[simp] theorem finish_waiting (s : State) : (finish s).store.waiting = s.store.waiting := (finish_keeps s).waiting
@[simp] theorem finish_readOnly (s : State) : (finish s).store.readOnly = s.store.readOnly := (finish_keeps s).readOnly

/-- The contents of a place depend on the keys and the contents alone. -/
theorem Store.contents_of_places {t u : Store}
    (h : u.queue.map (fun p => (p.key, p.val)) = t.queue.map fun p => (p.key, p.val)) (k : EntryKey) :
    u.contents k = t.contents k := by
  have e : ∀ q : List ChangePlace, (q.find? fun p => decide (p.key = k)).map ChangePlace.val =
      ((q.map fun p => (p.key, p.val)).find? fun e => decide (e.1 = k)).map Prod.snd := by
    intro q
    induction q with
    | nil => rfl
    | cons p q ih => by_cases hp : p.key = k <;> simp_all
  unfold Store.contents
  rw [e, e, h]

@[simp] theorem finish_contents (s : State) (k : EntryKey) : (finish s).store.contents k = s.store.contents k :=
  Store.contents_of_places (finish_keeps s).places k

@[simp] theorem finish_queue_length (s : State) : (finish s).store.queue.length = s.store.queue.length := by
  simpa using congrArg List.length (finish_keeps s).places

/-! ## The link -/

/-- What the posting of occurrences does to the link: entries of these notice classes. -/
structure Link.posts (classes : List NoticeClass) (l m : Link) : Prop where
  rest : { m with notices := l.notices } = l
  notices : ∀ c, c ∉ classes → m.notices.get c = l.notices.get c

theorem Link.posts_refl (classes : List NoticeClass) (l : Link) : l.posts classes l := ⟨rfl, fun _ _ => rfl⟩

theorem Link.posts_trans {classes : List NoticeClass} {l m n : Link} (h : l.posts classes m)
    (g : m.posts classes n) : l.posts classes n := by
  refine ⟨?_, fun c hc => (g.notices c hc).trans (h.notices c hc)⟩
  have h1 := h.rest; have g1 := g.rest
  rw [← h1, ← g1]

theorem Link.posts_mono {xs ys : List NoticeClass} {l m : Link} (h : l.posts xs m) (hs : xs ⊆ ys) : l.posts ys m :=
  ⟨h.rest, fun c hc => h.notices c fun hx => hc (hs hx)⟩

theorem Notices.get_set_other (t : Notices) {c d : NoticeClass} (n : Notice) (h : d ≠ c) :
    (t.set c n).get d = t.get d := by
  cases c <;> cases d <;> first | rfl | exact absurd rfl h

@[simp] theorem Notices.get_set_self (t : Notices) (c : NoticeClass) (n : Notice) : (t.set c n).get c = n := by
  cases c <;> rfl

theorem post_posts {c : NoticeClass} {classes : List NoticeClass} (h : c ∈ classes) (d : Detail) (s : State) :
    s.link.posts classes (post c d s).link :=
  ⟨rfl, fun _ hx => Notices.get_set_other _ _ fun he => hx (he ▸ h)⟩

theorem stall_posts (s : State) : s.link.posts [.store] (stall s).link := by
  unfold stall; split
  · exact s.link.posts_refl _
  · exact post_posts (by simp) _ (s.onStore _)

theorem countErased_posts (s : State) : s.link.posts [.store] (countErased s).link := by
  unfold countErased; split
  · exact s.link.posts_refl _
  · split
    · exact s.link.posts_refl _
    · exact stall_posts s

theorem takeLast_posts (b : Bool) (k : Nat) (s : State) : s.link.posts [.store] (takeLast b k s).link := by
  have held : (if s.store.hasReclaim && !s.draining then holdWriter s else s).link = s.link := by
    split <;> rfl
  unfold takeLast; dsimp only
  generalize (if s.store.hasReclaim && !s.draining then holdWriter s else s) = u at held ⊢
  split
  · rw [held]; exact s.link.posts_refl _
  · have h := countErased_posts (u.onStore fun t => { t with head := k })
    rwa [State.onStore_link, held] at h

theorem moveLogHead_posts (b : Bool) (s : State) : s.link.posts [.store] (moveLogHead b s).link := by
  unfold moveLogHead; split
  · exact s.link.posts_refl _
  · split
    · exact stall_posts s
    · exact takeLast_posts b _ s
    · exact countErased_posts (s.onStore _)

theorem pumpEngine_posts (s : State) : s.link.posts [.store] (pumpEngine s).link := by
  unfold pumpEngine; split
  · exact s.link.posts_refl _
  · split
    · exact s.link.posts_refl _
    · unfold orderSuspension; split <;> exact s.link.posts_refl _
    · split
      · unfold serve
        split <;> split <;> first | exact s.link.posts_refl _ | exact moveLogHead_posts true s
      · unfold resume; split <;> exact s.link.posts_refl _

/-- What the transmitter's taking of its next line leaves alone. -/
structure Link.keeps (l m : Link) : Prop where
  rate : m.rate = l.rate
  inbound : m.inbound = l.inbound
  holdOut : m.holdOut = l.holdOut
  holdIn : m.holdIn = l.holdIn
  deferred : m.deferred = l.deferred
  deferredDone : m.deferredDone = l.deferredDone
  errors : m.errors = l.errors
  slot : m.slot.map (fun r => (r.tag, r.lines)) = l.slot.map fun r => (r.tag, r.lines)
  notices : l.slot.isSome = true → m.notices = l.notices

theorem beginLine_keeps (l : Link) (b : Bool) : l.keeps (l.beginLine b) := by
  unfold Link.beginLine
  split
  · constructor <;> intros <;> rfl
  · split
    · next r x h =>
      obtain ⟨r', h1, h2⟩ := Option.bind_eq_some_iff.1 h
      obtain ⟨x', h3, h4⟩ := Option.map_eq_some_iff.1 h2
      obtain ⟨rfl, rfl⟩ := Prod.mk.inj h4
      constructor <;> simp [h1]
    · split
      · constructor <;> intros <;> rfl
      · next hs =>
        split
        · constructor <;> intros <;> rfl
        · constructor <;> intros <;> simp_all

theorem pumpTx_keeps (s : State) : s.link.keeps (pumpTx s).link := by
  unfold pumpTx; split
  · constructor <;> intros <;> rfl
  · exact beginLine_keeps _ _

/-- A class's entry after the transmitter has taken its next line: as it was, or begun. -/
def Link.begunOr (l m : Link) (c : NoticeClass) : Prop :=
  m.notices.get c = l.notices.get c ∨
    (m.tx = some (.notice c (l.notices.get c).count (l.notices.get c).detail) ∧
      m.notices.get c = (l.notices.get c).sent)

theorem beginLine_notice (l : Link) (b : Bool) (c : NoticeClass) : l.begunOr (l.beginLine b) c := by
  unfold Link.beginLine Link.begunOr
  split
  · exact .inl rfl
  · split
    · exact .inl rfl
    · split
      · exact .inl rfl
      · split
        · exact .inl rfl
        · next d _ =>
          by_cases h : c = d
          · subst h; right; simp
          · left; exact Notices.get_set_other _ _ h

theorem pumpTx_notice (s : State) (c : NoticeClass) : s.link.begunOr (pumpTx s).link c := by
  unfold pumpTx; split
  · exact .inl rfl
  · exact beginLine_notice _ _ c

theorem finish_notice (s : State) {c : NoticeClass} (h : c ≠ .store) : s.link.begunOr (finish s).link c := by
  have g := pumpTx_notice (pumpEngine s) c
  have e := (pumpEngine_posts s).notices c (by simpa using h)
  unfold Link.begunOr at g ⊢
  rw [e] at g; exact g

/-- What the end of a step leaves of the link. -/
structure Link.ends (l m : Link) : Prop where
  rate : m.rate = l.rate
  inbound : m.inbound = l.inbound
  holdOut : m.holdOut = l.holdOut
  holdIn : m.holdIn = l.holdIn
  deferred : m.deferred = l.deferred
  deferredDone : m.deferredDone = l.deferredDone
  errors : m.errors = l.errors
  slot : m.slot.map (fun r => (r.tag, r.lines)) = l.slot.map fun r => (r.tag, r.lines)
  notices : l.slot.isSome = true → ∀ c, c ≠ .store → m.notices.get c = l.notices.get c

theorem finish_ends (s : State) : s.link.ends (finish s).link := by
  have h := pumpEngine_posts s
  have g := pumpTx_keeps (pumpEngine s)
  have r := h.rest
  have f : ∀ {β : Type} (p : Link → β), (∀ x n, p { x with notices := n } = p x) →
      p (pumpEngine s).link = p s.link := by
    intro β p hp; rw [← r]; exact (hp _ _).symm
  refine ⟨g.rate.trans (f Link.rate fun _ _ => rfl), g.inbound.trans (f Link.inbound fun _ _ => rfl),
    g.holdOut.trans (f Link.holdOut fun _ _ => rfl), g.holdIn.trans (f Link.holdIn fun _ _ => rfl),
    g.deferred.trans (f Link.deferred fun _ _ => rfl), g.deferredDone.trans (f Link.deferredDone fun _ _ => rfl),
    g.errors.trans (f Link.errors fun _ _ => rfl), ?_, ?_⟩
  · exact g.slot.trans (f (fun x => x.slot.map fun r => (r.tag, r.lines)) fun _ _ => rfl)
  · intro hs c hc
    have e : (pumpEngine s).link.slot = s.link.slot := f Link.slot fun _ _ => rfl
    rw [show (finish s).link.notices = _ from g.notices (e ▸ hs)]
    exact h.notices c (by simpa using hc)

end Sys2Proof.Machine
end

