-- ==== Sys2Proof/Laws/Tables.lean ====
section
/-!
SUPPORT. The sparse table: reading after writing, and the canonical form kept.
-/

namespace Sys2Proof.FMap

variable {α : Type}

@[simp] theorem get_nil (k : Nat) : get ([] : FMap α) k = none := rfl

@[simp] theorem get_put_self (m : FMap α) (k : Nat) (v : α) : get (put m k v) k = some v := by
  induction m with
  | nil => simp [put, get]
  | cons e t ih =>
    obtain ⟨i, w⟩ := e
    simp only [put]
    split
    · simp [get]
    · split
      · simp [get]
      · simp_all [get]

theorem get_put_other (m : FMap α) {k j : Nat} (v : α) (h : j ≠ k) : get (put m k v) j = get m j := by
  induction m with
  | nil => simp [put, get, h]
  | cons e t ih =>
    obtain ⟨i, w⟩ := e
    simp only [put]
    split
    · simp [get, h]
    · split
      · next hk => subst hk; simp [get, h]
      · simp [get, ih]

@[simp] theorem get_del_self (m : FMap α) (k : Nat) : get (del m k) k = none := by
  induction m with
  | nil => rfl
  | cons e t ih =>
    obtain ⟨i, w⟩ := e
    by_cases h : i = k <;> simp_all [del, get]
    exact fun h' => absurd h'.symm h

theorem get_del_other (m : FMap α) {k j : Nat} (h : j ≠ k) : get (del m k) j = get m j := by
  induction m with
  | nil => rfl
  | cons e t ih =>
    obtain ⟨i, w⟩ := e
    by_cases hi : i = k
    · subst hi; simp_all [del, get]
    · simp_all [del, get]

@[simp] theorem get_set_self (m : FMap α) (k : Nat) (v : Option α) : get (set m k v) k = v := by
  cases v <;> simp [set]

theorem get_set_other (m : FMap α) {k j : Nat} (v : Option α) (h : j ≠ k) : get (set m k v) j = get m j := by
  cases v <;> simp [set, get_put_other, get_del_other, h]

@[simp] theorem get_mapVals (m : FMap α) (f : Nat → α → α) (k : Nat) :
    get (mapVals m f) k = (get m k).map (f k) := by
  induction m with
  | nil => rfl
  | cons e t ih =>
    obtain ⟨i, w⟩ := e
    by_cases h : k = i
    · subst h; simp [mapVals, get]
    · simpa [mapVals, get, h] using ih

theorem mem_put {m : FMap α} {k : Nat} {v : α} {e : Nat × α} (h : e ∈ put m k v) : e = (k, v) ∨ e ∈ m := by
  induction m with
  | nil => simpa [put] using h
  | cons x t ih =>
    obtain ⟨i, w⟩ := x
    simp only [put] at h
    split at h
    · simpa using h
    · split at h
      · simp only [List.mem_cons] at h ⊢; tauto
      · simp only [List.mem_cons] at h ⊢
        rcases h with h | h
        · exact .inr (.inl h)
        · rcases ih h with h | h
          · exact .inl h
          · exact .inr (.inr h)

theorem mem_set {m : FMap α} {k : Nat} {v : Option α} {e : Nat × α} (h : e ∈ set m k v) :
    (e.1 = k ∧ v = some e.2) ∨ e ∈ m := by
  cases v with
  | none => exact .inr (List.mem_of_mem_filter h)
  | some v =>
    rcases mem_put h with h | h
    · subst h; simp
    · exact .inr h

theorem mem_of_get {m : FMap α} {k : Nat} {v : α} (h : get m k = some v) : (k, v) ∈ m := by
  induction m with
  | nil => simp at h
  | cons e t ih =>
    obtain ⟨i, w⟩ := e
    simp only [get] at h
    split at h
    · next hk => subst hk; simp_all
    · exact List.mem_cons_of_mem _ (ih h)

theorem wf_put {m : FMap α} (h : m.wf) (k : Nat) (v : α) : (put m k v).wf := by
  induction m with
  | nil => simp [put]
  | cons e t ih =>
    obtain ⟨i, w⟩ := e
    simp only [List.pairwise_cons] at h
    simp only [put]
    split
    · next hk =>
      simp only [List.pairwise_cons, List.mem_cons, forall_eq_or_imp]
      exact ⟨⟨hk, fun x hx => lt_trans hk (h.1 x hx)⟩, h.1, h.2⟩
    · next hk =>
      split
      · next hi => subst hi; exact List.pairwise_cons.2 ⟨h.1, h.2⟩
      · next hi =>
        refine List.pairwise_cons.2 ⟨fun x hx => ?_, ih h.2⟩
        rcases mem_put hx with hx | hx
        · subst hx; simp only; omega
        · exact h.1 x hx

theorem wf_del {m : FMap α} (h : m.wf) (k : Nat) : (del m k).wf := h.filter _

theorem wf_set {m : FMap α} (h : m.wf) (k : Nat) (v : Option α) : (set m k v).wf := by
  cases v with
  | none => exact wf_del h k
  | some v => exact wf_put h k v

theorem wf_mapVals {m : FMap α} (h : m.wf) (f : Nat → α → α) : (mapVals m f).wf := by
  simpa [mapVals, wf, List.pairwise_map] using h

end Sys2Proof.FMap

namespace Sys2Proof

theorem mem_insertBy {α : Type} (key : α → Nat) (x y : α) (l : List α) : y ∈ insertBy key x l ↔ y = x ∨ y ∈ l := by
  induction l with
  | nil => simp [insertBy]
  | cons z t ih =>
    simp only [insertBy]; split
    · simp
    · simp only [List.mem_cons, ih]; tauto

theorem mem_foldl_insertBy {α : Type} (key : α → Nat) (y : α) (l acc : List α) :
    y ∈ l.foldl (fun acc x => insertBy key x acc) acc ↔ y ∈ l ∨ y ∈ acc := by
  induction l generalizing acc with
  | nil => simp
  | cons z t ih => simp only [List.foldl_cons, ih, mem_insertBy, List.mem_cons]; tauto

/-- Sorting keeps the members. -/
@[simp] theorem mem_sortBy {α : Type} (key : α → Nat) (y : α) (l : List α) : y ∈ sortBy key l ↔ y ∈ l := by
  simp [sortBy, mem_foldl_insertBy]

theorem insertBy_sorted {α : Type} (key : α → Nat) (x : α) {l : List α}
    (h : l.Pairwise fun a b => key a ≤ key b) : (insertBy key x l).Pairwise fun a b => key a ≤ key b := by
  induction l with
  | nil => simp [insertBy]
  | cons z t ih =>
    obtain ⟨h1, h2⟩ := List.pairwise_cons.1 h
    simp only [insertBy]; split
    · next hk =>
      refine List.pairwise_cons.2 ⟨fun a ha => ?_, h⟩
      rcases List.mem_cons.1 ha with rfl | ha
      · omega
      · have := h1 a ha; omega
    · next hk =>
      refine List.pairwise_cons.2 ⟨fun a ha => ?_, ih h2⟩
      rcases (mem_insertBy key x a t).1 ha with rfl | ha
      · omega
      · exact h1 a ha

/-- Sorting sorts. -/
theorem sortBy_sorted {α : Type} (key : α → Nat) (l : List α) :
    (sortBy key l).Pairwise fun a b => key a ≤ key b := by
  have : ∀ (l acc : List α), (acc.Pairwise fun a b => key a ≤ key b) →
      (l.foldl (fun acc x => insertBy key x acc) acc).Pairwise fun a b => key a ≤ key b := by
    intro l
    induction l with
    | nil => exact fun _ h => h
    | cons z t ih => exact fun acc h => ih _ (insertBy_sorted key z h)
  exact this l [] List.Pairwise.nil

end Sys2Proof
end

