-- ==== Sys2Proof/Laws/Queue.lean ====
section
/-!
SUPPORT. The table change queue, the waiting set, the staging queue and the order queues: what an offer to
each of them does, and that each stays within its places.
-/

namespace Sys2Proof.Machine

/-! ## The table change queue (R160) -/

theorem Store.hasPlace_iff (t : Store) (k : EntryKey) : t.hasPlace k = true ↔ ∃ p ∈ t.queue, p.key = k := by
  simp [Store.hasPlace]

/-- Whether an offer of an entry finds a place. -/
def Store.roomFor (t : Store) (k : EntryKey) : Prop := t.hasPlace k = true ∨ t.queue.length < Config.changePlaces

theorem contents_replaceIn (k : EntryKey) (v : EntryVal) (t : Store) (j : EntryKey) :
    ({ t with queue := replaceIn k v t.queue } : Store).contents j =
      if j = k then (if t.hasPlace k then some v else none) else t.contents j := by
  unfold Store.contents Store.hasPlace
  dsimp only
  generalize t.queue = q
  induction q with
  | nil => simp [replaceIn]
  | cons p q ih =>
    simp only [replaceIn, List.map_cons] at ih ⊢
    by_cases hp : p.key = k
    · by_cases hj : j = k
      · subst hj; simp [hp]
      · have : ¬ k = j := fun e => hj e.symm
        simp_all
    · by_cases hj : j = k
      · subst hj; simp_all
      · by_cases hpj : p.key = j <;> simp_all

theorem offerChange_contents_self {t : Store} {k : EntryKey} (h : t.roomFor k) (v : EntryVal) :
    (t.offerChange k v).contents k = some v := by
  unfold Store.offerChange
  by_cases hp : t.hasPlace k = true
  · rw [if_pos hp, contents_replaceIn]; simp [hp]
  · rw [if_neg hp, if_pos (h.resolve_left hp)]
    have hn : t.queue.find? (fun p => decide (p.key = k)) = none := by
      simpa [List.find?_eq_none, Store.hasPlace] using hp
    simp [Store.contents, hn]

theorem offerChange_contents_other (t : Store) {k j : EntryKey} (v : EntryVal) (h : j ≠ k) :
    (t.offerChange k v).contents j = t.contents j := by
  have hk : ¬ k = j := fun e => h e.symm
  unfold Store.offerChange
  split
  · rw [contents_replaceIn]; simp [h]
  · split
    · simp [Store.contents, hk]
    · split <;> rfl

theorem offerChange_waiting_other (t : Store) {k j : EntryKey} (v : EntryVal) (h : j ≠ k) :
    j ∈ (t.offerChange k v).waiting ↔ j ∈ t.waiting := by
  unfold Store.offerChange
  split
  · rfl
  · split
    · simp [h]
    · split
      · rfl
      · simp [h]

theorem offerChange_hasPlace (t : Store) (k j : EntryKey) (v : EntryVal) :
    (t.offerChange k v).hasPlace j = true → t.hasPlace j = true ∨ j = k := by
  unfold Store.offerChange
  split
  · intro h
    simp only [Store.hasPlace_iff, replaceIn, List.mem_map] at h ⊢
    obtain ⟨p, ⟨q, hq, rfl⟩, hp⟩ := h
    by_cases hk : q.key = k
    · right; simp [hk] at hp; exact hp.symm
    · left; simp [hk] at hp; exact ⟨q, hq, hp⟩
  · split
    · intro h
      simp only [Store.hasPlace_iff, List.mem_append, List.mem_singleton] at h ⊢
      obtain ⟨p, hp | rfl, e⟩ := h
      · exact .inl ⟨p, hp, e⟩
      · exact .inr e.symm
    · split <;> intro h <;> exact .inl h

theorem offerChange_hasPlace_mono (t : Store) (k j : EntryKey) (v : EntryVal) (h : t.hasPlace j = true) :
    (t.offerChange k v).hasPlace j = true := by
  unfold Store.offerChange
  simp only [Store.hasPlace_iff] at h ⊢
  obtain ⟨p, hp, rfl⟩ := h
  split
  · by_cases hk : p.key = k
    · exact ⟨⟨k, v, true⟩, by simp only [replaceIn, List.mem_map]; exact ⟨p, hp, by simp [hk]⟩, hk.symm⟩
    · exact ⟨p, by simp only [replaceIn, List.mem_map]; exact ⟨p, hp, by simp [hk]⟩, rfl⟩
  · split
    · exact ⟨p, by simp [hp], rfl⟩
    · split <;> exact ⟨p, hp, rfl⟩

theorem offerChange_hasPlace_self {t : Store} {k : EntryKey} (h : t.roomFor k) (v : EntryVal) :
    (t.offerChange k v).hasPlace k = true := by
  by_cases hp : t.hasPlace k = true
  · exact offerChange_hasPlace_mono t k k v hp
  · unfold Store.offerChange
    rw [if_neg hp, if_pos (h.resolve_left hp)]
    simp [Store.hasPlace]

theorem offerChange_length (t : Store) (k : EntryKey) (v : EntryVal) :
    (t.offerChange k v).queue.length =
      t.queue.length + (if t.hasPlace k = false ∧ t.queue.length < Config.changePlaces then 1 else 0) := by
  unfold Store.offerChange
  split
  · next h => simp [h, replaceIn]
  · next h =>
    split
    · next g => simp [g, h]
    · next g => simp [g]; split <;> rfl

/-- The entries of a list that have no place. -/
theorem canQueue_iff (t : Store) (keys : List EntryKey) (n : Nat) :
    t.canQueue keys n = true ↔
      t.queue.length + (keys.dedup.filter fun k => !t.hasPlace k).length + n ≤ Config.changePlaces := by
  simp [Store.canQueue]

theorem canQueue_roomFor {t : Store} {keys : List EntryKey} {n : Nat} (h : t.canQueue keys n = true)
    {k : EntryKey} (hk : k ∈ keys) : t.roomFor k := by
  by_cases hp : t.hasPlace k = true
  · exact .inl hp
  · right
    have hm : k ∈ keys.dedup.filter fun k => !t.hasPlace k := by simp [hk, hp]
    have := List.length_pos_of_mem hm
    rw [canQueue_iff] at h
    omega

/-- Once one of them has been placed, a queue that could take a list of entries can take any of the others. -/
theorem canQueue_offerChange {t : Store} {keys ks : List EntryKey} {n : Nat} (h : t.canQueue keys n = true)
    {k : EntryKey} (hk : k ∈ keys) (hs : ks ⊆ keys) (v : EntryVal) : (t.offerChange k v).canQueue ks n = true := by
  rw [canQueue_iff] at h ⊢
  have hr := canQueue_roomFor ((canQueue_iff t keys n).2 h) hk
  have hself := offerChange_hasPlace_self hr v
  rw [offerChange_length]
  have hsub : (ks.dedup.filter fun j => !(t.offerChange k v).hasPlace j) ⊆
      ((keys.dedup.filter fun j => !t.hasPlace j).erase k) := by
    intro j hj
    simp only [List.mem_filter, List.mem_dedup, Bool.not_eq_true'] at hj
    have hjk : j ≠ k := fun e => by rw [e] at hj; simp [hself] at hj
    rw [List.mem_erase_of_ne hjk]
    simp only [List.mem_filter, List.mem_dedup, Bool.not_eq_true']
    refine ⟨hs hj.1, ?_⟩
    by_contra hc
    have := offerChange_hasPlace_mono t k j v (by simpa using hc)
    simp [this] at hj
  have hnd : (ks.dedup.filter fun j => !(t.offerChange k v).hasPlace j).Nodup := (List.nodup_dedup ks).filter _
  have hle := (hnd.subperm hsub).length_le
  by_cases hp : t.hasPlace k = true
  · have := (List.erase_subset (a := k) (l := keys.dedup.filter fun j => !t.hasPlace j))
    have := (List.erase_sublist (a := k) (l := keys.dedup.filter fun j => !t.hasPlace j)).length_le
    simp [hp]; omega
  · have hm : k ∈ keys.dedup.filter fun k => !t.hasPlace k := by simp [hk, hp]
    have h1 := List.length_erase_of_mem hm
    have h2 := List.length_pos_of_mem hm
    simp [hp, hr.resolve_left hp]; omega

/-- An offer keeps the queue within its places. -/
theorem offerChange_within {t : Store} (h : t.queue.length ≤ Config.changePlaces) (k : EntryKey) (v : EntryVal) :
    (t.offerChange k v).queue.length ≤ Config.changePlaces := by
  rw [offerChange_length]; split
  · omega
  · omega

theorem enqueue_contents_self {k : EntryKey} {s : State} (h : s.store.roomFor k) :
    (enqueue k s).store.contents k = some (s.entryVal k) := offerChange_contents_self h _

theorem enqueue_contents_other {k j : EntryKey} (s : State) (h : j ≠ k) :
    (enqueue k s).store.contents j = s.store.contents j := offerChange_contents_other _ _ h

theorem enqueue_waiting_other {k j : EntryKey} (s : State) (h : j ≠ k) :
    j ∈ (enqueue k s).store.waiting ↔ j ∈ s.store.waiting := offerChange_waiting_other _ _ h

theorem canQueue_enqueue {s : State} {keys ks : List EntryKey} {n : Nat} (h : s.store.canQueue keys n = true)
    {k : EntryKey} (hk : k ∈ keys) (hs : ks ⊆ keys) : (enqueue k s).store.canQueue ks n = true :=
  canQueue_offerChange h hk hs _

/-- What an offered change leaves alone of the store. -/
theorem enqueue_store (k : EntryKey) (s : State) :
    ({ (enqueue k s).store with queue := s.store.queue, waiting := s.store.waiting } : Store) = s.store := by
  unfold enqueue Store.offerChange State.onStore
  dsimp only
  split
  · rfl
  · split
    · rfl
    · split <;> rfl

theorem enqueue_store_field {β : Type} (f : Store → β) (hf : ∀ t q w, f { t with queue := q, waiting := w } = f t)
    (k : EntryKey) (s : State) : f (enqueue k s).store = f s.store := by
  rw [← enqueue_store k s]; exact (hf _ _ _).symm

@[simp] theorem enqueue_tlog (k : EntryKey) (s : State) : (enqueue k s).store.tlog = s.store.tlog :=
  enqueue_store_field Store.tlog (fun _ _ _ => rfl) k s
@[simp] theorem enqueue_jreg (k : EntryKey) (s : State) : (enqueue k s).store.jreg = s.store.jreg :=
  enqueue_store_field Store.jreg (fun _ _ _ => rfl) k s
@[simp] theorem enqueue_idPlaces (k : EntryKey) (s : State) : (enqueue k s).store.idPlaces = s.store.idPlaces :=
  enqueue_store_field Store.idPlaces (fun _ _ _ => rfl) k s
@[simp] theorem enqueue_identity (k : EntryKey) (s : State) : (enqueue k s).store.identity = s.store.identity :=
  enqueue_store_field Store.identity (fun _ _ _ => rfl) k s
@[simp] theorem enqueue_nextAppend (k : EntryKey) (s : State) : (enqueue k s).store.nextAppend = s.store.nextAppend :=
  enqueue_store_field Store.nextAppend (fun _ _ _ => rfl) k s
@[simp] theorem enqueue_readOnly (k : EntryKey) (s : State) : (enqueue k s).store.readOnly = s.store.readOnly :=
  enqueue_store_field Store.readOnly (fun _ _ _ => rfl) k s

theorem entryVal_enqueue (k j : EntryKey) (s : State) : (enqueue k s).entryVal j = s.entryVal j := by
  cases j <;> simp [State.entryVal, State.node, State.group, State.price]

/-- Entries queued in turn, with room for all of them, all have their places. -/
theorem foldl_enqueue_placed {f : List EntryKey} {s : State} (hc : s.store.canQueue f 0 = true) :
    ∀ k ∈ f, (f.foldl (fun x k => enqueue k x) s).store.contents k = some (s.entryVal k) := by
  have : ∀ (keys f : List EntryKey) (s : State), f ⊆ keys →
      (∀ k ∈ keys, k ∉ f → s.store.contents k = some (s.entryVal k)) → s.store.canQueue f 0 = true →
      ∀ k ∈ keys, (f.foldl (fun x k => enqueue k x) s).store.contents k = some (s.entryVal k) := by
    intro keys f
    induction f with
    | nil => intro s _ h _ k hk; exact h k hk (by simp)
    | cons a f ih =>
      intro s hs h hc k hk
      have := ih (enqueue a s) (fun x hx => hs (List.mem_cons_of_mem _ hx)) (fun j hj hjf => by
          by_cases hja : j = a
          · subst hja; rw [enqueue_contents_self (canQueue_roomFor hc (by simp)), entryVal_enqueue]
          · rw [enqueue_contents_other _ hja, entryVal_enqueue, h j hj (by simp [hja, hjf])])
        (canQueue_enqueue hc (by simp) (by simp)) k hk
      rw [entryVal_enqueue] at this
      simpa using this
  exact this f f s (fun _ h => h) (fun k hk hkf => absurd hk hkf) hc

/-! ## The journal unit's acceptance (R137 to R139) -/

/-- Acceptance reads and changes the journal unit and the clock alone. -/
theorem acceptRec_journal (b : JBody) (s : State) :
    (acceptRec b s).journal = (s.journal.append s.clock b).dropHeld := by
  unfold acceptRec; dsimp only; split <;> simp

theorem acceptRec_congr {s t : State} (b : JBody) (h : s.journal = t.journal) (g : s.clock = t.clock) :
    (acceptRec b s).journal = (acceptRec b t).journal := by
  rw [acceptRec_journal, acceptRec_journal, h, g]

theorem acceptGap_congr {s t : State} (h : s.journal = t.journal) (g : s.clock = t.clock) :
    (acceptGap s).journal = (acceptGap t).journal := by
  unfold acceptGap; rw [h]; exact acceptRec_congr _ (by simp [h]) (by simpa using g)

theorem acceptGap_clock (s : State) : (acceptGap s).clock = s.clock := by simp

/-- What an offer does to the journal unit depends on the journal unit and the clock alone. -/
theorem offer_congr {s t : State} (b : JBody) (h : s.journal = t.journal) (g : s.clock = t.clock) :
    (offer b s).journal = (offer b t).journal := by
  have hg := acceptGap_congr h g
  have gg : (acceptGap s).clock = (acceptGap t).clock := by rw [acceptGap_clock, acceptGap_clock, g]
  unfold offer dropRec
  rw [h, hg]
  split
  · simp [h]
  · split
    · split
      · split
        · simp [hg]
        · exact acceptRec_congr b hg gg
      · simp [h]
    · split
      · exact acceptRec_congr b h g
      · simp [h]

theorem acceptRec_posts (b : JBody) (s : State) : s.link.posts [.journal] (acceptRec b s).link := by
  unfold acceptRec; dsimp only; split
  · exact post_posts (by simp) _ (s.onJournal _)
  · exact Link.posts_refl _ _

theorem acceptGap_posts (s : State) : s.link.posts [.journal] (acceptGap s).link :=
  acceptRec_posts _ (s.onJournal _)

/-- An offered record posts to the JOURNAL class at most (R137). -/
theorem offer_posts (b : JBody) (s : State) : s.link.posts [.journal] (offer b s).link := by
  unfold offer
  split
  · exact Link.posts_refl _ _
  · split
    · split
      · split
        · exact Link.posts_trans (acceptGap_posts s) (Link.posts_refl _ _)
        · exact Link.posts_trans (acceptGap_posts s) (acceptRec_posts b _)
      · exact Link.posts_refl _ _
    · split
      · exact acceptRec_posts b s
      · exact Link.posts_refl _ _

/-! ## Replies -/

@[simp] theorem placeReply_slot (tag : List (Fin 10)) (lines : List RLine) (s : State) :
    (placeReply tag lines s).link.slot = some ⟨tag, lines, 0⟩ := rfl

theorem placeReply_link (tag : List (Fin 10)) (lines : List RLine) (s : State) :
    (placeReply tag lines s).link = { s.link with slot := some ⟨tag, lines, 0⟩ } := rfl

/-! ## Names of nodes -/

theorem keyLine_nodeKey (l : LineId) {a : Nat} (h : a ≤ 120) : keyLine (nodeKey l a) = l := by
  have : (lineNum l * 128 + a) / 128 = lineNum l := by omega
  unfold keyLine nodeKey
  rw [this]; cases l <;> rfl

theorem keyAddr_nodeKey (l : LineId) {a : Nat} (h : a ≤ 120) : keyAddr (nodeKey l a) = a := by
  unfold keyAddr nodeKey; omega

end Sys2Proof.Machine
end

