-- ==== Sys2Proof/Laws/Requests.lean ====
section
/-!
SUPPORT. What an answered request comes to: the state it leaves, with its reply in the slot, and the frame of
the answer.
-/

namespace Sys2Proof.Machine

/-- A request that breaks no common test goes to its verb. -/
theorem desk_common {h : ReqHead} {s : State} (a : accepts h s) (always : Bool) (k : Answer) :
    desk h.tag s (common always h s k) = .next (finish (answer h.tag s k)) := by
  obtain ⟨a1, a2, a3⟩ := a
  simp [desk, common, done, a1, a2, a3]

/-- A request whose verb comes to this reply. -/
theorem desk_reply {h : ReqHead} {s u : State} {lines : List RLine} (a : accepts h s) {always : Bool} {k : Answer}
    (hk : k = .reply u lines) :
    desk h.tag s (common always h s k) = .next (finish (placeReply h.tag lines u)) := by
  rw [desk_common a, hk]; rfl

/-- A table request that fails none of the tests of R5 is carried out. -/
theorem tableRequest_ok {s : State} {a b c : Bool} {keys : List EntryKey} {k : Answer} (ha : a = false)
    (hb : b = false) (hc : c = false) (hr : s.store.readOnly = false) (hq : s.store.canQueue keys 0 = true) :
    tableRequest s a b c keys k = k := by
  simp [tableRequest, ha, hb, hc, hr, hq]

theorem keepsCells_refl (s : State) : keepsCells s s := by constructor <;> rfl

theorem keepsCells_trans {s t u : State} (h : keepsCells s t) (g : keepsCells t u) : keepsCells s u :=
  ⟨g.1.trans h.1, g.2.trans h.2, g.3.trans h.3, g.4.trans h.4, g.5.trans h.5, g.6.trans h.6⟩

theorem keepsCells_enqueue (k : EntryKey) (s : State) : keepsCells s (enqueue k s) := by
  constructor <;> simp

theorem keepsCells_of_store {s t : State} (h : t.store = s.store) : keepsCells s t := by
  constructor <;> rw [h]

theorem queuesOnly_of_store {s t : State} (keys : List EntryKey) (h : t.store = s.store) : queuesOnly keys s t := by
  intro k _; rw [h]; exact ⟨rfl, Iff.rfl⟩

theorem queuesOnly_trans {keys : List EntryKey} {s t u : State} (h : queuesOnly keys s t) (g : queuesOnly keys t u) :
    queuesOnly keys s u :=
  fun k hk => ⟨(g k hk).1.trans (h k hk).1, (g k hk).2.trans (h k hk).2⟩

theorem queuesOnly_enqueue {keys : List EntryKey} {k : EntryKey} (hk : k ∈ keys) (s : State) :
    queuesOnly keys s (enqueue k s) :=
  fun _ hj => ⟨enqueue_contents_other s fun e => hj (e ▸ hk), enqueue_waiting_other s fun e => hj (e ▸ hk)⟩

/-- The end of the step leaves every part but the store and the link as it was. -/
theorem finish_part (s : State) {p : Part} (h1 : p ≠ .store) (h2 : p ≠ .link) : p.same s (finish s) := by
  cases p <;> first | exact absurd rfl h1 | exact absurd rfl h2 | simp [Part.same]

theorem placeReply_part (tag : List (Fin 10)) (lines : List RLine) (s : State) {p : Part} (h : p ≠ .link) :
    p.same s (placeReply tag lines s) := by
  cases p <;> first | exact absurd rfl h | rfl

theorem same_trans {p : Part} {s t u : State} (h : p.same s t) (g : p.same t u) : p.same s u := by
  cases p <;> exact Eq.trans g h

/-- A reply made on a state that differs from the first in these parts only is an answer with this frame. -/
theorem answersOnly_reply {h : ReqHead} {lines : List RLine} {keys : List EntryKey} {parts : List Part}
    {classes : List NoticeClass} {s u : State} (cells : keepsCells s u) (changes : queuesOnly keys s u)
    (link : s.link.posts classes u.link) (rest : keepsBut (.store :: .link :: parts) s u) :
    answersOnly h lines keys parts classes s (finish (placeReply h.tag lines u)) := by
  have e := finish_ends (placeReply h.tag lines u)
  have r := link.rest
  have f : ∀ {β : Type} (p : Link → β), (∀ x n, p { x with notices := n } = p x) → p u.link = p s.link := by
    intro β p hp; rw [← r]; exact (hp _ _).symm
  refine ⟨?_, ?_, ?_, ?_, ?_, ?_⟩
  · have := e.slot
    rw [placeReply_slot] at this
    obtain ⟨x, hx, hy⟩ := Option.map_eq_some_iff.1 this
    obtain ⟨tag, l, n⟩ := x
    simp only [Prod.mk.injEq] at hy
    exact ⟨n, by rw [hx, hy.1, hy.2]⟩
  · obtain ⟨a, b, c, d, g, i⟩ := cells
    constructor <;> simp [placeReply, *]
  · intro k hk
    have := changes k hk
    simpa [placeReply] using this
  · refine ⟨e.rate.trans (f Link.rate fun _ _ => rfl), e.inbound.trans (f Link.inbound fun _ _ => rfl),
      e.holdOut.trans (f Link.holdOut fun _ _ => rfl), e.holdIn.trans (f Link.holdIn fun _ _ => rfl),
      e.deferred.trans (f Link.deferred fun _ _ => rfl), e.deferredDone.trans (f Link.deferredDone fun _ _ => rfl),
      e.errors.trans (f Link.errors fun _ _ => rfl)⟩
  · intro c hc
    simp only [List.mem_cons, not_or] at hc
    exact (e.notices rfl c hc.1).trans (link.notices c hc.2)
  · intro p hp
    have h1 : p ≠ .store := fun e => hp (by simp [e])
    have h2 : p ≠ .link := fun e => hp (by simp [e])
    exact same_trans (rest p hp) (same_trans (placeReply_part _ _ _ h2) (finish_part _ h1 h2))

/-- A refusal is an answer that changes nothing. -/
theorem answersOnly_refuse (h : ReqHead) (lines : List RLine) (s : State) :
    answersOnly h lines [] [] [] s (finish (placeReply h.tag lines s)) :=
  answersOnly_reply (keepsCells_refl s) (queuesOnly_of_store _ rfl) (Link.posts_refl _ _)
    (fun p _ => by cases p <;> rfl)

/-- An entry with a place still has it, with the same contents, when the step has ended. -/
theorem placed_finish {keys : List EntryKey} {tag : List (Fin 10)} {lines : List RLine} {u : State}
    (h : placed keys u) : placed keys (finish (placeReply tag lines u)) := by
  intro k hk
  have := h k hk
  have e : (finish (placeReply tag lines u)).entryVal k = u.entryVal k := by
    cases k <;> simp [State.entryVal, State.node, State.group, State.price]
  rw [e]; simpa [placeReply] using this

/-- An answer that queues one table entry: `u` is the state when it is queued, `w` the state that is answered. -/
theorem answersOnly_one {h : ReqHead} {lines : List RLine} {k : EntryKey} {parts : List Part}
    {classes : List NoticeClass} {s u w : State} (hu : u.store = s.store) (hw : w.store = (enqueue k u).store)
    (hv : w.entryVal k = u.entryVal k) (hq : s.store.roomFor k) (link : s.link.posts classes w.link)
    (rest : keepsBut (.store :: .link :: parts) s w) :
    placed [k] (finish (placeReply h.tag lines w)) ∧
      answersOnly h lines [k] parts classes s (finish (placeReply h.tag lines w)) := by
  refine ⟨placed_finish fun j hj => ?_, answersOnly_reply ?_ ?_ link rest⟩
  · rw [List.mem_singleton] at hj
    subst hj
    rw [hw, hv]; exact enqueue_contents_self (by rw [hu]; exact hq)
  · have := keepsCells_trans (keepsCells_of_store hu) (keepsCells_enqueue k u)
    exact keepsCells_trans this (keepsCells_of_store hw)
  · have := queuesOnly_trans (queuesOnly_of_store [k] hu) (queuesOnly_enqueue (List.mem_singleton_self k) u)
    exact queuesOnly_trans this (queuesOnly_of_store [k] hw)

/-! ## Events -/

/-- A part that is left in a state differing from the first in these parts only has changed them only. -/
theorem changesOnly_finish {keys : List EntryKey} {parts : List Part} {classes : List NoticeClass} {s u : State}
    (cells : keepsCells s u) (changes : queuesOnly keys s u) (link : s.link.posts classes u.link)
    (rest : keepsBut (.store :: .link :: parts) s u) : changesOnly keys parts classes s (finish u) := by
  have e := finish_ends u
  have r := link.rest
  have f : ∀ {β : Type} (p : Link → β), (∀ x n, p { x with notices := n } = p x) → p u.link = p s.link := by
    intro β p hp; rw [← r]; exact (hp _ _).symm
  refine ⟨?_, ?_, ?_, ?_, ?_, ?_⟩
  · obtain ⟨a, b, c, d, g, i⟩ := cells
    constructor <;> simp [*]
  · intro k hk
    simpa using changes k hk
  · refine ⟨e.rate.trans (f Link.rate fun _ _ => rfl), e.inbound.trans (f Link.inbound fun _ _ => rfl),
      e.holdOut.trans (f Link.holdOut fun _ _ => rfl), e.holdIn.trans (f Link.holdIn fun _ _ => rfl),
      e.deferred.trans (f Link.deferred fun _ _ => rfl), e.deferredDone.trans (f Link.deferredDone fun _ _ => rfl),
      e.errors.trans (f Link.errors fun _ _ => rfl)⟩
  · exact e.slot.trans (f (fun x => x.slot.map fun r => (r.tag, r.lines)) fun _ _ => rfl)
  · intro c hc
    simp only [List.mem_cons, not_or] at hc
    have g := finish_notice u hc.1
    unfold Link.begunOr at g
    rw [link.notices c hc.2] at g; exact g
  · intro p hp
    have h1 : p ≠ .store := fun e => hp (by simp [e])
    have h2 : p ≠ .link := fun e => hp (by simp [e])
    exact same_trans (rest p hp) (finish_part _ h1 h2)

/-- An occurrence posted before the step ends has been posted. -/
theorem posted_finish {c : NoticeClass} {d : Detail} {s u : State} (h : c ≠ .store)
    (hu : u.link.notices.get c = (s.link.notices.get c).occur d) : posted c d s (finish u) := by
  have g := finish_notice u h
  unfold Link.begunOr at g
  rw [hu] at g; exact g

/-- An entry with a place still has it when the step has ended. -/
theorem placed_end {keys : List EntryKey} {u : State} (h : placed keys u) : placed keys (finish u) := by
  intro k hk
  have e : (finish u).entryVal k = u.entryVal k := by
    cases k <;> simp [State.entryVal, State.node, State.group, State.price]
  rw [e]; simpa using h k hk

end Sys2Proof.Machine
end

