-- ==== Sys2Proof/Laws/Starts.lean ====
section
/-!
SUPPORT. What the store's operations of a cold start and of the end of a program leave: the sectors after a sector is
changed, the slots after an erase is given up; the frames of the operations a cold start is made of; the marks of owed
orders.
-/

namespace Sys2Proof.Machine

/-! ## Owed orders (R73, R105) -/

@[simp] theorem NodeLink.oweMode_modeOwed (l : NodeLink) : l.oweMode.modeOwed = true := rfl
@[simp] theorem NodeLink.oweMode_modeSent (l : NodeLink) : l.oweMode.modeSent = false := rfl
@[simp] theorem NodeLink.oweMode_groupOwed (l : NodeLink) : l.oweMode.groupOwed = l.groupOwed := rfl
@[simp] theorem NodeLink.oweMode_groupSent (l : NodeLink) : l.oweMode.groupSent = l.groupSent := rfl
@[simp] theorem NodeLink.oweMode_state (l : NodeLink) : l.oweMode.state = l.state := rfl
@[simp] theorem NodeLink.oweMode_miss (l : NodeLink) : l.oweMode.miss = l.miss := rfl
@[simp] theorem NodeLink.oweMode_garble (l : NodeLink) : l.oweMode.garble = l.garble := rfl
@[simp] theorem NodeLink.oweMode_status (l : NodeLink) : l.oweMode.status = l.status := rfl
@[simp] theorem NodeLink.oweGroup_groupOwed (l : NodeLink) : l.oweGroup.groupOwed = true := rfl
@[simp] theorem NodeLink.oweGroup_groupSent (l : NodeLink) : l.oweGroup.groupSent = false := rfl
@[simp] theorem NodeLink.oweGroup_modeOwed (l : NodeLink) : l.oweGroup.modeOwed = l.modeOwed := rfl
@[simp] theorem NodeLink.oweGroup_modeSent (l : NodeLink) : l.oweGroup.modeSent = l.modeSent := rfl
@[simp] theorem NodeLink.oweGroup_state (l : NodeLink) : l.oweGroup.state = l.state := rfl
@[simp] theorem NodeLink.oweGroup_miss (l : NodeLink) : l.oweGroup.miss = l.miss := rfl
@[simp] theorem NodeLink.oweGroup_garble (l : NodeLink) : l.oweGroup.garble = l.garble := rfl
@[simp] theorem NodeLink.oweGroup_status (l : NodeLink) : l.oweGroup.status = l.status := rfl

/-! ## Sectors (R153, R156) -/

/-- A region reads, at the sector stored, what was stored, and everywhere else what it read before. -/
theorem getD_putSector {α : Type} [DecidableEq α] (m : FMap (Sector α)) (k i : Nat) (c : Sector α) :
    ((putSector m k c).get i).getD .blank = if i = k then c else (m.get i).getD .blank := by
  unfold putSector
  by_cases h : i = k
  · subst h
    split <;> simp_all
  · rw [if_neg h]
    split <;> first | rw [FMap.get_del_other _ h] | rw [FMap.get_put_other _ _ h] | rw [FMap.get_set_other _ _ h]

theorem Store.tsec_modT (t : Store) (k i : Nat) (f : Sector LogRec → Sector LogRec) :
    (t.modT k f).tsec i = if i = k then f (t.tsec k) else t.tsec i := getD_putSector _ _ _ _

theorem Store.jsec_modJ (t : Store) (k i : Nat) (f : Sector JRec → Sector JRec) :
    (t.modJ k f).jsec i = if i = k then f (t.jsec k) else t.jsec i := getD_putSector _ _ _ _

@[simp] theorem Store.jsec_modT (t : Store) (k i : Nat) (f : Sector LogRec → Sector LogRec) :
    (t.modT k f).jsec i = t.jsec i := rfl

@[simp] theorem Store.tsec_modJ (t : Store) (k i : Nat) (f : Sector JRec → Sector JRec) :
    (t.modJ k f).tsec i = t.tsec i := rfl

theorem keepsSlots_refl (t : Store) : keepsSlots t t := ⟨fun _ => rfl, fun _ => rfl, rfl⟩

theorem keepsSlots_trans {t u v : Store} (h : keepsSlots t u) (g : keepsSlots u v) : keepsSlots t v :=
  ⟨fun k => (g.1 k).trans (h.1 k), fun k => (g.2 k).trans (h.2 k), g.3.trans h.3⟩

/-- A sector left interrupted keeps its slots (R169). -/
theorem cutSector_keepsSlots (k : Nat) (t : Store) : keepsSlots t (cutSector k t) := by
  unfold cutSector
  split <;> refine ⟨fun i => ?_, fun i => ?_, rfl⟩ <;> simp only [Store.tsec_modT, Store.jsec_modJ, Store.jsec_modT,
    Store.tsec_modJ] <;> split <;> simp_all

/-- Erases given up leave every slot (R169). -/
theorem cutErases_keepsSlots (t : Store) : keepsSlots t (cutErases t) := by
  have with_engine : ∀ (u : Store) e, keepsSlots u { u with engine := e } := fun _ _ => ⟨fun _ => rfl, fun _ => rfl, rfl⟩
  have with_suspended : ∀ (u : Store) e, keepsSlots u { u with suspended := e } := fun _ _ => ⟨fun _ => rfl, fun _ => rfl, rfl⟩
  have first : keepsSlots t (match t.engine with
      | .erasing e => { cutSector e.work.sector t with engine := .idle }
      | _ => t) := by
    split
    · exact keepsSlots_trans (cutSector_keepsSlots _ t) (with_engine _ _)
    · exact keepsSlots_refl t
  unfold cutErases
  dsimp only
  split
  · exact keepsSlots_trans first (keepsSlots_trans (cutSector_keepsSlots _ _) (with_suspended _ _))
  · exact first

/-! ## Frames of a cold start (R156, R184, R188) -/

/-- A part that parks as it starts holds its program in progress. -/
@[simp] theorem parkStart_engine (rate : LinkRate) (s : State) : (parkStart rate s).store.engine = s.store.engine := rfl
@[simp] theorem parkStart_nextAppend (rate : LinkRate) (s : State) :
    (parkStart rate s).store.nextAppend = s.store.nextAppend := rfl
@[simp] theorem parkStart_state (rate : LinkRate) (s : State) : (parkStart rate s).power.state = .parked := rfl

/-! ## The visits of a cycle (R11, R67) -/

@[simp] theorem Line.unlist_queue (a : Nat) (l : Line) : (l.unlist a).queue = l.queue := rfl
@[simp] theorem Line.unlist_exch (a : Nat) (l : Line) : (l.unlist a).exch = l.exch := rfl
@[simp] theorem Line.unlist_running (a : Nat) (l : Line) : (l.unlist a).running = l.running := rfl
@[simp] theorem Line.unlist_periodEnd (a : Nat) (l : Line) : (l.unlist a).periodEnd = l.periodEnd := rfl

/-- An address taken out of the visits to come is not among them. -/
theorem Line.unlist_rest {a : Nat} {l : Line} {c : Cycle} (h : (l.unlist a).cycle = some c) : a ∉ c.rest := by
  unfold Line.unlist at h
  cases hc : l.cycle with
  | none => simp [hc] at h
  | some d => simp [hc] at h; subst h; simp

end Sys2Proof.Machine
end

