-- ==== Sys2Proof/WellFormed.lean ====
section
/-!
DEFINITION. Which commands are well formed: those the part's surroundings can put to it. A request as the
desk link reads it has a tag of 1 to 4 digits (R175) and numbers of 1 to 10 digits (R197); an event names
what exists (an address, an image of 128 bytes).
-/

namespace Sys2Proof

/-- Whether a field's value, where one is given, has this property. -/
def argAll {α : Type} (p : α → Bool) : Arg α → Bool
  | .given v => p v
  | _ => true

/-- A number of 1 to 10 decimal digits (R197). -/
def numOk : Arg Nat → Bool := argAll fun n => decide (n ≤ 9999999999)

/-- The numbers of a request. -/
def numsOk (l : List (Arg Nat)) : Bool := l.all numOk

/-- A set of numbers. -/
def setOk : Arg (List Nat) → Bool := argAll fun l => l.all fun n => decide (n ≤ 9999999999)

/-- A window. -/
def windowOk : Arg (Nat × Nat) → Bool :=
  argAll fun w => decide (w.1 ≤ 9999999999) && decide (w.2 ≤ 9999999999)

/-- An end of validity. -/
def untilOk : Arg EndMinute → Bool := argAll fun e => e.all fun n => decide (n ≤ 9999999999)

/-- A name, whose characters are neither its closing quote nor the end of its line (R197). -/
def nameOk : Arg (List Byte) → Bool := argAll fun b => !(b.contains 0x22) && !(b.contains 0x0A)

/-- A tag of 1 to 4 digits (R175). -/
def ReqHead.ok (h : ReqHead) : Bool := decide (1 ≤ h.tag.length) && decide (h.tag.length ≤ 4)

/-- An address of a node (01 section 1.4). -/
def addrOk (a : Nat) : Bool := decide (1 ≤ a) && decide (a ≤ 120)

/-- Whether a head answer has the form R45 gives it. -/
def ReadAnswer.ok : ReadAnswer → Bool
  | .image b => decide (b.length = 128)
  | .noCard => true

/-- Whether a command is well formed. -/
def Instr.wf : Instr → Bool
  | .powerOn _ _ => true
  | .pfwAsserted => true
  | .pfwDeasserted _ => true
  | .resetAsserted => true
  | .resetReleased _ => true
  | .powerDown => true
  | .postDrainColdStart _ => true
  | .hotelClockTick => true
  | .deskLineReceived _ => true
  | .lineDiscardCharacter => true
  | .takeRequest => true
  | .holdInAsserted => true
  | .holdInReleased => true
  | .transmitLineComplete => true
  | .status h => h.ok
  | .commission h site seed name => h.ok && numsOk [site, seed] && nameOk name
  | .identityProgramComplete _ => true
  | .identity h => h.ok
  | .clockSet h minute second => h.ok && numsOk [minute, second]
  | .clockGet h => h.ok
  | .setup h fresh unlatch latch grace late wait _ =>
    h.ok && numsOk [fresh, unlatch, latch, grace, late, wait]
  | .roomSet h room label access limit discount => h.ok && numsOk [room, label, limit, discount] && setOk access
  | .roomGet h room => h.ok && numOk room
  | .roomResetIssue h room => h.ok && numOk room
  | .roomLockout h room _ => h.ok && numOk room
  | .nodeSet h line addr _ pos room group _ => h.ok && numsOk [line, addr, pos, room, group]
  | .nodeGet h line addr => h.ok && numsOk [line, addr]
  | .nodeRemove h line addr => h.ok && numsOk [line, addr]
  | .stock h line addr codes => h.ok && numsOk [line, addr] && decide (codes.length = 12) && numsOk codes
  | .groupSet h group _ => h.ok && numOk group
  | .groupRelease h group => h.ok && numOk group
  | .groupSecure h group => h.ok && numOk group
  | .groupNormal h group => h.ok && numOk group
  | .priceSet h item price tax => h.ok && numsOk [item, price, tax]
  | .priceGet h item => h.ok && numOk item
  | .issue h _ room validFrom validUntil groups window _ =>
    h.ok && numsOk [room, validFrom] && untilOk validUntil && setOk groups && windowOk window
  | .cancel h number => h.ok && numOk number
  | .revoke h number _ => h.ok && numOk number
  | .checkout h room => h.ok && numOk room
  | .credGet h number room => h.ok && numsOk [number, room]
  | .cardRead h => h.ok
  | .cardReadLast h last => h.ok && decide (last ≠ .absent)
  | .encoderReset h => h.ok
  | .tabGet h room => h.ok && numOk room
  | .tabSettle h room => h.ok && numOk room
  | .minibarHold h room _ => h.ok && numOk room
  | .jread h start count => h.ok && numsOk [start, count]
  | .jrelease h through => h.ok && numOk through
  | .doorUnlock h line addr time => h.ok && numsOk [line, addr, time]
  | .lineEnable h line => h.ok && numOk line
  | .lineDisable h line => h.ok && numOk line
  | .lineReset h line => h.ok && numOk line
  | .lineSet h line period timeout => h.ok && numsOk [line, period, timeout]
  | .lineGet h line => h.ok && numOk line
  | .notices h _ _ _ _ _ _ _ _ => h.ok
  | .restart h => h.ok
  | .intentRecordProgrammed => true
  | .cardInChange _ => true
  | .cardWaitExpiry => true
  | .writeImageAnswer _ => true
  | .readImageAnswer answer => answer.ok
  | .headTimeout => true
  | .heldOutcomeRetry => true
  | .cycleBegin _ => true
  | .nodeReply _ _ _ => true
  | .replyTimeout _ => true
  | .broadcastSent _ => true
  | .latchEnd _ addr => addrOk addr
  | .graceEnd _ addr => addrOk addr
  | .chargeWaitRetry => true
  | .journalProgramComplete _ => true
  | .heldOverrunAccept => true
  | .preErase => true
  | .tableLogProgramComplete _ => true
  | .waitingSetPlacement => true
  | .copyForwardComplete _ => true
  | .eraseComplete _ => true
  | .eraseSuspend => true
  | .eraseRunLimit => true
  | .programTimeout => true
  | .powerLoss => true
  | .characterReceived c _ => c != 0x0A && c != 0x18
  | .directedFrameSent _ => true
  | .suspensionTakesEffect => true

end Sys2Proof
end

