-- ==== Sys2Proof/Tests/Slice0.lean ====
section
/-!
SUPPORT. Tests: terms that `Instr.wf` refuses, states that meet the hypotheses of each statement, and worked
examples of the spec.
-/

namespace Sys2Proof.Tests

-- Many evaluations in parallel exceed the memory that the check allows.
set_option Elab.async false

open Sys2Proof Sys2Proof.Machine

/-! ## A small site -/

/-- The head of a request with the tag 57. -/
def hd : ReqHead := ⟨[5, 7], false⟩

/-- An identity. -/
def idn : Identity := ⟨77, 12345, [0x48]⟩

/-- A room with issue number 3, a tab of 450, a limit of 10,000 and a discount of 750 basis points. -/
def room7 : Room := ⟨⟨312, 3, 3, false, 450, 10000, 750⟩, false, false⟩

/-- A node's link, answering on leg A and owed nothing. -/
def onA : NodeLink := ⟨.onA, 0, 0, false, false, false, false, none⟩

/-- The door of room 7, in group 0. -/
def doorNode : Node := ⟨⟨.roomDoor, 3, some 7, 0, true, [], 0⟩, onA, .start, .start⟩

/-- The minibar of room 7, in group 1, every slot stocked with item 5. -/
def barNode : Node := ⟨⟨.minibar, 4, some 7, 1, true, List.replicate 12 5, 0xFFF⟩, onA, .start, .start⟩

/-- A RUNNING line at rest between cycles. -/
def lineUp : Line := { Line.start with running := true, restart := false, periodEnd := some 250 }

/-- The store of a commissioned part. -/
def store0 : Store := { State.reset.store with
  identity := some idn, idPlaces := [.written idn, .erased, .erased, .erased] }

/-- A commissioned part with a VALID clock, one room, its door and its minibar, and line 1 RUNNING. -/
def base : State := { State.reset with
  clock := ⟨28962000, 30, .valid, false⟩
  rooms := [(7, room7)]
  nodes := [(133, doorNode), (137, barNode)]
  lines := ⟨lineUp, .start, .start, .start⟩
  store := store0 }

/-- The part `base` with one credential record in slot 4. -/
def withCred (r : CredRec) : State := { base with cred := { CredUnit.start with slots := [(4, r)], serial := 9 } }

/-- An ACTIVE GUEST credential of room 7. -/
def guest : CredRec := ⟨9, .guest, .active, 7, 3, 28960000, some 28963380, 0, 0, 0, true, none, 0⟩

/-- The part `base` with an encoder controller. -/
def withEnc (e : Encoder) (r : CredRec) : State := { withCred r with enc := e }

/-- An issue job for the credential in slot 4. -/
def job0 : Job := ⟨.issue, .newStay, .preparing, 9, 4, none, 0, false, false, false, none, none, none, none, none⟩

/-- The part `base` with an exchange outstanding on line 1, its frame sent. -/
def withExch (k : ExchKind) (second : Bool) (q : List Order) (c : Option Cycle) : State := { base with
  lines := ⟨{ lineUp with
    exch := some ⟨k, .a, 5, second, false, 5, pollFrame 5, false⟩, queue := q, cycle := c }, .start, .start, .start⟩ }

/-- The part `base` with its minibar's record. -/
def withBar (b : BarRec) : State := { base with nodes := [(133, doorNode), (137, { barNode with bar := b })] }

/-- The part `base` in a storm drain. -/
def drainingPart (d : DrainInfo) : State := { base with
  power := { base.power with state := .draining, drain := some d }
  lines := ⟨.start, .start, .start, .start⟩ }

/-- The state after a command. -/
def after (c : Instr) (s : State) : State :=
  match exec c s with
  | .next t => t
  | _ => s

theorem base_accepts : accepts hd base := ⟨rfl, rfl, rfl⟩

/-! ## Ill-formed commands, one for each check -/

theorem test_wf_sound : Instr.wf (.clockSet hd (.given 0) (.given 59)) = true := by decide
theorem test_wf_tag_empty : Instr.wf (.status ⟨[], false⟩) = false := by decide
theorem test_wf_tag_long : Instr.wf (.status ⟨[1, 2, 3, 4, 5], false⟩) = false := by decide
theorem test_wf_number : Instr.wf (.roomGet hd (.given 10000000000)) = false := by decide
theorem test_wf_numbers : Instr.wf (.clockSet hd (.given 1) (.given 10000000000)) = false := by decide
theorem test_wf_set :
    Instr.wf (.roomSet hd (.given 1) .absent (.given [10000000000]) .absent .absent) = false := by decide
theorem test_wf_window :
    Instr.wf (.issue hd (.given .staff) .absent .absent .absent .absent (.given (0, 10000000000)) .absent) = false := by
  decide
theorem test_wf_until :
    Instr.wf (.issue hd (.given .staff) .absent .absent (.given (some 10000000000)) .absent .absent .absent) = false := by
  decide
theorem test_wf_name_quote :
    Instr.wf (.commission hd (.given 1) (.given 1) (.given [0x41, 0x22])) = false := by decide
theorem test_wf_name_lf :
    Instr.wf (.commission hd (.given 1) (.given 1) (.given [0x0A])) = false := by decide
theorem test_wf_stock_slots : Instr.wf (.stock hd (.given 1) (.given 9) [.given 1]) = false := by decide
theorem test_wf_last : Instr.wf (.cardReadLast hd .absent) = false := by decide
theorem test_wf_image : Instr.wf (.readImageAnswer (.image [1, 2, 3])) = false := by decide
theorem test_wf_addr_low : Instr.wf (.latchEnd .l1 0) = false := by decide
theorem test_wf_addr_high : Instr.wf (.graceEnd .l1 121) = false := by decide
theorem test_wf_lf : Instr.wf (.characterReceived 0x0A false) = false := by decide
theorem test_wf_discard : Instr.wf (.characterReceived 0x18 true) = false := by decide

/-! ## States that meet the hypotheses: the whole part and the requests that read -/

theorem witness_StepTakesTheFrontCommand : State.reset.pending = [] := rfl

/-- A part at work with a command waiting is canonical, within its places, in range and at work. -/
theorem witness_invariants : base.canonical ∧ base.withinPlaces ∧ base.clockInRange ∧ base.linesAtWork ∧
    ∃ t, step { base with pending := [.hotelClockTick] } = .next t := by
  refine ⟨⟨?_, ?_, ?_, ?_, ?_, ?_, ?_, ?_, ?_, ?_, ?_, ?_, ?_⟩, ⟨?_, ?_, ?_⟩, ⟨?_, ?_⟩, ⟨?_, ?_, ?_⟩, _, rfl⟩
  any_goals decide +kernel
  all_goals intro i; cases i <;> intros <;> first | decide +kernel | simp_all [base, lineUp, State.line, PerLine.get, Line.start]

theorem witness_CommonTestsOfRequests : requestHead (.clockGet hd) = some hd ∧
    { base with link := { base.link with slot := some ⟨[1], [.ok], 0⟩ } }.takesRequest = false ∧
    ((drainingPart ⟨.pfw, false, none, false⟩).takesRequest = true ∧
      (drainingPart ⟨.pfw, false, none, false⟩).draining = true ∧ answeredInDrain (.clockGet hd) = false) ∧
    (base.takesRequest = true ∧ base.draining = false ∧ requestHead (.clockGet ⟨[1], true⟩) = some ⟨[1], true⟩) ∧
    answeredInDrain (.status ⟨[1], true⟩) = true := by decide +kernel

theorem witness_RefusalsChangeNothing : ∃ t, exec (.priceGet hd (.given 0)) base = .next t ∧
    replied hd [.err .field] t := ⟨_, rfl, 1, by decide +kernel⟩

theorem witness_RoomTabAndNodeReads :
    let s := { base with
      rooms := [(0, room7), (511, room7)], nodes := [(129, doorNode), (248, barNode), (249, barNode)] }
    accepts hd s ∧ s.rooms.get 0 = some room7 ∧ s.rooms.get 511 = some room7 ∧ s.rooms.get 510 = none ∧
    s.node .l1 1 = some doorNode ∧ s.node .l1 120 = some barNode ∧ s.node .l4 120 = none :=
  ⟨⟨rfl, rfl, rfl⟩, rfl, rfl, rfl, rfl, rfl, rfl⟩

theorem witness_ClockPriceAndIdentityReads : accepts hd base ∧ accepts hd State.reset ∧ 1 ≤ 1 ∧ 1 ≤ 127 ∧ 127 ≤ 127 :=
  ⟨⟨rfl, rfl, rfl⟩, ⟨rfl, rfl, rfl⟩, by decide⟩

theorem witness_CredentialReads :
    let s := { base with rooms := [(0, room7), (511, room7)], enc := { base.enc with lastRead := some .noCard } }
    accepts hd s ∧ 1 ≤ max32 ∧ s.rooms.get 0 = some room7 ∧ s.rooms.get 511 = some room7 ∧
    s.enc.lastRead = some .noCard ∧ State.reset.enc.lastRead = none :=
  ⟨⟨rfl, rfl, rfl⟩, by decide, rfl, rfl, rfl, rfl⟩

/-- The part `base` with one entry on its revocation list, for a number that no record holds. -/
def listed : State := { base with
  cred := { CredUnit.start with list := [(3, ⟨1, some ⟨50, .lost, 28960000, none, 1, 0⟩⟩)], revCount := 1 } }

/-- R43, R37: a number on the list alone is answered with the place, the reason and the minute of its entry. -/
theorem test_cred_get_of_the_list_alone : accepts hd listed ∧ listed.findCred 50 = none ∧
    (match exec (.credGet hd (.given 50) .absent) listed with
     | .next t => t.link.slot.map ReplySlot.lines
     | _ => none) = some [.credListed 50 .lost 28960000 ⟨3, 1, none, 1, 0⟩] :=
  ⟨⟨rfl, rfl, rfl⟩, by decide +kernel⟩

theorem witness_StatusAndLineReads :
    (drainingPart ⟨.pfw, false, none, false⟩).takesRequest = true ∧ hd.badField = false ∧ base.draining = false := by
  decide +kernel

/-- A journal with two records programmed and one staged. -/
def journal2 : State := { base with
  journal := { base.journal with staging := [{ startRecord with seq := 3 }], nextSeq := 4, newest := 2 } }

theorem witness_JournalRequests : accepts hd journal2 ∧ 1 ≤ max32 ∧ min 0 journal2.journal.newest ≤ journal2.journal.mark ∧
    journal2.journal.mark < min 1 journal2.journal.newest ∧ journal2.journal.mark < min max32 journal2.journal.newest ∧
    journal2.store.canQueue [.journalState] 0 = true := ⟨⟨rfl, rfl, rfl⟩, by decide +kernel⟩

/-! ## Requests that change the clock and the tables -/

theorem witness_ClockSetTakesEffect : accepts hd base ∧ accepts hd State.reset ∧ maxMinute ≤ maxMinute ∧ 59 ≤ 59 :=
  ⟨⟨rfl, rfl, rfl⟩, ⟨rfl, rfl, rfl⟩, by decide⟩

theorem witness_SettingsAreSet :
    let s := { base with journal := { base.journal with writer := .full } }
    accepts hd base ∧ accepts hd s ∧ s.store.readOnly = false ∧ s.store.canQueue [.settings] 0 = true ∧
    s.store.canQueue [.settings, .journalState] 0 = true ∧ s.journal.nextSeq ≠ max32 ∧
    (Arg.given Policy.overwrite ≠ .malformed ∧ Arg.given 31 ≠ .malformed) :=
  ⟨⟨rfl, rfl, rfl⟩, ⟨rfl, rfl, rfl⟩, by decide +kernel⟩

theorem witness_RoomSetTakesEffect : accepts hd base ∧ badOpt (.given 9999) 1 9999 = false ∧
    badOpt (.given 1) 1 9999 = false ∧ badSet (.given [0, 15]) = false ∧ base.rooms.get 7 = some room7 ∧
    base.rooms.get 511 = none ∧ (∀ e ∈ base.rooms, e.1 ≠ 511 → Arg.given 9999 ≠ .given e.2.entry.label) ∧
    base.store.canQueue [.room 511] 0 = true ∧ base.store.canQueue [.room 7] 0 = true :=
  ⟨⟨rfl, rfl, rfl⟩, by decide +kernel⟩

theorem witness_IssueNumberAndLockoutOfARoom :
    let s := withCred { guest with state := .lapsed }
    accepts hd s ∧ s.rooms.get 7 = some room7 ∧
    (∀ e ∈ s.cred.slots, e.2.kind = .guest → e.2.room = 7 → e.2.state ≠ .active ∧ e.2.state ≠ .pending) ∧
    s.store.readOnly = false ∧ s.store.canQueue [.room 7] 0 = true := ⟨⟨rfl, rfl, rfl⟩, by decide +kernel⟩

theorem witness_PricesAndGroupsAreSet : accepts hd base ∧ badOpt (.given 65535) 0 65535 = false ∧
    base.store.canQueue [.price 1] 0 = true ∧ base.store.canQueue [.price 127] 0 = true ∧
    (∀ e ∈ base.nodes, true = true → e.2.entry.group ≠ 15) ∧ base.store.canQueue [.group 15] 0 = true ∧
    base.store.readOnly = false := ⟨⟨rfl, rfl, rfl⟩, by decide +kernel⟩

theorem witness_NodeSetCreates :
    let s := { base with rooms := [(7, room7), (511, room7)] }
    accepts hd s ∧ s.rooms.get 511 = some room7 ∧ s.node .l1 120 = none ∧ s.node .l4 1 = none ∧
    s.nodeFits .l1 120 ⟨.minibar, 120, some 511, 15, true, List.replicate 12 0, 0⟩ ∧
    s.nodeFits .l4 1 ⟨.commonDoor, 1, none, 15, false, [], 0⟩ ∧ s.store.canQueue [.node .l1 120] 0 = true ∧
    s.store.readOnly = false :=
  ⟨⟨rfl, rfl, rfl⟩, rfl, rfl, rfl, ⟨by decide +kernel, by decide +kernel, by decide +kernel⟩,
    ⟨by decide +kernel, by decide +kernel, by decide +kernel⟩, by decide +kernel⟩

/-- A node that changes its kind, and one that ceases to be enabled. -/
theorem witness_NodeSetChanges : accepts hd base ∧ base.node .l1 9 = some barNode ∧ base.node .l1 5 = some doorNode ∧
    base.nodeFits .l1 9 ⟨.commonDoor, 4, none, 1, true, [], 0⟩ ∧
    base.nodeFits .l1 5 ⟨.roomDoor, 120, some 7, 15, false, [], 0⟩ ∧ barNode.bar.state = .locked ∧
    base.store.canQueue [.node .l1 9] 0 = true ∧ base.store.readOnly = false :=
  ⟨⟨rfl, rfl, rfl⟩, rfl, rfl, ⟨by decide +kernel, by decide +kernel, by decide +kernel⟩,
    ⟨by decide +kernel, by decide +kernel, by decide +kernel⟩, by decide +kernel⟩

theorem witness_NodesAreRemovedAndStocked : accepts hd base ∧ base.node .l1 9 = some barNode ∧
    (barNode.entry.kind = .minibar → barNode.bar.state = .locked ∨ barNode.bar.state = .held) ∧
    (∀ c ∈ Arg.given 127 :: List.replicate 11 (.given 0), badOpt c 0 127 = false) ∧
    barNode.entry.codes.length = 12 ∧ base.store.canQueue [.node .l1 9] 0 = true := ⟨⟨rfl, rfl, rfl⟩, by decide +kernel⟩

theorem base_settled : base.linesSettled := by intro i; cases i <;> decide +kernel

theorem witness_GroupStatesAreSet : accepts hd base ∧ (base.group 15).offline = false ∧
    base.store.canQueue [.group 15] 0 = true ∧ base.store.readOnly = false ∧ base.linesSettled ∧
    ((base.line .l1).running = true ∧ (base.line .l1).queue.length < 12) ∧
    (withExch (.poll false) false (List.replicate 12 ⟨.unlatch, .other, some 5, 5⟩) none).linesSettled :=
  ⟨⟨rfl, rfl, rfl⟩, by decide +kernel, by decide +kernel, by decide +kernel, base_settled, by decide +kernel,
    by intro i; cases i <;> decide +kernel⟩

/-! ## Requests of credentials and of the encoder -/

theorem witness_IssueIsAccepted : accepts hd (withCred guest) ∧ (withCred guest).readyToIssue 0 ∧
    28962000 ≤ maxMinute ∧ (∃ e ∈ (withCred guest).activeGuests 7, e.2.issue = room7.entry.issue) ∧
    ((withCred guest).activeGuests 7).length < 8 ∧
    endBy 28962000 ((withCred guest).extraUntil 7 (some 28963380)) = false ∧ room7.entry.issue < 65535 ∧
    badSet (.given [0, 15]) = false ∧ badWindow (.given (420, 1140)) = false ∧ (withCred guest).cred.slots.wf :=
  ⟨⟨rfl, rfl, rfl⟩, ⟨rfl, rfl, rfl, rfl, by decide, by decide +kernel, by decide +kernel⟩, by decide +kernel⟩

theorem witness_JobsAreCancelled :
    let s := withEnc ⟨some job0, none, true, none, none⟩ { guest with state := .pending }
    accepts hd s ∧ s.enc.job = some job0 ∧ s.cred.slots.get job0.slot = some { guest with state := .pending } ∧
    s.store.canQueue [.cred job0.slot] 0 = true ∧
    (withEnc ⟨some { job0 with state := .writing }, none, true, none, none⟩ guest).enc.job =
      some { job0 with state := .writing } ∧
    (withEnc ⟨some Job.read, none, false, none, none⟩ guest).enc.job = some Job.read ∧
    (Job.read.kind = .read ∧ Job.read.state = .waitingCard ∧ Job.read.outcome = none ∧ Job.read.cancel = false) ∧
    base.enc.job = none := ⟨⟨rfl, rfl, rfl⟩, by decide +kernel⟩

/-- With no offline group the reach is empty; with group 0 offline it is not, and the empty list gives place 0. -/
theorem witness_RevokeTakesEffect :
    let s := { withCred guest with groups := [(0, ⟨true, .normal⟩)] }
    accepts hd (withCred guest) ∧ accepts hd s ∧ (withCred guest).findCred 9 = some (4, guest) ∧
    s.findCred 9 = some (4, guest) ∧ (withCred guest).reach guest = 0 ∧ s.reach guest ≠ 0 ∧
    endBy s.clock.minute (s.expiry guest) = false ∧ s.cred.onList 9 = false ∧ s.cred.revCount < max32 ∧
    (∀ e ∈ s.cred.entries, e.1 ≠ 0) ∧ s.store.canQueue [.cred 4, .listPlace 0] 0 = true ∧
    (withCred guest).store.canQueue [.cred 4] 1 = true := ⟨⟨rfl, rfl, rfl⟩, ⟨rfl, rfl, rfl⟩, by decide +kernel⟩

theorem witness_CheckoutTakesEffect :
    let s := withCred guest
    accepts hd s ∧ s.rooms.get 7 = some room7 ∧ s.cred.slots.wf ∧ (∀ e ∈ s.cred.slots, e.2.pendingGuest 7 = false) ∧
    (∀ e ∈ s.activeGuests 7, s.reach e.2 = 0) ∧ (s.activeGuests 7).length = 1 ∧
    s.store.canQueue ((s.activeGuests 7).map fun e => .cred e.1) (s.activeGuests 7).length = true :=
  ⟨⟨rfl, rfl, rfl⟩, by decide +kernel⟩

theorem witness_CardReadBegins :
    let s := { base with enc := .start true }
    let u := { base with settings := { Settings.default with wait := 0 } }
    accepts hd s ∧ s.enc.job = none ∧ s.enc.cardIn = true ∧ accepts hd base ∧ base.enc.cardIn = false ∧
    base.settings.wait ≠ 0 ∧ accepts hd u ∧ u.settings.wait = 0 :=
  ⟨⟨rfl, rfl, rfl⟩, rfl, rfl, ⟨rfl, rfl, rfl⟩, rfl, by decide, ⟨rfl, rfl, rfl⟩, rfl⟩

/-! ## Requests of tabs, minibars, doors and lines -/

theorem witness_TabsAreSettledAndMinibarsHeld :
    accepts hd base ∧ base.rooms.get 7 = some room7 ∧ room7.entry.tab ≠ 0 ∧ base.journal.takesMoney = true ∧
    base.store.canQueue [.room 7] 0 = true ∧ base.nodes.wf ∧ base.roomBar 7 = some (.l1, 9, barNode) ∧
    base.node .l1 9 = some barNode ∧ room7.hold ≠ true := ⟨⟨rfl, rfl, rfl⟩, by decide +kernel⟩

theorem witness_DoorUnlockTakesEffect : accepts hd base ∧ base.node .l1 5 = some doorNode ∧
    doorNode.entry.kind ≠ .minibar ∧ (base.line .l1).running = true ∧ (base.line .l1).queue.length < 12 ∧
    base.linesSettled ∧ (argClamp (.given 2) 3 60 5 = 3 ∧ argClamp (.given 61) 3 60 5 = 60 ∧ argClamp .absent 3 60 5 = 5) :=
  ⟨⟨rfl, rfl, rfl⟩, by decide +kernel, by decide +kernel, rfl, by decide +kernel, base_settled, by decide⟩

theorem witness_LinesAreEnabledDisabledAndReset :
    let s := { base with lines := ⟨.start, .start, .start, .start⟩ }
    accepts hd base ∧ accepts hd s ∧ base.store.identity.isSome = true ∧ (base.line .l1).running = true ∧
    (s.line .l1).running = false ∧ s.node .l1 5 = some doorNode ∧ doorNode.entry.enabled = true ∧
    (∀ e ∈ s.nodes, keyLine e.1 = .l1 → e.2.entry.enabled = true → e.1 ≠ nodeKey .l1 5 →
      doorNode.entry.pos < e.2.entry.pos) ∧ s.nodes.wf ∧
    (∀ e ∈ s.nodes, 1 ≤ keyAddr e.1 ∧ keyAddr e.1 ≤ 120 ∧ e.1 = nodeKey (keyLine e.1) (keyAddr e.1)) :=
  ⟨⟨rfl, rfl, rfl⟩, ⟨rfl, rfl, rfl⟩, by decide +kernel⟩

theorem witness_NoticesAreSet : accepts hd base ∧ (∀ _c : NoticeClass, Arg.given false ≠ .malformed) ∧
    (base.link.notices.get .store).enabled = true := ⟨⟨rfl, rfl, rfl⟩, fun _ => by decide, rfl⟩

/-- An uncommissioned part, and one whose identity program is in progress with its request deferred. -/
theorem witness_ThePartIsCommissioned :
    let s := { State.reset with
      store := { State.reset.store with engine := .programming (.identity 3 idn) }
      link := { State.reset.link with deferred := some ([5, 7], idn) } }
    accepts hd State.reset ∧ State.reset.link.deferred = none ∧ State.reset.store.identity = none ∧
    State.reset.store.freeIdPlace.isSome = true ∧ idn.name ≠ [] ∧ idn.name.length ≤ 32 ∧
    (∀ b ∈ idn.name, 32 ≤ b.toNat ∧ b.toNat ≤ 126) ∧ s.power.state = .run ∧
    s.store.engine = .programming (.identity 3 idn) ∧ 3 < s.store.idPlaces.length ∧
    s.link.deferred = some ([5, 7], idn) ∧ s.link.slot = none ∧ s.link.deferredDone = none :=
  ⟨⟨rfl, rfl, rfl⟩, by decide +kernel⟩

/-! ## The encoder -/

/-- A card image of 128 bytes. -/
def image0 : List Byte := List.replicate 128 0x41

/-- The job of `job0` as it writes, its image built. -/
def writing : Job := { job0 with state := .writing, image := some image0, writeStarted := true }

/-- The record of `guest` before its success. -/
def pendingGuest : CredRec := { guest with state := .pending, issue := 4 }

theorem witness_IntentRecordStartsTheJob :
    let s := withEnc ⟨some job0, none, true, none, some 9⟩ pendingGuest
    let u := withEnc ⟨some job0, none, false, none, some 9⟩ pendingGuest
    s.working = true ∧ s.enc.report = some job0.number ∧ s.enc.job = some job0 ∧ job0.kind = .issue ∧
    job0.state = .preparing ∧ job0.outcome = none ∧ s.cred.slots.get job0.slot = some pendingGuest ∧
    s.enc.cardIn = true ∧ u.enc.cardIn = false ∧ u.settings.wait ≠ 0 ∧ s.store.identity = some idn := by decide +kernel

/-- Three entries of the revocation list: two that a card of room 7 carries while group 1 is offline, and one of group
10 alone. -/
def listed3 : FMap ListPlace :=
  [(0, ⟨40, some ⟨89977, .lost, 28961000, some 28962719, 2, 0⟩⟩), (1, ⟨39, some ⟨89990, .lost, 28961000, none, 1024, 0⟩⟩),
    (5, ⟨41, some ⟨90050, .lost, 28961000, none, 3, 0⟩⟩)]

/-- The part with those entries, group 1 being offline. -/
def listedPart : State := { withCred pendingGuest with
  groups := [(1, ⟨true, .normal⟩)], cred := { (withCred pendingGuest).cred with list := listed3, revCount := 41 } }

/-- R42, R47, R195: the card of room 7 carries the two entries that meet its reach, newest first, with their days. -/
theorem test_issue_image :
    let chosen := listedPart.cred.carriedFor (listedPart.reach pendingGuest)
    let b := imageBytes listedPart.seed
      (listedPart.issueFields pendingGuest (chosen.map fun e => (e.2.2.number, expiryDay e.2.2.expiry)))
    listedPart.groups.wf ∧ chosen.length = 2 ∧ listedPart.store.identity = some idn ∧
    b.take 20 = [1, 1, 1, 2, 77, 0, 0, 0, 9, 0, 0, 0, 0x38, 0x01, 7, 0, 4, 0, 3, 0] ∧
    (b.drop 52).take 14 = [0xC2, 0x5F, 0x01, 0, 0xFF, 0xFF, 0x79, 0x5F, 0x01, 0, 0x90, 0x4E, 0, 0] := by decide +kernel

/-- R48, R195: a void image. -/
theorem test_void_image : (base.voidImage 9).take 16 = [0, 5, 0, 0, 77, 0, 0, 0, 9, 0, 0, 0, 0, 0, 0, 0] := by
  decide +kernel

theorem witness_CardsComeAndWaitsExpire :
    let j := { job0 with state := .waitingCard, image := some image0, cardWait := some 15 }
    let s := withEnc ⟨some j, none, false, none, none⟩ pendingGuest
    let u := withEnc ⟨some { Job.read with cardWait := some 15 }, none, false, none, none⟩ guest
    base.enc.waitingJob = none ∧ s.working = true ∧ s.enc.job = some j ∧ j.state = .waitingCard ∧ j.outcome = none ∧
    j.cardWait.isSome = true ∧ s.cred.slots.get j.slot = some pendingGuest ∧
    u.enc.job = some { Job.read with cardWait := some 15 } ∧ Job.read.kind = .read := by decide +kernel

/-- A job that writes with the card in and with the card gone, and one that voids. -/
theorem witness_WriteAnswersAreActedOn :
    let s := withEnc ⟨some writing, some (.write image0), true, none, none⟩ pendingGuest
    let u := withEnc ⟨some { writing with cancel := true }, some (.write image0), false, none, none⟩ pendingGuest
    let v := withEnc ⟨some { writing with state := .voiding, cause := some .verifyFault }, some (.write image0), true,
      none, none⟩ pendingGuest
    s.enc.headOp = some (.write image0) ∧ s.enc.job = some writing ∧ s.cred.slots.get writing.slot = some pendingGuest ∧
    s.enc.cardIn = true ∧ u.enc.headOp = some (.write image0) ∧ u.enc.cardIn = false ∧
    v.enc.headOp = some (.write image0) := by decide +kernel

theorem witness_ReadAnswersAreActedOn :
    let j := { writing with state := .verifying }
    let s := withEnc ⟨some j, some .read, true, none, none⟩ pendingGuest
    let u := withEnc ⟨some { Job.read with state := .reading }, some .read, true, none, none⟩ guest
    s.enc.headOp = some .read ∧ s.enc.job = some j ∧ s.cred.slots.get j.slot = some pendingGuest ∧ j.cancel = false ∧
    j.image = some image0 ∧ j.image ≠ some [] ∧ s.cred.slots.wf ∧ j.after = none ∧
    u.enc.headOp = some .read ∧ u.enc.job = some { Job.read with state := .reading } := by decide +kernel

/-- A held success of a NEW_STAY with a free staging place, and one with none. -/
theorem witness_HeldOutcomesAreApplied :
    let j := { writing with state := .verifying, outcome := some .success }
    let s := { withEnc ⟨some j, none, true, none, none⟩ pendingGuest with signals := ⟨false, true, false, false⟩ }
    let u := { s with journal := { s.journal with staging := List.replicate 64 startRecord } }
    s.working = true ∧ s.signals.credential = true ∧ s.enc.job = some j ∧ j.outcome = some .success ∧
    s.cred.slots.get j.slot = some pendingGuest ∧ s.cred.slots.wf ∧ s.outcomeFits j .success pendingGuest = true ∧
    u.outcomeFits j .success pendingGuest = false ∧ s.outcomeFits j .released pendingGuest = true ∧
    s.outcomeFits j .aborted pendingGuest = true ∧ j.mode = .newStay ∧ j.after = none := by decide +kernel

/-! ## The wing lines -/

/-- An order of DOOR UNLOCK. -/
def unlatch5 : Order := ⟨.unlatch, .other, some 5, 5⟩

/-- A STANDALONE broadcast. -/
def standalone : Order := ⟨.standalone, .other, none, 0⟩

/-- A visit to the door of room 7. -/
def visit5 : Visit := ⟨5, false, false, 0, false, false, none⟩

theorem witness_FramesAreSent :
    let s := { base with lines := ⟨{ lineUp with phase := 16 }, .start, .start, .start⟩ }
    let u := { s with nodes := [] }
    let v := withExch (.poll false) false [] (some ⟨[9], some visit5⟩)
    let b := withExch (.broadcast standalone) false [standalone] none
    s.power.state = .run ∧ (s.line .l1).running = true ∧ (s.line .l1).periodEnd.isSome = true ∧
    (s.line .l1).phase = 16 ∧ (s.line .l1).cycle = none ∧ (s.line .l1).exch = none ∧ (s.line .l1).queue = [] ∧
    s.visitList .l1 1 = [5, 9] ∧ u.visitList .l1 1 = [] ∧ s.node .l1 5 = some doorNode ∧
    v.working = true ∧ (v.line .l1).cycle = some ⟨[9], some visit5⟩ ∧ (v.line .l1).exch.isSome = true ∧
    (b.line .l1).exch = some ⟨.broadcast standalone, .a, 5, false, false, 5, pollFrame 5, false⟩ ∧
    (b.line .l1).queue = [standalone] := by decide +kernel

/-- A reply of the node 5 with this status, tag echo, event and event body. -/
def replyOf5 (status echo event : Byte) (body : List Byte) : List Byte :=
  frameBytes 5 0x81 (status :: echo :: event :: body)

/-- The presentation of the credential `guest`, read a second ago. -/
def shown : Presentation := ⟨9, 3, 1, 7, 77, 1⟩

/-- The 14 bytes of `shown` (R196). -/
def shownBytes : List Byte := [9, 0, 0, 0, 3, 0, 1, 7, 0, 77, 0, 0, 0, 1]

theorem witness_RepliesAreTaken :
    let s := withExch (.poll false) false [] (some ⟨[], some visit5⟩)
    let o := withExch (.order unlatch5) false [unlatch5] none
    s.power.state = .run ∧ (s.line .l1).running = true ∧
    (s.line .l1).exch = some ⟨.poll false, .a, 5, false, false, 5, pollFrame 5, false⟩ ∧ s.node .l1 5 = some doorNode ∧
    readReply [1, 2, 3] = none ∧
    readReply (frameBytes 6 0x81 [0, 0, 0]) = some ⟨6, ⟨false, false, false, false, false, 0⟩, false, .none⟩ ∧
    readReply (replyOf5 0 0 0 []) = some ⟨5, ⟨false, false, false, false, false, 0⟩, false, .none⟩ ∧
    (o.line .l1).queue = [unlatch5] ∧ (o.line .l1).cycle = none ∧ (o.line .l1).periodEnd.isSome = true ∧
    (s.line .l1).cycle = some ⟨[], some visit5⟩ ∧ (s.line .l1).queue = [] ∧
    readReply (replyOf5 4 0 0x81 shownBytes) =
      some ⟨5, ⟨false, false, true, false, false, 0⟩, true, .presentation shown⟩ ∧
    visit5.done = false ∧ visit5.repolls < 4 ∧ doorNode.link.state ≠ .lost ∧ s.clock.valid = .valid ∧
    s.node .l1 9 = some barNode ∧ barNode.entry.enabled = true ∧ barNode.link.modeOwed = false ∧
    barNode.link.groupOwed = false ∧ (s.line .l1).periodEnd.isSome = true := by decide +kernel

/-- R68: the first poll of the next visit follows a poll answered with nothing more. -/
theorem test_next_visit :
    let t := after (.nodeReply .l1 .a (replyOf5 0 0 0 [])) (withExch (.poll false) false [] (some ⟨[9], some visit5⟩))
    (t.line .l1).exch = some ⟨.poll false, .a, 9, false, true, 5, pollFrame 9, false⟩ ∧
    (t.line .l1).cycle = some ⟨[], some ⟨9, false, false, 0, false, false, none⟩⟩ := by decide +kernel

theorem witness_UnansweredFramesAreRetried :
    let s := withExch (.poll false) false [] none
    let u := withExch (.poll false) true [] none
    let o := withExch (.order unlatch5) true [unlatch5] none
    s.power.state = .run ∧ (s.line .l1).running = true ∧
    (s.line .l1).exch = some ⟨.poll false, .a, 5, false, false, 5, pollFrame 5, false⟩ ∧
    (u.line .l1).exch = some ⟨.poll false, .a, 5, true, false, 5, pollFrame 5, false⟩ ∧ u.node .l1 5 = some doorNode ∧
    (o.line .l1).exch = some ⟨.order unlatch5, .a, 5, true, false, 5, pollFrame 5, false⟩ ∧ (o.line .l1).queue = [unlatch5] ∧
    (o.line .l1).cycle = none ∧ (o.line .l1).periodEnd.isSome = true := by decide +kernel

/-! ## Doors, prices and minibars -/

/-- Cards at both sides of the freshness of 10 s, with a number held once and with one that is not held. -/
theorem witness_TheTestsOfACard :
    let s := withCred guest
    s.store.identity = some idn ∧ s.settings.fresh < 11 ∧ 10 ≤ s.settings.fresh ∧ shown.site = idn.site ∧
    (∀ e ∈ s.cred.slots, e.2.number ≠ 10) ∧ (4, guest) ∈ s.cred.slots ∧ guest.number = shown.number ∧
    (∀ e ∈ s.cred.slots, e.2.number = shown.number → e = (4, guest)) := by decide +kernel

/-- A staff card's window at its first and its last minute, and one that crosses midnight (05 section 5.2.1). -/
theorem witness_TheTestsAtTheDoors :
    base.rooms.get 7 = some room7 ∧ doorNode.entry.group = 0 ∧ doorNode.entry.kind = .roomDoor ∧
    (withCred guest).cardTests shown = .inl guest ∧
    (withCred guest).cardTests { shown with age := 11 } = .inr .denyStale ∧ (420 ≤ 1139 ∧ 1139 < 1140) ∧
    ((1320 ≤ 1400 ∨ 1400 < 360) ∧ (1320 ≤ 359 ∨ 359 < 360) ∧ ¬(1320 ≤ 360 ∨ 360 < 360)) ∧
    (base.group 0).release ≠ .secured ∧
    ({ base with groups := [(0, ⟨false, .secured⟩)] }.group 0).release = .secured ∧
    ({ base with groups := [(0, ⟨false, .released⟩)] }.group 0).release = .released := by decide +kernel

theorem witness_TheAmountOfALine : 5000 ≤ 5000 ∧ (⟨65535, 3000⟩ : PriceEntry).price ≤ 65535 ∧
    (⟨65535, 3000⟩ : PriceEntry).tax ≤ 3000 ∧ (⟨0, 3000⟩ : PriceEntry).price = 0 := by decide

/-- A pending line of 468 in slot 1, of the present stay. -/
def line1 : PendingLine := ⟨468, 5, 3, 28961990⟩

theorem witness_MinibarTimersRunOut :
    let opening := { BarRec.start with state := .openGuest, latchEnd := some 20, opener := some 9 }
    let back := { opening with backToSettling := true }
    let restock := { opening with state := .openRestock }
    let settling := { BarRec.start with state := .settling, graceEnd := some 120, lines := [(12, line1)] }
    let waiting := { settling with state := .chargeWait, graceEnd := none }
    let w := { withBar waiting with signals := ⟨true, false, false, false⟩ }
    let full := { withBar settling with
      journal := { base.journal with staging := List.replicate 64 startRecord } }
    (withBar opening).node .l1 9 = some { barNode with bar := opening } ∧
    (withBar back).node .l1 9 = some { barNode with bar := back } ∧ base.settings.grace ≠ 0 ∧
    (withBar restock).node .l1 9 = some { barNode with bar := restock } ∧
    (withBar settling).node .l1 9 = some { barNode with bar := settling } ∧ settling.graceEnd.isSome = true ∧
    w.waitingBars = [(.l1, 9, { barNode with bar := waiting })] ∧ w.signals.minibar = true ∧
    base.rooms.get 7 = some room7 ∧ base.journal.takesMoney = true ∧
    base.store.canQueue [.room 7, .node .l1 9] 0 = true ∧ full.chargeFits 7 = false := by decide +kernel

theorem withBar_settled (b : BarRec) : (withBar b).linesSettled := base_settled

theorem witness_MinibarsAreOpenedAndCharged :
    let n := { barNode with bar := { BarRec.start with present := some 0xFFF } }
    let m := { barNode with bar := { BarRec.start with state := .settling, graceEnd := some 120, present := some 0xFFE,
                                                         lines := [(1, line1)] } }
    let s := { withCred guest with nodes := [(133, doorNode), (137, n)] }
    let u := { withCred guest with nodes := [(133, doorNode), (137, m)] }
    n.entry.stocked.has 1 = true ∧ n.entry.stocked.has 12 = true ∧ SlotSet.has 0xFFE 1 = false ∧
    SlotSet.has 0x7FF 12 = false ∧ n.entry.baseline.has 12 = true ∧ (m.bar.lines.get 1).isSome = true ∧
    SlotSet.has 0xFFF 1 = true ∧ n.bar.lines.get 1 = none ∧ s.cardTests shown = .inl guest ∧
    u.cardTests shown = .inl guest ∧ s.node .l1 9 = some n ∧ u.node .l1 9 = some m ∧
    room7.entry.tab + s.pendingTotal 7 < room7.entry.limit ∧ room7.entry.tab + u.pendingTotal 7 < room7.entry.limit ∧
    (s.line .l1).running = true := by decide +kernel

/-! ## Power, the desk link, the journal and the store -/

/-- The second before a minute event, and the last second the clock has. -/
theorem witness_TheClockTicks :
    let s := { base with clock := ⟨28962000, 59, .valid, false⟩ }
    s.clock.tick.minute ≠ s.clock.minute ∧ s.clock.valid = .valid ∧ s.working = true ∧ s.cred.list.wf ∧
    (⟨maxMinute, 59, .valid, false⟩ : HotelClock).tick.minute = maxMinute := by decide +kernel

/-- The part loses its supply, and is held in reset, in the midst of a program and in the midst of an erase. -/
theorem witness_PowerIsLost :
    let program := { base with store := { base.store with engine := .programming (.journal 40 startRecord) } }
    let erase := { base with store := { base.store with
      work := [⟨41, .journalErase⟩], engine := .erasing ⟨⟨41, .journalErase⟩, true, 0, false⟩ } }
    (∃ t, exec .powerLoss program = .next t ∧ (t.store.jsec 40).cells = (program.store.jsec 40).cells ++ [none]) ∧
    ∃ t, exec .resetAsserted erase = .next t ∧ (t.store.jsec 41).cut = true :=
  ⟨⟨_, rfl, by decide +kernel⟩, _, rfl, by decide +kernel⟩

/-- Each command that begins a cold start has a state in which it does: a part without supply, one held in RESET, one
PARKED, and one whose RESTART has drained; with PFW asserted the first two and the last are PARKED again. -/
theorem witness_ColdStartsBegin :
    let off := { base with power := ⟨.off, false, true, false, none⟩ }
    let held := { base with power := ⟨.off, true, false, true, none⟩ }
    let parked := { base with power := ⟨.parked, true, true, false, none⟩ }
    let drained := drainingPart ⟨.restart, true, some 1, true⟩
    base.store.tlog.wf ∧ base.store.jreg.wf ∧
    (coldStarts off (.powerOn .r57600 true) .r57600 true ∧ startsParked off (.powerOn .r57600 true)) ∧
    (coldStarts held (.resetReleased .r57600) .r57600 false ∧ ¬ startsParked held (.resetReleased .r57600)) ∧
    (coldStarts parked (.pfwDeasserted .r57600) .r57600 false ∧ ¬ startsParked parked (.pfwDeasserted .r57600)) ∧
    (coldStarts drained (.postDrainColdStart .r57600) drained.link.rate false ∧
      ¬ startsParked drained (.postDrainColdStart .r57600)) := by
  refine ⟨by decide +kernel, by decide +kernel, ⟨.inl ⟨rfl, rfl, rfl⟩, rfl, ?_⟩, ⟨.inr (.inl ⟨rfl, rfl, rfl, rfl⟩), ?_⟩,
    ⟨.inr (.inr (.inl ⟨rfl, rfl, rfl⟩)), ?_⟩, .inr (.inr (.inr ⟨.r57600, _, rfl, rfl, rfl, rfl, rfl, rfl, rfl, rfl⟩)), ?_⟩
  · intro w h
    cases h
  · exact fun h => absurd h.1 (by decide +kernel)
  · exact fun h => h.2 .r57600 rfl
  · exact fun h => absurd h.1 (by decide +kernel)

/-- A credential record that power loss has left PENDING. -/
def leftPending : CredRec := { guest with state := .pending }

/-- A table log of seven records. -/
def log7 : List (Option LogRec) :=
  [some ⟨1, .price 5, .price ⟨450, 1250⟩⟩, some ⟨2, .room 7, .room (some room7.entry)⟩,
    some ⟨3, .node .l1 5, .node (some doorNode.entry)⟩, some ⟨4, .cred 4, .cred (some leftPending)⟩,
    some ⟨5, .listPlace 3, .listPlace (some ⟨1, none⟩)⟩, some ⟨6, .serial, .serial 9⟩,
    some ⟨7, .journalState, .journalState ⟨1, 0⟩⟩]

/-- A part held in RESET that has that table log. -/
def heldPart : State := { base with
  power := ⟨.off, true, false, true, none⟩
  store := { base.store with engine := .idle, tlog := [(0, ⟨log7, false, false, false⟩)] } }

/-- The records of that log, as a cold start applies them. -/
theorem heldPart_recs : appliedRecs heldPart.foundStore = log7.filterMap id := by decide +kernel

/-- The credential unit those records give. -/
def foundCred : CredUnit := ⟨[(4, leftPending)], 9, [(3, ⟨1, none⟩)], 1⟩

theorem witness_tables_found : tablesFound (log7.filterMap id) foundCred := by
  have cred : ∀ p ∈ log7.filterMap id, (match p.key with
      | .cred k => decide (k = 4 ∧ p.val = .cred (some leftPending))
      | .listPlace k => decide (k = 3 ∧ p.val = .listPlace (some ⟨1, none⟩))
      | .serial => decide (p.val = .serial 9)
      | _ => true) = true := by decide +kernel
  refine ⟨by decide +kernel, by decide +kernel, ?_, ?_, ?_, ?_, ?_, ?_, by decide +kernel⟩
  · rintro k v ⟨q, hq, hk, hv, -⟩
    have := cred q hq
    simp only [hk, hv, decide_eq_true_eq] at this
    obtain ⟨rfl, h⟩ := this
    cases h
    rfl
  · intro k h
    by_cases e : k = 4
    · exact absurd e (by rintro rfl; exact h _ (by decide +kernel : (⟨4, .cred 4, .cred (some leftPending)⟩ : LogRec) ∈ _) rfl)
    · simp [foundCred, FMap.get, e]
  · rintro k v ⟨q, hq, hk, hv, -⟩
    have := cred q hq
    simp only [hk, hv, decide_eq_true_eq] at this
    obtain ⟨rfl, h⟩ := this
    cases h
    rfl
  · intro k h
    by_cases e : k = 3
    · exact absurd e (by rintro rfl; exact h _ (by decide +kernel :
        (⟨5, .listPlace 3, .listPlace (some ⟨1, none⟩)⟩ : LogRec) ∈ _) rfl)
    · simp [foundCred, FMap.get, e]
  · rintro n ⟨q, hq, hk, hv, -⟩
    have := cred q hq
    simp only [hk, hv, decide_eq_true_eq] at this
    cases this
    rfl
  · intro h
    exact absurd rfl (h _ (by decide +kernel : (⟨6, .serial, .serial 9⟩ : LogRec) ∈ _))

theorem witness_TheTablesComeBack :
    let l := log7.filterMap id
    coldStarts heldPart (.resetReleased .r57600) .r57600 false ∧ ¬ startsParked heldPart (.resetReleased .r57600) ∧
    l = appliedRecs heldPart.foundStore ∧ (l.map LogRec.append).Nodup ∧
    (∀ q ∈ l, ∀ i a, q.key = .node i a → a ≤ 120) ∧ newestHolds l (.price 5) (.price ⟨450, 1250⟩) ∧
    newestHolds l (.room 7) (.room (some room7.entry)) ∧ newestHolds l (.node .l1 5) (.node (some doorNode.entry)) ∧
    newestHolds l (.cred 4) (.cred (some leftPending)) ∧ newestHolds l .journalState (.journalState ⟨1, 0⟩) ∧
    (∀ q ∈ l, q.key ≠ .settings) ∧ tablesFound l foundCred ∧
    ∀ t : State, t.groups = [] → listsAll .issueAborted
      (foundCred.slots.filter fun e => decide (e.2.state = .pending)) { t with cred := foundCred }
      [.same { t with cred := foundCred }] := by
  refine ⟨.inr (.inl ⟨rfl, rfl, rfl, rfl⟩), fun h => absurd h.1 (by decide +kernel), heldPart_recs.symm,
    by decide +kernel, ?_,
    ⟨⟨1, .price 5, .price ⟨450, 1250⟩⟩, by decide +kernel, rfl, rfl, by decide +kernel⟩,
    ⟨⟨2, .room 7, .room (some room7.entry)⟩, by decide +kernel, rfl, rfl, by decide +kernel⟩,
    ⟨⟨3, .node .l1 5, .node (some doorNode.entry)⟩, by decide +kernel, rfl, rfl, by decide +kernel⟩,
    ⟨⟨4, .cred 4, .cred (some leftPending)⟩, by decide +kernel, rfl, rfl, by decide +kernel⟩,
    ⟨⟨7, .journalState, .journalState ⟨1, 0⟩⟩, by decide +kernel, rfl, rfl, by decide +kernel⟩,
    by decide +kernel, witness_tables_found, ?_⟩
  · intro q hq i a h
    have hall : ∀ q ∈ log7.filterMap id, (match q.key with
        | .node _ b => decide (b ≤ 120)
        | _ => true) = true := by decide +kernel
    have := hall q hq
    simpa [h] using this
  · intro t hg
    refine ⟨_, [], rfl, ?_, rfl⟩
    unfold lists
    rw [if_pos (.inl (by simp [State.reach, State.offlineGroups, hg]))]

theorem witness_TheDrainBegins : accepts hd base ∧ base.power.state = .run ∧
    (drainingPart ⟨.pfw, false, none, false⟩).power.state ≠ .run ∧ base.power.state ≠ .parked :=
  ⟨⟨rfl, rfl, rfl⟩, by decide +kernel⟩

/-- R61, R133: as the drain begins a pending line is charged, and the job that has begun to write ends aborted. -/
theorem test_drain_begins :
    let s := withEnc ⟨some writing, some (.write image0), true, none, none⟩ pendingGuest
    let t := after .pfwAsserted { s with nodes := [(133, doorNode),
      (137, { barNode with bar := { BarRec.start with lines := [(2, ⟨469, 5, 3, 28961999⟩)] } })] }
    (t.rooms.get 7).map (fun x => x.entry.tab) = some 919 ∧ (t.node .l1 9).map (fun n => n.bar.lines) = some [] ∧
    t.enc.job = none ∧ (t.journal.staging.map fun r => (r.body.kind, r.body.v2)) =
      [(.start, .clock .invalid), (.charge, .num 28961999), (.issueFailed, .aborted)] := by decide +kernel

theorem witness_PowerDownIsOffered :
    let s := drainingPart ⟨.pfw, false, none, false⟩
    let d : DrainInfo := ⟨.pfw, true, some 1, false⟩
    s.power.state = .draining ∧ s.power.drain = some ⟨.pfw, false, none, false⟩ ∧
    (s.line .l1).running = false ∧ (s.line .l4).running = false ∧ s.enc.job = none ∧
    (∀ e ∈ s.nodes, e.2.entry.kind = .minibar → e.2.bar.lines = []) ∧ s.store.queue = [] ∧ s.store.waiting = [] ∧
    s.journal.staging.length ≤ 54 ∧ s.journal.writer ≠ .fault ∧ s.journal.owed = false ∧ s.journal.nextSeq < max32 ∧
    s.journal.newest < s.journal.nextSeq ∧ s.headFull = false ∧ (base.line .l1).running = true ∧
    (drainingPart d).power.drain = some d ∧ d.seq = some startRecord.seq ∧
    (drainingPart d).store.engine = .programming (.journal 40 startRecord) ∧ 40 = (drainingPart d).journal.head ∧
    ((drainingPart d).store.jsec 40).hasSlot = true ∧ ((drainingPart d).store.jsec 40).cells.length ≤ 126 := by
  decide +kernel

/-- The part `base` with an inbound buffer. -/
def withIn (b : Inbound) : State := { base with link := { base.link with inbound := b } }

/-- The characters of a request with their check, CR and LF. -/
def lineOf (s : String) : List Byte :=
  let body := (codes s).map fun n => BitVec.ofNat 8 n
  let c := (crc16 0xFFFF body).toNat
  let hex := fun d => if d < 10 then BitVec.ofNat 8 (48 + d) else BitVec.ofNat 8 (55 + d)
  body ++ [0x3B, hex (c / 4096), hex (c / 256 % 16), hex (c / 16 % 16), hex (c % 16), 0x0D, 0x0A]

/-- The example request of 11 section 11.3. -/
def jreadLine : List Byte := lineOf "57 JREAD from=640001 count=16 "

/-- A buffer of any number of characters. -/
theorem witness_buffers (n : Nat) :
    (withIn ⟨[], List.replicate n 0x41, n, false, false, false⟩).link.inbound.chars = n := by
  simp [withIn, Inbound.chars]

theorem witness_RequestsAreReceivedAndTaken :
    base.working = true ∧
    (withIn ⟨[], [0x41], 240, false, false, false⟩).link.inbound.seen = 240 ∧
    (withIn ⟨[], [0x41], 242, false, true, false⟩).link.inbound.overlong = true ∧
    (withIn ⟨[], [0x0D], 1, false, false, false⟩).link.inbound.part = [0x0D] ∧
    readLine ([0x41] ++ [0x0A]) = none ∧ (readLine jreadLine).isSome = true ∧ jreadLine.dropLast ≠ [0x0D] ∧
    (withIn ⟨[jreadLine], [], 0, false, false, false⟩).takesRequest = true ∧
    (withIn ⟨[jreadLine], [], 0, false, false, false⟩).link.inbound.requests = [jreadLine] ∧
    base.link.inbound.requests = [] := by decide +kernel

/-- The command a line's characters spell, if it passes the tests of R171 and its verb is in the catalogue. -/
def commandOf (line : List Byte) : Option Instr := (readLine line).bind fun x => readRequest x.1 x.2

/-- A verb the catalogue has, with the example of 11 section 11.3, and one it has not. -/
theorem witness_taken_requests : commandOf jreadLine = some (.jread hd (.given 640001) (.given 16)) ∧
    (readLine (lineOf "1 OPEN ")).isSome = true ∧ commandOf (lineOf "1 OPEN ") = none := by decide +kernel

theorem witness_TheTransmitterSendsLines :
    let r : ReplySlot := ⟨[5, 7], [.ok, .ok], 1⟩
    let s := { base with link := { base.link with tx := some (.reply [5, 7] .ok .ok), slot := some r } }
    let last := { base with link := { base.link with
      tx := some (.reply [5, 7] .ok .ok), slot := some { r with begun := 2 } } }
    let waits := { last with link := { last.link with deferredDone := some ([1], [.ok]) } }
    let note := { base with link := { base.link with
      tx := some (.notice .clock 1 none)
      notices := base.link.notices.set .minibar ⟨true, true, 1, none⟩ } }
    s.link.slot = some r ∧ r.lines[r.begun]? = some .ok ∧ s.power.state ≠ .off ∧
    (last.link.slot = some { r with begun := 2 } ∧ r.lines.length ≤ 2 ∧ last.link.deferredDone = none) ∧
    waits.link.deferredDone = some ([1], [.ok]) ∧ note.power.state = .run ∧ note.link.slot = none ∧
    note.store.engine = .programming (.journal 40 startRecord) ∧
    (∀ d ∈ [NoticeClass.alarm, .power, .store, .line, .issue, .journal], (note.link.notices.get d).pending = false) ∧
    (note.link.notices.get .minibar).pending = true := by decide +kernel

/-- The part `base` with this many records staged, next to take this sequence, and drops owed or not. -/
def staged (n seq adm : Nat) : State := { base with journal := { base.journal with
  staging := List.replicate n startRecord, nextSeq := seq, dropAdm := adm } }

/-- The queue at the last place each record may take, at the first it may not, and the last two sequences. -/
theorem witness_RecordsAreAccepted :
    ((staged 55 2 0).journal.staging.length = 55 ∧ (staged 55 2 0).journal.owed = false) ∧
    (staged 56 2 0).journal.staging.length = 56 ∧
    ((staged 54 2 1).journal.staging.length = 54 ∧ (staged 54 2 1).journal.owed = true) ∧
    (staged 55 2 1).journal.owed = true ∧ (staged 63 2 0).journal.staging.length = 63 ∧
    64 ≤ (staged 64 2 0).journal.staging.length ∧ (staged 0 (max32 - 1) 0).journal.nextSeq < max32 ∧
    max32 < (staged 0 (max32 + 1) 0).journal.nextSeq ∧ (staged 63 2 0).journal.writer ≠ .fault ∧
    (let s := { staged 63 2 0 with
       signals := ⟨false, false, true, false⟩
       journal := { (staged 63 2 0).journal with heldOverruns := [(1, 128)] } }
     s.working = true ∧ s.signals.overrun = true ∧ s.journal.heldOverruns = [(1, 128)]) := by decide +kernel

/-- A head with 126 slots used, and one with two spoiled. -/
theorem witness_JournalProgramsComplete :
    let full := { base with store := { store0 with
      jreg := [(40, ⟨List.replicate 126 (some startRecord), false, false, false⟩)] } }
    let bad := { base with store := { store0 with jreg := [(40, ⟨[none, none], false, false, false⟩)] } }
    base.power.state = .run ∧ full.store.engine = .programming (.journal 40 startRecord) ∧ 40 = full.journal.head ∧
    (full.store.jsec 40).hasSlot = true ∧ (full.store.jsec 40).cells.length ≤ 126 ∧
    (full.store.jsec 40).spoiledCount ≤ 1 ∧ (bad.store.jsec 40).spoiledCount = 2 ∧ bad.journal.nextSeq < max32 ∧
    bad.journal.owed = false ∧ bad.journal.staging.length ≤ 55 ∧ (bad.store.jsec 40).retired = false := by
  decide +kernel

/-- A place whose contents are the program's, and one whose contents are newer. -/
theorem witness_TableProgramsComplete :
    let v : EntryVal := .price ⟨450, 1250⟩
    let s := { base with store := { store0 with
      engine := .programming (.table 0 (.price 5) v), queue := [⟨.price 5, v, false⟩] } }
    let u := { s with store := { s.store with queue := [⟨.price 5, v, true⟩] } }
    let c := { s with store := { s.store with engine := .programming (.copy 0 (.price 5) v) } }
    let bad := { s with store := { s.store with tlog := [(0, ⟨[none, none], false, false, false⟩)] } }
    s.power.state = .run ∧ s.store.engine = .programming (.table 0 (.price 5) v) ∧
    (∃ p ∈ s.store.queue, p.key = .price 5 ∧ p.fresh = false) ∧
    (∀ p ∈ u.store.queue, p.key = .price 5 → p.fresh = true) ∧
    c.store.engine = .programming (.copy 0 (.price 5) v) ∧ (s.store.tsec 0).spoiledCount ≤ 1 ∧
    (bad.store.tsec 0).spoiledCount = 2 ∧ (bad.store.tsec 0).retired = false := by decide +kernel

/-- The erase of the spare, with the head full and with slots left in it, and the erase of a table-log sector. -/
theorem witness_ErasesComplete :
    let e : EraseRun := ⟨⟨41, .journalErase⟩, false, 0, false⟩
    let s := { base with store := { store0 with engine := .erasing e, work := [⟨41, .journalErase⟩] } }
    let u := { s with
      journal := { s.journal with writer := .waitingSpare }
      store := { s.store with jreg := [(40, ⟨List.replicate 128 (some startRecord), false, false, false⟩)] } }
    let t := { base with store := { store0 with
      engine := .erasing ⟨⟨39, .reclaim⟩, false, 0, false⟩, work := [⟨39, .reclaim⟩] } }
    s.power.state = .run ∧ s.store.engine = .erasing e ∧ s.store.work.Nodup ∧ e.work.kind ≠ .evacuation ∧
    (41 = s.journal.spare ∧ s.journal.head ≠ 41 ∧ s.headFull = false ∧ s.journal.writer ≠ .fault ∧
      s.store.canQueue [.journalState] 0 = true) ∧
    (u.headFull = true ∧ u.journal.writer = .waitingSpare) ∧
    t.store.engine = .erasing ⟨⟨39, .reclaim⟩, false, 0, false⟩ ∧ 39 < 40 := by decide +kernel

theorem witness_StoreWorkGoesOn :
    let r := { startRecord with seq := 5 }
    let due := { base with
      journal := { base.journal with mark := 5, programmedMark := 5, newest := 9 }
      store := { store0 with jreg := [(41, ⟨[some r], false, false, false⟩)] } }
    let notYet := { due with journal := { due.journal with programmedMark := 4 } }
    let e : EraseRun := ⟨⟨41, .journalErase⟩, false, 7, false⟩
    let s := { base with store := { store0 with engine := .erasing e } }
    let o := { base with store := { store0 with engine := .erasing { e with ran := true, ordered := true } } }
    let w := { base with
      signals := ⟨false, false, false, true⟩, store := { store0 with waiting := [.room 7, .settings] } }
    due.power.state = .run ∧ due.journal.writer ≠ .fault ∧ due.spareSec.erased = false ∧ due.spareSec.retired = false ∧
    (∀ x ∈ due.spareSec.recs, x.seq ≤ due.journal.mark ∧ x.seq ≤ due.journal.programmedMark) ∧
    (∀ x ∈ due.store.work, x.sector ≠ due.journal.spare) ∧
    (∃ x ∈ notYet.spareSec.recs, notYet.journal.programmedMark < x.seq) ∧
    s.working = true ∧ s.store.engine = .erasing e ∧ s.journalRequest.isSome = true ∧
    o.store.engine = .erasing { e with ran := true, ordered := true } ∧
    w.signals.waiting = true ∧ (∀ k ∈ w.store.waiting, ∀ p ∈ w.store.queue, p.key ≠ k) ∧
    w.store.queue.length + w.store.waiting.length ≤ 64 := by decide +kernel

/-! ## States that meet the further clauses: credentials -/

/-- The part `base` with a key table of which no slot is FREE, every record LAPSED with one expiry. -/
def noSlotFree : State := { base with
  cred := { CredUnit.start with slots := (List.range' 0 2048).map fun k => (k, { guest with state := .lapsed }) } }

theorem get_of_range (r : CredRec) (n a j : Nat) (h : a ≤ j ∧ j < a + n) :
    FMap.get ((List.range' a n).map fun k => (k, r)) j = some r := by
  induction n generalizing a with
  | zero => omega
  | succ n ih =>
    by_cases e : j = a
    · simp [List.range'_succ, FMap.get, e]
    · simpa [List.range'_succ, FMap.get, e] using ih (a + 1) (by omega)

theorem firstGap_of_range (r : CredRec) (n a : Nat) :
    firstGap a ((List.range' a n).map fun k => (k, r)) = a + n := by
  induction n generalizing a with
  | zero => rfl
  | succ n ih => simp [List.range'_succ, firstGap, ih (a + 1)]; omega

theorem reusableSlot_of_range (s : State) (r : CredRec) (n : Nat) (h : r.state.reusable = true)
    (hs : s.cred.slots = (List.range' 0 (n + 1)).map fun k => (k, r)) : s.reusableSlot = some 0 := by
  have irrefl : ∀ x : EndMinute, endEarlier x x = false := by intro x; cases x <;> simp [endEarlier]
  unfold State.reusableSlot
  rw [hs, List.filter_eq_self.mpr (by simp [h]), List.range'_succ, List.map_cons]
  simp only [List.foldl_map]
  rw [List.foldl_fixed' (by simp [irrefl])]

theorem noSlotFree_slot : noSlotFree.issueSlot = some 0 := by
  unfold State.issueSlot
  rw [show noSlotFree.cred.slots = (List.range' 0 2048).map fun k => (k, { guest with state := .lapsed }) from rfl,
    firstGap_of_range, if_neg (by decide), reusableSlot_of_range noSlotFree { guest with state := .lapsed } 2047 rfl rfl]

/-- R25: with no slot FREE, of equal expiries the lowest slot is taken. -/
theorem witness_no_slot_free : accepts hd noSlotFree ∧ noSlotFree.readyToIssue 0 ∧ noSlotFree.cred.slots.wf ∧
    ∀ j, j < 2048 → (noSlotFree.cred.slots.get j).isSome = true :=
  ⟨⟨rfl, rfl, rfl⟩, ⟨rfl, rfl, rfl, rfl, by decide, noSlotFree_slot, by decide +kernel⟩,
    List.pairwise_map.mpr (List.pairwise_lt_range' 1),
    fun j h => by
      rw [show noSlotFree.cred.slots = (List.range' 0 2048).map fun k => (k, { guest with state := .lapsed }) from rfl,
        get_of_range _ 2048 0 j ⟨by omega, by omega⟩]
      rfl⟩

/-- The part `withCred guest` with group 0 offline, where that credential has a reach. -/
def offline0 : State := { withCred guest with groups := [(0, ⟨true, .normal⟩)] }

/-- The part `offline0` with a revocation list of which every place is held, the entry at place 5 the first to go. -/
def fullList (first : EndMinute) : State := { offline0 with cred := { offline0.cred with
  revCount := 700
  list := (List.range' 0 256).map fun k =>
    (k, ⟨k + 1, some ⟨1000 + k, .lost, 28960000, if k = 5 then first else none, 1, 0⟩⟩) } }

/-- R37, R39: a credential that opens no offline door makes no entry, one that does takes the lowest empty place. -/
theorem witness_list_takes_an_entry : lists (withCred guest) guest .lost (.same (withCred guest)) ∧
    lists offline0 guest .lost (.entered offline0 guest .lost 0 none) := by
  constructor
  · unfold lists
    rw [if_pos (by decide +kernel)]
  · unfold lists
    rw [if_neg (by decide +kernel), if_neg (by decide +kernel)]
    exact .inl ⟨0, by decide, by decide +kernel, by omega, rfl⟩

/-- R40: of a full list the entry of earliest expiry is displaced, and an earlier newcomer is left out. -/
theorem witness_list_is_full :
    lists (fullList (some 28963000)) guest .lost
      (.entered (fullList (some 28963000)) guest .lost 5 (some (1005, 6, some 28963000))) ∧
    lists (fullList (some 28964000)) guest .lost (.leftOut (fullList (some 28964000)) guest) := by
  constructor
  · unfold lists
    rw [if_neg (by decide +kernel), if_neg (by decide +kernel)]
    refine .inr ⟨by decide +kernel, (5, 6, ⟨1005, .lost, 28960000, some 28963000, 1, 0⟩), by decide +kernel,
      by decide +kernel, ?_⟩
    rw [if_neg (by decide +kernel)]
  · unfold lists
    rw [if_neg (by decide +kernel), if_neg (by decide +kernel)]
    refine .inr ⟨by decide +kernel, (5, 6, ⟨1005, .lost, 28960000, some 28964000, 1, 0⟩), by decide +kernel,
      by decide +kernel, ?_⟩
    rw [if_pos (by decide +kernel)]

/-- The places a displacing and a left-out revocation ask for. -/
theorem witness_revoke_with_a_full_list :
    let s := fullList (some 28963000)
    let u := fullList (some 28964000)
    accepts hd s ∧ accepts hd u ∧ s.findCred 9 = some (4, guest) ∧ s.cred.slots.get 4 = some guest ∧
    guest.state = .active ∧ s.store.readOnly = false ∧
    s.store.canQueue (.cred 4 :: (Listing.entered s guest .lost 5 (some (1005, 6, some 28963000))).keys) 0 = true ∧
    u.store.canQueue [.cred 4] 1 = true := ⟨⟨rfl, rfl, rfl⟩, ⟨rfl, rfl, rfl⟩, by decide +kernel⟩

/-- A PENDING credential whose job ends at once, one whose job writes, and records REVOKED, SUPERSEDED and LAPSED. -/
theorem witness_revoke_by_state :
    let p := { guest with state := .pending }
    let s := withEnc ⟨some job0, none, true, none, none⟩ p
    let u := withEnc ⟨some { job0 with state := .writing }, none, true, none, none⟩ p
    accepts hd s ∧ accepts hd u ∧ (job0.endsByCancel = true ∧ { job0 with state := .writing }.endsByCancel = false) ∧
    s.findCred 9 = some (4, p) ∧ s.cred.slots.get 4 = some p ∧ s.enc.job = some job0 ∧ job0.kind = .issue ∧
    job0.slot = 4 ∧ u.findCred 9 = some (4, p) ∧ u.enc.job = some { job0 with state := .writing } ∧
    s.store.canQueue [.cred 4] 0 = true ∧ s.store.readOnly = false ∧
    (∀ st ∈ [CredState.revoked, .superseded, .lapsed],
      (withCred { guest with state := st }).findCred 9 = some (4, { guest with state := st })) :=
  ⟨⟨rfl, rfl, rfl⟩, ⟨rfl, rfl, rfl⟩, by decide +kernel⟩

/-- A CHECKOUT of one ACTIVE credential with a reach, with a PENDING one that a cancel marks, and one it ends. -/
theorem witness_checkout_with_reach :
    let p := { guest with number := 10, state := .pending }
    let j := { job0 with number := 10, slot := 5 }
    let s := { offline0 with cred := { offline0.cred with slots := [(4, guest), (5, p)] } }
    let u := { s with enc := ⟨some j, none, true, none, none⟩ }
    let v := { s with enc := ⟨some { j with state := .writing }, none, true, none, none⟩ }
    let x := Listing.entered s guest .checkout 0 none
    accepts hd u ∧ accepts hd v ∧ u.rooms.get 7 = some room7 ∧ u.cred.slots.wf ∧ u.store.readOnly = false ∧
    (u.cred.slots.filter fun e => decide (e.2.kind = .guest ∧ e.2.state = .active ∧ e.2.room = 7)) = [(4, guest)] ∧
    listsAll .checkout [(4, guest)] u [x] ∧
    (j.endsByCancel = true ∧ u.cred.slots.get j.slot = some p ∧ p.pendingGuest 7 = true) ∧
    ({ j with state := .writing }.endsByCancel = false ∧ ∃ e ∈ v.cred.slots, e.2.pendingGuest 7 = true) ∧
    (j.kind = .issue ∧ u.enc.job = some j) ∧
    u.store.canQueue (revokedKeys [(4, guest)] [x]) 0 = true ∧
    u.store.canQueue (revokedKeys [(4, guest)] [x] ++ [.cred j.slot]) 0 = true := by
  refine ⟨⟨rfl, rfl, rfl⟩, ⟨rfl, rfl, rfl⟩, by decide +kernel, by decide +kernel, by decide +kernel, by decide +kernel,
    ⟨_, [], rfl, ?_, rfl⟩, by decide +kernel⟩
  unfold lists
  rw [if_neg (by decide +kernel), if_neg (by decide +kernel)]
  exact .inl ⟨0, by decide, by decide +kernel, by omega, rfl⟩

/-! ## States that meet the further clauses: the encoder, the lines and the minibars -/

/-- A card wait of 0 with no card, and reports for a job that is over and for one that holds its outcome. -/
theorem witness_intent_records_with_no_wait :
    let s := { withEnc ⟨some job0, none, false, none, some 9⟩ pendingGuest with
      settings := { Settings.default with wait := 0 } }
    let u := withEnc ⟨none, none, true, none, some 9⟩ guest
    let v := withEnc ⟨some { job0 with outcome := some .released }, none, true, none, some 9⟩ pendingGuest
    s.working = true ∧ s.enc.report = some job0.number ∧ s.enc.job = some job0 ∧ s.enc.cardIn = false ∧
    s.settings.wait = 0 ∧ s.cred.slots.get job0.slot = some pendingGuest ∧ u.working = true ∧ u.enc.report = some 9 ∧
    u.enc.job = none ∧ v.enc.report = some 9 ∧ { job0 with outcome := some .released }.outcome ≠ none := by
  decide +kernel

/-- A cancelled job in VERIFYING, with the card in and with it gone. -/
theorem witness_read_answers_once_cancelled :
    let j := { writing with state := .verifying, cancel := true }
    let s := withEnc ⟨some j, some .read, true, none, none⟩ pendingGuest
    let u := withEnc ⟨some j, some .read, false, none, none⟩ pendingGuest
    s.enc.headOp = some .read ∧ s.enc.job = some j ∧ s.cred.slots.get j.slot = some pendingGuest ∧ j.cancel = true ∧
    s.enc.cardIn = true ∧ u.enc.job = some j ∧ u.enc.cardIn = false := by decide +kernel

/-- The part with this exchange outstanding on line 1. -/
def exchOn (x : Exchange) (c : Option Cycle) (s : State) : State := { s with
  lines := ⟨{ lineUp with exch := some x, queue := [], cycle := c }, .start, .start, .start⟩ }

/-- A poll of the door of room 7, its frame sent. -/
def poll5 : Exchange := ⟨.poll false, .a, 5, false, false, 5, pollFrame 5, false⟩

/-- A drain that begins, its lines not at rest yet. -/
def drain0 : State := drainingPart ⟨.pfw, false, none, false⟩

/-- R87: a draining line with its STANDALONE broadcast under way on either leg, and with its last poll. -/
theorem witness_lines_in_a_drain :
    let a := exchOn (drainExchange base .l1 .a) none drain0
    let b := exchOn (drainExchange base .l1 .b) none drain0
    let p := exchOn poll5 none drain0
    a.working = true ∧ a.power.state = .draining ∧ (a.line .l1).exch = some (drainExchange base .l1 .a) ∧
    (a.line .l1).running = true ∧ (b.line .l1).exch = some (drainExchange base .l1 .b) ∧
    (drainExchange base .l1 .b).kind = .drainStandalone ∧ (drainExchange base .l1 .b).leg = .b ∧
    p.power.state = .draining ∧ p.working = true ∧ (p.line .l1).running = true ∧ (p.line .l1).exch = some poll5 ∧
    (p.line .l1).cycle = none ∧ p.node .l1 5 = some doorNode ∧ poll5.kind.awaitsReply = true ∧ poll5.second = false ∧
    poll5.spoiled = false ∧ poll5.sending = false ∧ (readReply (replyOf5 0 0 0 [])).map ReplyFrame.addr = some 5 := by
  decide +kernel

/-- R79: every event of a reply is handed on to a state. -/
theorem witness_handled (i : LineId) (a : Nat) (n : Node) (e : NodeEvent) (u : State) : ∃ w, handled i a n e u w := by
  unfold handled
  cases n.entry.kind <;> cases e <;> first | exact ⟨_, rfl⟩ | exact ⟨_, fun d h => by rw [h]⟩

/-- An exchange already spoiled, a LOST node's poll, and the exchange of an owed order. -/
theorem witness_replies_of_each_exchange :
    let s := exchOn { poll5 with spoiled := true } (some ⟨[], some visit5⟩) base
    let lost := { doorNode with link := { onA with state := .lost } }
    let u := exchOn poll5 (some ⟨[], some visit5⟩) { base with nodes := [(133, lost), (137, barNode)] }
    let owed := { doorNode with link := { onA with modeOwed := true, modeSent := true } }
    let v := exchOn { poll5 with kind := .owedMode } (some ⟨[9], some visit5⟩)
      { base with nodes := [(133, owed), (137, barNode)] }
    (s.line .l1).exch = some { poll5 with spoiled := true } ∧ s.node .l1 5 = some doorNode ∧
    u.node .l1 5 = some lost ∧ (u.line .l1).exch = some poll5 ∧ u.power.state = .run ∧ (u.line .l1).running = true ∧
    v.node .l1 5 = some owed ∧ (v.line .l1).exch = some { poll5 with kind := .owedMode } ∧
    (v.line .l1).cycle = some ⟨[9], some visit5⟩ ∧ (v.line .l1).queue = [] ∧ visit5.addr = 5 ∧
    (visit5.done = false ∧ visit5.modeDue = false ∧ visit5.groupDue = false) := by decide +kernel

/-- What follows a poll's reply: the visit goes on, the next visit begins, or the cycle is complete. -/
theorem witness_what_a_line_goes_on_to :
    let s := exchOn poll5 (some ⟨[9], some visit5⟩) base
    let u := exchOn poll5 (some ⟨[], some { visit5 with repolls := 4 }⟩) base
    (readReply (replyOf5 0 0 0x81 shownBytes)).map ReplyFrame.more = some true ∧ visit5.repolls < 4 ∧
    (readReply (replyOf5 0 0 1 shownBytes)).map ReplyFrame.more = some false ∧
    (s.line .l1).cycle = some ⟨[9], some visit5⟩ ∧ 9 ≠ poll5.addr ∧ s.node .l1 9 = some barNode ∧
    barNode.entry.enabled = true ∧ barNode.link.modeOwed = false ∧ barNode.link.groupOwed = false ∧
    (u.line .l1).cycle = some ⟨[], some { visit5 with repolls := 4 }⟩ ∧ (u.line .l1).periodEnd.isSome = true ∧
    (s.line .l1).queue.length < 16 := by decide +kernel

/-- The part `withCred r` with its minibar's record. -/
def barCred (r : CredRec) (b : BarRec) : State :=
  { withCred r with nodes := [(133, doorNode), (137, { barNode with bar := b })] }

/-- A minibar's record in this state, its slots known or not. -/
def barIn (st : BarState) (present : Option SlotSet) : BarRec := { BarRec.start with state := st, present := present }

/-- Reports of slots at a minibar that has reported none, and in each state. -/
theorem witness_slot_reports :
    (withBar (barIn .locked none)).node .l1 9 = some { barNode with bar := barIn .locked none } ∧
    (∀ st ∈ [BarState.openGuest, .settling, .openRestock, .locked, .chargeWait, .held],
      (withBar (barIn st (some 0xFFF))).node .l1 9 = some { barNode with bar := barIn st (some 0xFFF) }) ∧
    ∀ st ∈ [BarState.openGuest, .settling],
      ((((allSlots.filter fun k => decide (SlotSet.has 0xFFF k ≠ SlotSet.has 0x7FF k)).foldl
        (fun y k => guestSlot .l1 9 { barNode with bar := barIn st (some 0xFFF) } 0x7FF k y)
        (withBar (barIn st (some 0xFFF)))).node .l1 9).map fun y => y.bar.lines.length) = some 1 := by decide +kernel

/-- Doors at a minibar in and out of an opening, with lines pending and with none, with a grace and with none. -/
theorem witness_minibar_doors :
    let guest := { barIn .openGuest (some 0xFFF) with opened := true }
    let lines := { guest with lines := [(12, line1)] }
    let noGrace := { withBar lines with settings := { Settings.default with grace := 0 } }
    let restock := { barIn .openRestock (some 0x7FF) with opened := true }
    ((withBar guest).node .l1 9 = some { barNode with bar := guest } ∧ guest.state.isOpening = true ∧ guest.lines = []) ∧
    (barIn .openGuest (some 0xFFF)).opened = false ∧ (barIn .locked none).state.isOpening = false ∧
    (withBar lines).node .l1 9 = some { barNode with bar := lines } ∧ (withBar lines).settings.grace ≠ 0 ∧
    noGrace.node .l1 9 = some { barNode with bar := lines } ∧ noGrace.settings.grace = 0 ∧ lines.lines ≠ [] ∧
    (withBar restock).node .l1 9 = some { barNode with bar := restock } := by decide +kernel

/-- A MASTER credential, and its presentation. -/
def master : CredRec := { guest with kind := .master, room := 0, issue := 0, validUntil := none }

/-- The presentation of `master`, read a second ago. -/
def shownMaster : Presentation := { shown with kind := 4, room := 0, issue := 0 }

/-- A guest refused as stale, for the state of the minibar, and at the tab's limit, and one who is granted. -/
theorem witness_guests_at_a_minibar :
    let s := barCred guest (barIn .locked (some 0xFFF))
    let n := { barNode with bar := barIn .locked (some 0xFFF) }
    let atLimit := { s with rooms := [(7, { room7 with entry := { room7.entry with tab := 10000 } })] }
    s.node .l1 9 = some n ∧ n.entry.room = some 7 ∧ s.rooms.get 7 = some room7 ∧ (s.line .l1).running = true ∧
    (s.line .l1).queue.length < 16 ∧
    s.barRefusal n room7 7 (450 + s.pendingTotal 7) { shown with age := 14 } = some .denyStale ∧
    s.barRefusal { n with bar := barIn .openRestock (some 0xFFF) } room7 7 450 shown = some .denyInUse ∧
    atLimit.barRefusal n { room7 with entry := { room7.entry with tab := 10000 } } 7 (10000 + atLimit.pendingTotal 7)
      shown = some .denyTabLimit ∧
    s.barRefusal n room7 7 (450 + s.pendingTotal 7) shown = none ∧ s.cardTests shown = .inl guest := by decide +kernel

/-- A restock of a minibar at rest, of one in SETTLING whose line is charged, and of one whose line finds no place. -/
theorem witness_restocks_at_a_minibar :
    let settling := { barIn .settling (some 0x7FF) with graceEnd := some 120, lines := [(12, line1)] }
    let n := { barNode with bar := settling }
    let s := barCred master settling
    let full := { s with journal := { s.journal with staging := List.replicate 64 startRecord } }
    let stopped := fun s : State => s.modNode .l1 9 fun y => { y with bar := { y.bar with graceEnd := none } }
    (barCred master (barIn .locked (some 0xFFF))).cardTests shownMaster = .inl master ∧
    (barCred master (barIn .locked (some 0xFFF))).barRefusal { barNode with bar := barIn .locked (some 0xFFF) } room7 7
      450 shownMaster = none ∧
    s.cardTests shownMaster = .inl master ∧ s.barRefusal n room7 7 (450 + s.pendingTotal 7) shownMaster = none ∧
    full.barRefusal n room7 7 (450 + s.pendingTotal 7) shownMaster = none ∧
    (finaliseBar .l1 9 (stopped s)).2 = true ∧ (finaliseBar .l1 9 (stopped full)).2 = false := by decide +kernel

/-! ## States that meet the further clauses: the drain, the desk link, the journal and the store -/

/-- A journal sector of this many records. -/
def jsector (n : Nat) : Sector JRec := ⟨List.replicate n (some startRecord), false, false, false⟩

/-- A drain with these journal sectors. -/
def drainOver (d : DrainInfo) (l : FMap (Sector JRec)) : State := { drainingPart d with
  store := { (drainingPart d).store with jreg := l } }

/-- POWER_DOWN with a stalled table log, with a journal in FAULT, and with a full head whose spare is not erased. -/
theorem witness_power_down_incomplete :
    let s := { drain0 with store := { drain0.store with stalled := true, queue := [⟨.room 7, .room none, true⟩] } }
    let f := { drain0 with journal := { drain0.journal with writer := .fault } }
    let g := drainOver ⟨.pfw, false, none, false⟩ [(40, jsector 128), (41, jsector 1)]
    s.power.drain = some ⟨.pfw, false, none, false⟩ ∧ (∀ i ∈ [LineId.l1, .l2, .l3, .l4], (s.line i).running = false) ∧
    s.enc.job = none ∧ s.store.stalled = true ∧ s.store.queue ≠ [] ∧
    (∀ e ∈ s.nodes, e.2.entry.kind = .minibar → e.2.bar.lines = []) ∧ s.journal.staging.length ≤ 54 ∧
    s.journal.writer ≠ .fault ∧ s.journal.owed = false ∧ s.journal.nextSeq < max32 ∧
    s.journal.newest < s.journal.nextSeq ∧ s.headFull = false ∧ f.journal.writer = .fault ∧
    (f.store.queue = [] ∧ f.store.waiting = []) ∧ g.headFull = true ∧ g.spareSec.erased = false ∧
    (g.store.queue = [] ∧ g.store.waiting = [] ∧ ∀ e ∈ g.nodes, e.2.entry.kind = .minibar → e.2.bar.lines = []) := by
  decide +kernel

/-- POWER_DOWN once offered, and with 55 records staged. -/
theorem witness_power_down_not_yet :
    let s := { drain0 with journal := { drain0.journal with staging := List.replicate 55 startRecord } }
    (drainingPart ⟨.pfw, true, none, false⟩).power.drain = some ⟨.pfw, true, none, false⟩ ∧
    55 ≤ s.journal.staging.length ∧ s.journal.writer ≠ .fault ∧ s.headFull = false := by decide +kernel

/-- The ends of a drain whose POWER_DOWN record was not accepted, whose head fills with the spare not erased, and whose
head is retired among the last two sectors. -/
theorem witness_ends_of_the_drain :
    let d : DrainInfo := ⟨.pfw, true, none, false⟩
    let s := drainingPart d
    let f := drainOver d [(40, jsector 127), (41, jsector 1)]
    let g := drainOver d ((40, ⟨[none, none], false, false, false⟩) ::
      (List.range' 42 86).map fun k => (k, ⟨[], false, true, false⟩))
    s.power.drain = some d ∧ d.seq = none ∧ s.journal.staging.length ≤ 1 ∧
    s.store.engine = .programming (.journal 40 startRecord) ∧ (s.store.jsec 40).cells.length ≤ 126 ∧
    f.store.engine = .programming (.journal 40 startRecord) ∧ 40 = f.journal.head ∧ 40 ≠ f.journal.spare ∧
    f.journal.writer ≠ .fault ∧ f.spareSec.erased = false ∧ (f.store.jsec 40).cells.length = 127 ∧
    g.store.engine = .programming (.journal 40 startRecord) ∧ 40 ≠ g.journal.spare ∧
    (g.store.jsec 40).spoiledCount = 2 ∧ (g.store.jsec 40).retired = false ∧ g.store.usableJournal ≤ 2 := by
  decide +kernel

/-- A reply of which the first line is still to come, with HOLD_IN asserted till now, and one of which a line has been
begun. -/
theorem witness_first_and_further_lines :
    let r : ReplySlot := ⟨[5, 7], [.ok, .credCount 3], 0⟩
    let s := { base with link := { base.link with holdIn := true, slot := some r } }
    let u := { base with link := { base.link with tx := some (.notice .clock 1 none), slot := some r } }
    let v := { s with link := { s.link with slot := some { r with begun := 1 } } }
    (s.power.state ≠ .off ∧ s.link.tx = none ∧ s.link.slot = some r ∧ r.lines[0]? = some .ok) ∧
    (u.link.tx = some (.notice .clock 1 none) ∧ u.link.slot = some r) ∧
    v.link.slot = some { r with begun := 1 } ∧ r.lines[1]? = some (.credCount 3) := by decide +kernel

/-- The erases of a journal sector other than the spare, of a spare after which no sector of the range holds records,
and, failing, of an evacuated sector with no live record. -/
theorem witness_further_erases :
    let e : EraseRun := ⟨⟨60, .startUp⟩, false, 0, false⟩
    let s := { base with store := { store0 with engine := .erasing e, work := [⟨60, .startUp⟩] } }
    let v : EraseRun := ⟨⟨7, .evacuation⟩, false, 0, false⟩
    let u := { base with store := { store0 with engine := .erasing v, work := [⟨7, .evacuation⟩] } }
    s.store.engine = .erasing e ∧ s.store.work.Nodup ∧ 40 ≤ 60 ∧ 60 ≠ s.journal.spare ∧ s.journal.writer ≠ .fault ∧
    s.store.canQueue [.journalState] 0 = true ∧ 60 ≠ s.journal.head ∧
    2 ≤ (s.store.usableJournal - 1) ∧
    (circleAfter 41).takeWhile (fun i : Nat => decide (i ≠ s.journal.head)) ++ [s.journal.head] =
      (List.range' 42 86) ++ [40] ∧ (s.store.jsec 40).recs = [] ∧
    u.store.engine = .erasing v ∧ u.store.work.Nodup ∧ v.work.kind = .evacuation ∧ u.store.liveIn 7 = [] := by
  decide +kernel

/-! ## States that meet the further clauses: jobs, lines, charges, and a journal and a log at their ends -/

/-- A CANCEL with no job, with a number out of range at either end, with another number, with a number while a READ job
stands, and jobs in VOIDING, marked, with an outcome held, and with no place for the slot's entry. -/
theorem witness_cancels_that_end_nothing :
    let p := { guest with state := .pending }
    let on := fun j : Job => withEnc ⟨some j, none, true, none, none⟩ p
    let full := { on job0 with store := { store0 with
      queue := (List.range 64).map fun i => ⟨.price (i + 20), .price ⟨1, 1⟩, true⟩ } }
    accepts hd base ∧ accepts hd (on job0) ∧ accepts hd full ∧ base.enc.job = none ∧ (1 ≤ 10 ∧ 10 ≤ max32 ∧ 10 ≠ job0.number) ∧
    max32 < max32 + 1 ∧ (on Job.read).enc.job = some Job.read ∧ Job.read.kind = .read ∧
    (on { job0 with state := .voiding }).enc.job = some { job0 with state := .voiding } ∧ job0.kind = .issue ∧
    (on { job0 with state := .writing, cancel := true }).enc.job = some { job0 with state := .writing, cancel := true } ∧
    (on { job0 with outcome := some .released }).enc.job = some { job0 with outcome := some .released } ∧
    (1 ≤ job0.number ∧ job0.number ≤ max32) ∧ full.enc.job = some job0 ∧ job0.state = .preparing ∧
    full.cred.slots.get job0.slot = some p ∧ full.store.canQueue [.cred job0.slot] 0 = false :=
  ⟨⟨rfl, rfl, rfl⟩, ⟨rfl, rfl, rfl⟩, ⟨rfl, rfl, rfl⟩, by decide +kernel⟩

/-- The part `base` whose line 1 stands so. -/
def lineAs (x : Line) : State := { base with lines := ⟨x, .start, .start, .start⟩ }

/-- A line that is RUNNING and stands in this cycle, its poll period running or over. -/
def cycleLine (period : Option Nat) (c : Option Cycle) : Line := { lineUp with periodEnd := period, cycle := c }

/-- R67 to R69: a line resumes in each of the five ways. -/
theorem witness_each_way_a_line_resumes :
    resumes .l1 (lineAs (cycleLine (some 250) (some ⟨[9], some visit5⟩))) 0 (cycleLine (some 250) (some ⟨[9], some visit5⟩)) ∧
    resumes .l1 (lineAs (cycleLine (some 250) (some ⟨[8, 9], some { visit5 with done := true }⟩))) 0
      (cycleLine (some 250) (some ⟨[], some (barNode.visit 9)⟩)) ∧
    resumes .l1 (lineAs (cycleLine (some 250) (some ⟨[8], some { visit5 with done := true }⟩))) 1
      (cycleLine (some 250) none) ∧
    resumes .l1 (lineAs (cycleLine none none)) 0
      { cycleLine (some 250) (some ⟨[9], some (doorNode.visit 5)⟩) with phase := (cycleLine none none).phaseNext } ∧
    resumes .l1 { lineAs (cycleLine none (some ⟨[], none⟩)) with nodes := [] } 2
      { cycleLine (some 250) none with phase := (cycleLine none none).phaseNext } := by
  refine ⟨.visiting [9] visit5 doorNode rfl rfl (by decide +kernel),
    .nextVisit ⟨[8, 9], some { visit5 with done := true }⟩ [8] [] 9 barNode rfl ?_ rfl ?_ (by decide +kernel) rfl,
    .between 1 (.inr ⟨_, rfl, ?_, ?_, rfl⟩) rfl,
    .begins 0 _ 5 [9] doorNode (.inl ⟨rfl, rfl⟩) rfl rfl (by decide +kernel) (by decide +kernel) rfl,
    .listsNone 1 _ (.inr ⟨_, rfl, ?_, ?_, rfl⟩) rfl rfl (by decide +kernel)⟩
  · rintro v ⟨⟩
    rfl
  · intro a h n hn
    rw [List.mem_singleton.mp h, show (lineAs _).node .l1 8 = none by decide +kernel] at hn
    cases hn
  · rintro v ⟨⟩
    rfl
  · intro a h n hn
    rw [List.mem_singleton.mp h, show (lineAs _).node .l1 8 = none by decide +kernel] at hn
    cases hn
  · rintro v ⟨⟩
  · intro a h
    cases h

/-- The nodes of `base`, disabled. -/
def offNodes : FMap Node := [(133, { doorNode with entry := { doorNode.entry with enabled := false } })]

/-- A line with no enabled node, DISABLED and RUNNING; with none its cycle lists nothing. -/
theorem witness_lines_with_no_enabled_node :
    let s := { lineAs .start with nodes := offNodes }
    let u := { lineAs lineUp with nodes := offNodes }
    accepts hd s ∧ accepts hd u ∧ s.store.identity.isSome = true ∧ (s.line .l1).running = false ∧
    (u.line .l1).running = true ∧ s.visitList .l1 1 = [] ∧ u.visitList .l1 1 = [] :=
  ⟨⟨rfl, rfl, rfl⟩, ⟨rfl, rfl, rfl⟩, by decide +kernel⟩

/-- R67: a LOST node is listed in phase 8 and phase 16 only; a cycle that begins with an order outstanding is held; a
broadcast on its second leg in the middle of a cycle. -/
theorem witness_lost_nodes_held_cycles_and_broadcasts :
    let s := { base with nodes := [(133, { doorNode with link := { onA with state := .lost } }), (137, barNode)] }
    let h := exchOn { poll5 with kind := .order unlatch5 } none base
    let b := exchOn { poll5 with kind := .broadcast standalone, leg := .b, addr := 0 } (some ⟨[9], some visit5⟩) base
    (s.visitList .l1 7 = [9] ∧ s.visitList .l1 8 = [5, 9] ∧ s.visitList .l1 9 = [9] ∧ s.visitList .l1 16 = [5, 9]) ∧
    s.nodes.wf ∧ (∀ e ∈ s.nodes, e.1 = nodeKey (keyLine e.1) (keyAddr e.1)) ∧
    (h.power.state = .run ∧ (h.line .l1).running = true ∧ (h.line .l1).periodEnd.isSome = true ∧
      (h.line .l1).cycle = none ∧ (h.line .l1).exch.isSome = true) ∧
    ((b.line .l1).exch = some { poll5 with kind := .broadcast standalone, leg := .b, addr := 0 } ∧
      (b.line .l1).cycle = some ⟨[9], some visit5⟩) := by decide +kernel

/-- The exchange of each kind that awaits a reply but that of a removed node, on its first or its second leg. -/
def exchOf (k : ExchKind) (second : Bool) : Exchange := { poll5 with kind := k, second := second }

/-- R71, R73, R79: a taken reply of each kind of exchange leaves the line in some state. -/
theorem witness_taken_replies (n : Node) (r : ReplyFrame) (s : State) :
    ∀ k ∈ [ExchKind.order unlatch5, .owedMode, .owedGroup, .poll false, .poll true],
      ∃ w, tookReply .l1 (exchOf k false) n r s w := by
  intro k hk
  simp only [List.mem_cons, List.not_mem_nil, or_false] at hk
  obtain rfl | rfl | rfl | rfl | rfl := hk
  · exact ⟨_, rfl⟩
  · exact ⟨_, rfl⟩
  · exact ⟨_, rfl⟩
  all_goals
    obtain ⟨y, h⟩ := witness_handled .l1 5 { n with link := linkAfterReply .a r.status n.link } r.event
      (s.afterAnswer .l1 .a 5 n r.status)
    exact ⟨_, y, h, rfl⟩

/-- R71, R73, R76, R80: the failure of each kind of exchange on both legs leaves the line in some state. -/
theorem witness_failed_exchanges (n : Node) (s : State) :
    ∀ k ∈ [ExchKind.order unlatch5, .owedMode, .owedGroup, .poll false, .poll true],
      ∃ w, wentUnanswered .l1 (exchOf k true) n s w := by
  intro k hk
  simp only [List.mem_cons, List.not_mem_nil, or_false] at hk
  obtain rfl | rfl | rfl | rfl | rfl := hk <;> exact ⟨_, rfl⟩

/-- A line with each of those exchanges outstanding on each leg, in RUN and in a drain, and the exchange of a removed
node. -/
theorem witness_unanswered_exchanges :
    ∀ k ∈ [ExchKind.order unlatch5, .owedMode, .owedGroup, .poll false, .poll true, .removed], ∀ b ∈ [true, false],
      (let s := exchOn (exchOf k b) (some ⟨[9], some visit5⟩) base
       let d := exchOn (exchOf k b) none drain0
       s.power.state = .run ∧ (s.line .l1).running = true ∧ (s.line .l1).exch = some (exchOf k b) ∧
       (exchOf k b).kind.awaitsReply = true ∧ (exchOf k b).sending = false ∧ s.node .l1 5 = some doorNode ∧
       d.power.state = .draining ∧ d.working = true ∧ (d.line .l1).exch = some (exchOf k b) ∧
       d.node .l1 5 = some doorNode) := by decide +kernel

/-- R73: the visit to a node that is owed both orders sends STANDALONE or ONLINE first, by the clock. -/
theorem test_owed_orders_come_first :
    let owed := { doorNode with link := { onA with modeOwed := true, groupOwed := true } }
    let s := { base with nodes := [(133, owed), (137, barNode)] }
    let dark := { s with clock := { s.clock with valid := .invalid } }
    let sent := fun s : State => ((after (.cycleBegin .l1) s).line .l1).exch.map Exchange.frame
    sent s = some (frameBytes 5 2 [0, BitVec.ofNat 8 OrderKind.online.code, 0]) ∧
    sent dark = some (frameBytes 5 2 [0, BitVec.ofNat 8 OrderKind.standalone.code, 0]) := by decide +kernel

/-- A minibar's pending lines in slots 3 and 7, and one of a prior stay in slot 9. -/
def lines3 : FMap PendingLine := [(3, line1), (7, line1), (9, { line1 with issue := 2 })]

/-- A minibar in SETTLING and two in CHARGE_WAIT, in RUN and in a drain, each with several lines. -/
theorem witness_several_lines_are_charged :
    let settling := { barIn .settling (some 0xFFF) with graceEnd := some 120, lines := lines3 }
    let waits := { barIn .chargeWait (some 0xFFF) with lines := lines3 }
    let other := { barNode with entry := { barNode.entry with room := some 6, pos := 5 }, bar := waits }
    let w := { base with
      nodes := [(133, doorNode), (137, { barNode with bar := waits }), (138, other)]
      signals := ⟨true, false, false, false⟩ }
    (withBar settling).node .l1 9 = some { barNode with bar := settling } ∧ settling.lines.wf ∧
    settling.graceEnd.isSome = true ∧ base.rooms.get 7 = some room7 ∧
    w.working = true ∧ w.power.state = .run ∧ w.signals.minibar = true ∧
    (∀ e ∈ w.nodes, e.2.bar.lines.wf ∧ w.node (keyLine e.1) (keyAddr e.1) = some e.2) ∧
    w.waitingBars.map (fun x => x.2.1) = [10, 9] ∧
    ({ w with power := drain0.power }).power.state = .draining ∧ ({ w with power := drain0.power }).working = true := by
  decide +kernel

/-- R127, R129: three lines at the end of the grace, the third of a prior stay, with the room's and the node's places. -/
theorem test_grace_end_charges_every_line :
    let s := withBar { barIn .settling (some 0xFFF) with graceEnd := some 120, lines := lines3 }
    let t := after (.graceEnd .l1 9) s
    (t.rooms.get 7).map (fun x => x.entry.tab) = some 1386 ∧
    (t.node .l1 9).map (fun n => (n.bar.state, n.bar.lines, n.entry.baseline)) = some (.locked, [], 0xEBB) ∧
    (t.journal.staging.drop 1).map (fun r => r.body.v1) = [.num 468, .num 468, .num 468] := by decide +kernel

/-- The last sequence and the one before it, with drops owed and with none, and OVERRUN records held at it. -/
theorem witness_the_last_sequences :
    ((staged 55 max32 0).journal.nextSeq = max32 ∧ (staged 55 max32 0).journal.owed = false) ∧
    ((staged 54 (max32 - 1) 1).journal.nextSeq + 1 = max32 ∧ (staged 54 (max32 - 1) 1).journal.owed = true ∧
      (staged 54 (max32 - 1) 1).journal.staging.length = 54) ∧
    ((staged 54 max32 1).journal.nextSeq = max32 ∧ (staged 54 max32 1).journal.owed = true) ∧
    (staged 63 max32 0).journal.staging.length = 63 ∧ (staged 64 max32 0).journal.staging.length = 64 ∧
    (staged 63 (max32 + 1) 0).journal.nextSeq = max32 + 1 ∧ (staged 63 max32 0).journal.writer ≠ .fault ∧
    (let s := { staged 63 max32 0 with
       signals := ⟨false, false, true, false⟩
       journal := { (staged 63 max32 0).journal with heldOverruns := [(1, 128), (129, 256)] } }
     s.working = true ∧ s.signals.overrun = true ∧ s.journal.heldOverruns = (1, 128) :: [(129, 256)]) := by
  decide +kernel

/-- R137: the record that takes the last sequence exhausts the journal, and what is held is dropped and tallied. -/
theorem test_the_last_sequence :
    let s := { staged 63 max32 0 with
      signals := ⟨false, false, true, false⟩
      journal := { (staged 63 max32 0).journal with heldOverruns := [(1, 128), (129, 256)] } }
    let t := after .heldOverrunAccept s
    t.journal.nextSeq = max32 + 1 ∧ t.journal.heldOverruns = [] ∧ t.journal.dropOther = 1 ∧
    t.link.tx = some (.notice .journal 1 (some .exhausted)) := by decide +kernel

/-- The part `base`, 127 slots of its journal head used, with this spare and this policy. -/
def headAt127 (spare : Sector JRec) (p : Policy) : State := { base with
  settings := { base.settings with policy := p }
  store := { store0 with jreg := [(40, jsector 127), (41, spare)] } }

/-- A program of the head's last slot, sound or failed, with the spare erased, reclaimable, and neither, on each
policy. -/
theorem witness_the_head_is_filled :
    let old : Sector JRec := ⟨[some { startRecord with seq := 0 }], false, false, false⟩
    (headAt127 .blank .hold).power.state = .run ∧
    (headAt127 .blank .hold).store.engine = .programming (.journal 40 startRecord) ∧
    40 = (headAt127 .blank .hold).journal.head ∧ ((headAt127 .blank .hold).store.jsec 40).hasSlot = true ∧
    ((headAt127 .blank .hold).store.jsec 40).cells.length = 127 ∧
    ((headAt127 .blank .hold).store.jsec 40).spoiledCount ≤ 1 ∧ (headAt127 .blank .hold).journal.writer ≠ .fault ∧
    (headAt127 .blank .hold).journal.spare ≠ 40 ∧ (headAt127 .blank .hold).spareSec.erased = true ∧
    ((headAt127 old .hold).spareSec.erased = false ∧
      ∀ r ∈ (headAt127 old .hold).spareSec.recs, r.seq ≤ (headAt127 old .hold).journal.mark) ∧
    (∀ p ∈ [Policy.hold, .overwrite], (headAt127 (jsector 1) p).spareSec.erased = false ∧
      (∃ r ∈ (headAt127 (jsector 1) p).spareSec.recs, (headAt127 (jsector 1) p).journal.mark < r.seq) ∧
      (headAt127 (jsector 1) p).settings.policy = p) ∧
    ((∃ r ∈ (jsector 1).recs, r.seq = 1) ∧ ∀ r ∈ (jsector 1).recs, r.seq ≤ 1) ∧
    (headAt127 (jsector 1) .overwrite).store.canQueue [.journalState] 0 = true := by decide +kernel

/-- R150: the levels at either side of each. -/
theorem test_levels : levelPosts 5630 5631 = [] ∧ levelPosts 5631 5632 = [.half 5632] ∧ levelPosts 5632 5633 = [] ∧
    levelPosts 9855 9856 = [.near 9856] ∧ levelPosts 9856 9857 = [] ∧ levelPosts 0 9856 = [.near 9856] := by decide

/-- A journal in FAULT as a program ends. -/
theorem witness_programs_in_fault :
    let f := { base with journal := { base.journal with writer := .fault } }
    f.power.state = .run ∧ f.store.engine = .programming (.journal 40 startRecord) ∧ f.journal.writer = .fault ∧
    40 = f.journal.head ∧ (f.store.jsec 40).hasSlot = true := by decide +kernel

/-- A table-log head at its last slot, with no other sector erased. -/
theorem witness_the_log_stalls :
    let v : EntryVal := .price ⟨450, 1250⟩
    let r : LogRec := ⟨1, .price 5, v⟩
    let s := { base with store := { store0 with
      engine := .programming (.table 0 (.price 5) v), queue := [⟨.price 5, v, false⟩]
      tlog := (List.range 40).map fun k =>
        (k, if k = 0 then ⟨List.replicate 127 (some r), false, false, false⟩ else ⟨[some r], false, false, false⟩) } }
    s.power.state = .run ∧ 0 = s.store.head ∧ (s.store.tsec 0).cells.length = 127 ∧
    (∀ i, i < 40 → i ≠ 0 → (s.store.tsec i).erased = false ∨ (s.store.tsec i).retired = true) ∧
    (after (.tableLogProgramComplete true) s).store.stalled = true := by decide +kernel

/-! ## Worked examples of the spec -/

/-- 01 section 1.1.1: the clock set after a storm, its record and its notice. -/
theorem test_clock_set_after_a_storm :
    let t := after (.clockSet hd (.given 28934460) (.given 30))
      { State.reset with clock := ⟨4, 10, .invalid, false⟩ }
    t.clock = ⟨28934460, 30, .valid, false⟩ ∧ t.journal.staging.length = 2 ∧ t.link.notices.clock.count = 1 := by
  decide +kernel

/-- 01 section 1.1.1: a guest credential whose expiry has passed lapses in the pass. -/
theorem test_clock_set_lapses :
    (after (.clockSet hd (.given 28934460) (.given 30))
      (withCred { guest with validUntil := some 28933970 })).cred.slots.get 4 =
      some { guest with validUntil := some 28933970, state := .lapsed } := by decide +kernel

/-- 02 section 2.4.1: the tie on the earliest expiry goes to the lower slot. -/
theorem test_issue_takes_the_lower_slot :
    { base with cred := { CredUnit.start with slots :=
      [(5, { guest with kind := .staff, state := .revoked, validUntil := none }),
        (17, { guest with kind := .staff, state := .lapsed, validUntil := some 28941000 }),
        (230, { guest with state := .revoked, validUntil := some 28940970 }),
        (1002, { guest with state := .superseded, validUntil := some 28959970 })] } }.reusableSlot = some 17 := by
  decide +kernel

/-- 02 section 2.8.1: of two entries with the earliest expiry the older sequence is displaced. -/
theorem test_the_older_sequence_goes_first :
    firstToGo [(142, 40112, ⟨87950, .lost, 0, some 28950900, 1, 0⟩), (71, 40087, ⟨87702, .lost, 0, some 28950900, 1, 0⟩),
      (3, 40100, ⟨87800, .lost, 0, some 28950901, 1, 0⟩)] =
      some (71, 40087, ⟨87702, .lost, 0, some 28950900, 1, 0⟩) := by decide +kernel

/-- 11 section 11.4.1: the expiry of the worked stay and its day. -/
theorem test_expiry_and_its_day : base.expiry guest = some 28963410 ∧ expiryDay (some 28963410) = 20113 ∧
    expiryDay none = 65535 := by decide +kernel

/-- 03 section 3.8: an image that differs in one byte is written once more. -/
theorem test_mismatch_rewrites :
    (after (.readImageAnswer (.image (image0.set 57 0)))
      (withEnc ⟨some { writing with state := .verifying }, some .read, true, none, none⟩ pendingGuest)).enc =
      ⟨some { writing with rewriteUsed := true, headEnd := some 400 }, some (.write image0), true, none, none⟩ := by decide +kernel

/-- Six doors of line 3 at positions 10 to 60 in these link states (04 section 4.7.1). -/
def sixDoors (l : List LinkState) : List Node :=
  (List.range 6).zip l |>.map fun (k, st) =>
    { doorNode with entry := { doorNode.entry with pos := 10 * (k + 1) }, link := { onA with state := st } }

/-- 04 section 4.7.1, cycle 5: SPLIT after 30, the gap 31 to 39, none LOST. -/
theorem test_break_after_30 :
    lineCond (sixDoors [.onA, .onA, .onA, .onB, .onB, .onB]) = .split 30 ∧
    condReport (.split 30) (sixDoors [.onA, .onA, .onA, .onB, .onB, .onB]) = ⟨31, 39, [], 0, 0, 0⟩ := by decide +kernel

/-- 04 section 4.7.1, cycle 9: still SPLIT after 30, the gap 31 to 49 with LOST at 40. -/
theorem test_second_break :
    lineCond (sixDoors [.onA, .onA, .onA, .lost, .onB, .onB]) = .split 30 ∧
    condReport (.split 30) (sixDoors [.onA, .onA, .onA, .lost, .onB, .onB]) = ⟨31, 49, [40], 0, 0, 0⟩ := by
  decide +kernel

/-- 05 section 5.2.1: a window that crosses midnight. -/
theorem test_night_window :
    insideWindow 1320 360 1400 = true ∧ insideWindow 1320 360 359 = true ∧ insideWindow 1320 360 360 = false := by
  decide

/-- 05 section 5.5.1: a day window at minute 740, and at its two edges. -/
theorem test_day_window :
    insideWindow 420 1140 740 = true ∧ insideWindow 420 1140 420 = true ∧ insideWindow 420 1140 1140 = false := by decide

/-- 05 section 5.5.1, presentation 5: a card 14 s old is stale. -/
theorem test_stale_card : (withCred guest).cardTests { shown with age := 14 } = .inr .denyStale := by decide +kernel

/-- 05 section 5.5.1, presentation 6: a foreign site code is refused before the number is looked up. -/
theorem test_foreign_site : (withCred guest).cardTests { shown with site := 78 } = .inr .denySite := by decide +kernel

/-- 06 section 6.6.1 and 11 section 11.4: the four amounts worked out there. -/
theorem test_amounts : lineAmount ⟨450, 1250⟩ 750 = 468 ∧ lineAmount ⟨1200, 1250⟩ 750 = 1249 ∧
    lineAmount ⟨450, 1250⟩ 500 = 480 ∧ lineAmount ⟨1200, 1250⟩ 500 = 1283 := by decide

/-- 06 section 6.6.1: two lines finalised at the grace end take a tab of 3,200 to 4,917, and the slots leave the
baseline. -/
theorem test_grace_end_charges :
    let bar := { BarRec.start with
      state := .settling, graceEnd := some 600, lines := [(1, ⟨468, 1, 3, 28961990⟩), (2, ⟨1249, 2, 3, 28961990⟩)] }
    let t := after (.graceEnd .l1 9) { withBar bar with
      rooms := [(7, { room7 with entry := { room7.entry with tab := 3200 } })] }
    t.rooms.get 7 = some { room7 with entry := { room7.entry with tab := 4917 } } ∧
    (t.node .l1 9).map (fun n => (n.entry.baseline, n.bar.state)) = some (0xFFC, .locked) := by decide +kernel

/-- 06 section 6.8.1: a line of a prior stay leaves the new tab at 0. -/
theorem test_prior_stay_leaves_the_tab :
    let bar := { BarRec.start with state := .settling, graceEnd := some 600, lines := [(2, ⟨1249, 2, 6, 28961990⟩)] }
    ((after (.graceEnd .l1 9) { withBar bar with
      rooms := [(7, { room7 with entry := { room7.entry with issue := 7, tab := 0 } })] }).rooms.get 7).map
        (fun r => r.entry.tab) = some 0 := by decide +kernel

/-- 08 section 8.3.1: the first suspension is ordered once the erase has run 1 ms, the eighth is the last. -/
theorem test_suspensions :
    let s := fun n => { base with store := { store0 with
      engine := .erasing ⟨⟨74, .journalErase⟩, false, n, false⟩ } }
    (after .eraseSuspend (s 0)).store.engine = .erasing ⟨⟨74, .journalErase⟩, true, 1, true⟩ ∧
    (after .eraseSuspend (s 8)).store.engine = .erasing ⟨⟨74, .journalErase⟩, true, 8, false⟩ := by decide +kernel

/-- 09 section 9.8: HOLD_OUT is asserted at 1,536 characters, still asserted at 520, and released at 494. -/
theorem test_hold_out : holdAfter 1534 false = false ∧ holdAfter 1536 false = true ∧ holdAfter 520 true = true ∧
    holdAfter 494 true = false := by decide

/-- 09 section 9.8: a second LINE occurrence makes the count 2 and takes the newer detail. -/
theorem test_notices_coalesce :
    ((Notice.start.occur (.node (.l3, 40))).occur (.node (.l3, 50))) = ⟨true, true, 2, some (.node (.l3, 50))⟩ := by
  decide

/-- 10 section 10.4.1: a drain with a record staged and nothing else waiting offers POWER_DOWN, COMPLETE. -/
theorem test_power_down_complete :
    (after .powerDown (drainingPart ⟨.pfw, false, none, false⟩)).journal.staging.map (fun r => (r.body.kind, r.body.v2)) =
      [(.start, .clock .invalid), (.powerDown, .complete)] := by decide +kernel

/-- R171: the CRC-16 that starts at all ones, by its published check value over the digits 1 to 9. -/
theorem test_crc16 : crc16 0xFFFF [0x31, 0x32, 0x33, 0x34, 0x35, 0x36, 0x37, 0x38, 0x39] = 0x29B1 := by decide +kernel

/-- R196: the same polynomial started at 0, by its published check value over the digits 1 to 9. -/
theorem test_crc16_zero : crc16 0 [0x31, 0x32, 0x33, 0x34, 0x35, 0x36, 0x37, 0x38, 0x39] = 0x31C3 := by decide +kernel

/-- R195: the CRC-32 that starts at all ones, by its published check value, which is inverted at its end. -/
theorem test_crc32 : ~~~ cardCheck 0xFFFFFFFF [0x31, 0x32, 0x33, 0x34, 0x35, 0x36, 0x37, 0x38, 0x39] = 0xCBF43926 := by
  decide +kernel

/-- R196: the bytes of a poll before its check: sync, address, type, length. -/
theorem test_poll_frame : (pollFrame 5).take 4 = [0x7E, 5, 1, 0] ∧ (pollFrame 5).length = 6 := by decide +kernel

/-- R195: the layout of the first twelve bytes of an image. -/
theorem test_image_layout :
    (imageBody ⟨1, 1, 0, 77, 0x01020304, 312, 7, 3, 0, 0, 0, 0, 0, 0, 0, []⟩).take 12 =
      [1, 1, 0, 0, 77, 0, 0, 0, 4, 3, 2, 1] ∧
    (imageBytes 0 ⟨1, 1, 0, 77, 0x01020304, 312, 7, 3, 0, 0, 0, 0, 0, 0, 0, []⟩).length = 128 := by decide +kernel

/-! ## One step of further commands -/

/-- R1: the minute follows second 59. -/
theorem test_tick_minute : (⟨5, 59, .valid, false⟩ : HotelClock).tick = ⟨6, 0, .valid, false⟩ := by decide

/-- R1: the clock stands at its last minute and second. -/
theorem test_tick_stands : (⟨maxMinute, 59, .valid, false⟩ : HotelClock).tick = ⟨maxMinute, 59, .valid, false⟩ := by decide

/-- R16, R175: an item code of 0 is out of its range. -/
theorem test_price_get_out_of_range :
    (after (.priceGet hd (.given 0)) base).link.slot.map ReplySlot.lines = some [.err .field] := by decide +kernel

/-- R24: no ISSUE while the clock is INVALID, and none in a part that is not commissioned. -/
theorem test_issue_needs_the_clock :
    let c := Instr.issue hd (.given .master) .absent .absent .absent .absent .absent .absent
    (after c { base with clock := ⟨4, 10, .invalid, false⟩ }).link.slot.map ReplySlot.lines = some [.err .clock] ∧
    (after c State.reset).link.slot.map ReplySlot.lines = some [.err .uncommissioned] := by decide +kernel

/-- R175: while DRAINING a request other than STATUS and JREAD is refused E_POWER. -/
theorem test_power_refusal :
    (after (.identity hd) (drainingPart ⟨.pfw, false, none, false⟩)).link.slot.map ReplySlot.lines =
      some [.err .power] := by decide +kernel

/-- R98, R99: a guest's card at the guest's own door is granted: the UNLATCH is queued and sent at once. -/
theorem test_guest_is_admitted :
    let t := after (.nodeReply .l1 .a (replyOf5 0 0 0x81 shownBytes))
      { withExch (.poll false) false [] (some ⟨[], some visit5⟩) with cred := (withCred guest).cred }
    (t.line .l1).queue = [⟨.unlatch, .decision, some 5, 5⟩] ∧
    (t.journal.staging.map fun r => (r.body.kind, r.body.v1)) =
      [(.start, .clean), (.admitted, .decision .grant)] := by decide +kernel

/-- R64, R66: what arrives at the leg not listened on is not taken. -/
theorem test_other_leg_is_deaf :
    after (.nodeReply .l1 .b (replyOf5 0 0 0 [])) (withExch (.poll false) false [] (some ⟨[], some visit5⟩)) =
      withExch (.poll false) false [] (some ⟨[], some visit5⟩) := by decide +kernel

/-- R141: the START record of a new part, programmed, leaves the staging queue empty. -/
theorem test_start_record_programmed :
    let t := after (.journalProgramComplete true) State.reset
    t.journal.staging = [] ∧ t.journal.newest = 1 ∧ t.store.engine = .idle := by decide +kernel

/-- R16, R160, R161: a price set is queued and its program taken once the engine is free. -/
theorem test_price_is_programmed :
    let t := after (.priceSet hd (.given 5) (.given 450) (.given 3001)) (after (.journalProgramComplete true) State.reset)
    t.price 5 = ⟨450, 3000⟩ ∧ t.store.engine = .programming (.table 0 (.price 5) (.price ⟨450, 3000⟩)) := by decide +kernel

/-- R11, R67: a node removed and created again while a cycle is in progress is not visited in that cycle. -/
theorem test_created_nodes_wait_for_the_next_cycle :
    let s := withExch (.poll false) false [] (some ⟨[9], some visit5⟩)
    let u := after (.nodeRemove hd (.given 1) (.given 9)) s
    let t := after (.nodeSet hd (.given 1) (.given 9) (.given .minibar) (.given 4) (.given 7) (.given 1) .absent)
      { u with link := { u.link with slot := none, tx := none } }
    (t.node .l1 9).isSome = true ∧ (t.line .l1).cycle.map Cycle.rest = some [] := by decide +kernel

/-- R73: a mode order owed anew while the older one is outstanding stays owed when that one is answered. -/
theorem test_owed_anew_outlives_the_older_order :
    let n := { doorNode with link := { onA with modeOwed := true, modeSent := true } }
    let s := { withExch .owedMode false [] (some ⟨[9], some visit5⟩) with
      clock := ⟨28962000, 30, .invalid, false⟩, nodes := [(133, n), (137, barNode)] }
    let u := after (.clockSet hd (.given 28962000) (.given 30)) s
    ((after (.nodeReply .l1 .a (replyOf5 0 0 0 [])) u).node .l1 5).map (fun n => n.link.modeOwed) = some true ∧
    ((after (.nodeReply .l1 .a (replyOf5 0 0 0 [])) s).node .l1 5).map (fun n => n.link.modeOwed) = some false := by
  decide +kernel

/-- R66: once a reply has failed its check, a good one of the same exchange is not taken. -/
theorem test_spoiled_exchanges_take_no_reply :
    let s := after (.nodeReply .l1 .a [1, 2, 3]) (withExch (.poll false) false [] (some ⟨[], some visit5⟩))
    after (.nodeReply .l1 .a (replyOf5 0 0 0 [])) s = s := by decide +kernel

/-- R144: the start-up erase of another sector than the spare leaves a FULL journal as it is, and posts nothing. -/
theorem test_full_is_posted_once :
    let s := { base with
      journal := { base.journal with writer := .full }
      store := { store0 with
        jreg := [(40, ⟨List.replicate 128 (some startRecord), false, false, false⟩),
          (41, ⟨[some startRecord], false, false, false⟩), (60, ⟨[], false, false, true⟩)]
        engine := .erasing ⟨⟨60, .startUp⟩, false, 0, false⟩, work := [⟨60, .startUp⟩] } }
    let t := after (.eraseComplete true) s
    t.journal = s.journal ∧ t.link.notices.journal = s.link.notices.journal := by decide +kernel

/-- R143: a retired sector passed over on an earlier round is not counted again. -/
theorem test_stale_records_are_not_retained :
    let r := fun q => some { startRecord with seq := q }
    let s := { base with
      journal := { base.journal with head := 50, spare := 45, oldest := some 300, nextSeq := 900, newest := 899 }
      store := { store0 with
        jreg := [(47, ⟨[r 7], false, true, false⟩), (48, ⟨[r 400], false, false, false⟩),
          (50, ⟨[r 899], false, false, false⟩)]
        engine := .erasing ⟨⟨45, .journalErase⟩, false, 0, false⟩, work := [⟨45, .journalErase⟩] } }
    (after (.eraseComplete true) s).journal.oldest = some 400 := by decide +kernel

/-- R163: while a reclaim is listed, the table writer's program waits once the head is full and only the kept sector is
erased, and goes on with the reclaim's erase. -/
theorem test_the_kept_sector_is_kept :
    let r := fun q => some (⟨q, .price 5, .price ⟨q, 0⟩⟩ : LogRec)
    let full : Sector LogRec := ⟨List.replicate 127 (r 1), false, false, false⟩
    let s := { base with store := { store0 with
      tlog := (0, full) :: (rangeInc 2 39).map fun k => (k, ⟨[r (k + 1)], false, false, false⟩)
      head := 0, work := [⟨2, .reclaim⟩], queue := [⟨.settings, .settings .default, true⟩]
      engine := .programming (.table 0 (.price 5) (.price ⟨9, 0⟩)) } }
    let t := after (.tableLogProgramComplete true) s
    t.store.held = true ∧ t.store.head = 0 ∧ t.store.tableRequest = none := by decide +kernel

/-- R188: a cold start that finds PFW asserted lets a copy-forward in progress run to its end in PARKED. -/
theorem test_programs_end_in_parked :
    let s := { drainingPart ⟨.pfw, true, some 1, true⟩ with
      power := { base.power with state := .draining, drain := some ⟨.pfw, true, some 1, true⟩, pfw := true }
      store := { store0 with engine := .programming (.copy 0 (.price 5) (.price ⟨9, 0⟩)), nextAppend := 70 } }
    let t := after (.copyForwardComplete true) (after (.postDrainColdStart .r57600) s)
    t.power.state = .parked ∧ t.store.engine = .idle ∧
    (t.store.tsec 0).cells = [some ⟨70, .price 5, .price ⟨9, 0⟩⟩] := by decide +kernel

/-- R171, R197: the part's lines carry the check that its own reader tests, in upper case. -/
theorem test_lines_carry_their_check :
    let x : TxLine := .reply [5, 7] .err (.err .field)
    checkedBody x.chars = some x.body ∧ x.body = (codes "57 ERR E_FIELD ").map fun n => BitVec.ofNat 8 n := by
  decide +kernel

/-- R180, R197: a notice begins with `*`, its class and its count. -/
theorem test_notice_form :
    (TxLine.notice .clock 2 (some (.clock 5 600))).body =
      (codes "* CLOCK count=2 old=5 new=600 ").map fun n => BitVec.ofNat 8 n := by decide +kernel

/-- R175, R176, R197: CARD READ is answered ACCEPTED, and a further line of a reply continues it. -/
theorem test_reply_forms :
    (RLine.readStarted.form, (RLine.unlock 5).form, (RLine.err .field).form) = (.accepted, .ok, .err) ∧
    (TxLine.reply [0, 7] RLine.readStarted.form .readStarted).body =
      ((codes "07 ACCEPTED ").map fun n => BitVec.ofNat 8 n) ∧
    (TxLine.reply [0, 7] .continuation (.credCount 3)).body =
      ((codes "07 + count=3 ").map fun n => BitVec.ofNat 8 n) := by decide +kernel

/-- R86, R148, R197: a reply's keys are in lower case and its words in capitals. -/
theorem test_keys_and_words :
    (TxLine.reply [7] .ok (.lineGet true 50 5 3 9 0 0 none [(.unknown, 0), (.onA, 2), (.onB, 1)] .whole .empty)).body =
      ((codes "7 OK state=RUNNING period=50 timeout=5 phase=3 count=9 orders=0 decisions=0 exchange=NONE unknown=0 ona=2 \
onb=1 condition=WHOLE p=0 ").map fun n => BitVec.ofNat 8 n) ∧
    (TxLine.reply [7] .ok (.jread none 0 true 5 4 3)).body =
      ((codes "7 OK first=NONE count=0 oldest=yes accepted=5 programmed=4 mark=3 ").map fun n => BitVec.ofNat 8 n) := by
  decide +kernel

/-- R5, R197: NODE SET of a MINIBAR is answered with its slot item codes and its baseline too. -/
theorem test_node_set_answers_the_slots :
    (RLine.node (.l2, 32) ⟨.minibar, 19, some 14, 0, true, [7, 12, 0, 0, 0, 0, 0, 0, 0, 0, 0, 0], 3⟩).fields.drop 6 =
      [field "codes" ((codes "7,12,0,0,0,0,0,0,0,0,0,0").map fun n => BitVec.ofNat 8 n),
        field "baseline" (0x7B :: ((codes "1,2").map fun n => BitVec.ofNat 8 n) ++ [0x7D])] := by decide +kernel

/-- R123: a slot event outside an opening is tamper though no slot has changed (log 17). -/
theorem test_unchanged_report_is_tamper :
    let b := { BarRec.start with present := some 0xFFF }
    let t := slotsReported .l1 9 { barNode with bar := b } 0xFFF (withBar b)
    t.link.notices.alarm.count = 1 ∧ t.journal.staging.length = 2 := by decide +kernel

/-- R196: a reply whose body is shorter or longer than its code asks is taken, its status used. -/
theorem test_short_and_long_replies_are_taken :
    ((readReply (frameBytes 5 0x81 [8, 0])).map fun r => (r.addr, r.status.batteryLow)) = some (5, true) ∧
    ((readReply (frameBytes 5 0x81 (4 :: List.replicate 25 0))).map ReplyFrame.addr) = some 5 := by decide +kernel

end Sys2Proof.Tests
end

