-- ==== Sys2Proof/Proofs/Admission.lean ====
section
/-!
The admission unit (Chapter 5): what the tests of a presentation and of a credential's kind answer (O43, O44). The
lookup, the expiry and the window come first, each in the form the rules give it; then the tests, a lemma per
outcome or kind; then the two statements.
-/

namespace Sys2Proof.Machine

/-! ## What the tests read (R21, R90 to R93) -/

theorem State.findCred_eq_none_iff {s : State} {number : Nat} :
    s.findCred number = none ↔ ∀ e ∈ s.cred.slots, e.2.number ≠ number := by
  simp [State.findCred]

/-- A number that one slot alone holds is found there. -/
theorem State.findCred_eq_some_of_unique {s : State} {number k : Nat} {r : CredRec} (hmem : (k, r) ∈ s.cred.slots)
    (hnum : r.number = number) (huniq : ∀ e ∈ s.cred.slots, e.2.number = number → e = (k, r)) :
    s.findCred number = some (k, r) := by
  cases hf : s.findCred number with
  | none => exact absurd hnum (findCred_eq_none_iff.mp hf _ hmem)
  | some e =>
    have he : e.2.number = number := by simpa using List.find?_some hf
    rw [huniq e (List.mem_of_find?_eq_some hf) he]

theorem State.site_of_identity {s : State} {i : Identity} (hi : s.store.identity = some i) : s.site = i.site := by
  simp [State.site, hi]

/-- The checkout grace moves the end of a GUEST record alone (R21). -/
theorem State.expiry_eq (s : State) (r : CredRec) :
    s.expiry r = if r.kind = .guest then r.validUntil.map fun u => min (u + s.settings.checkout) 4294967294
      else r.validUntil := by
  cases hk : r.kind <;> cases hv : r.validUntil <;> simp [State.expiry, expiryOf, hk, hv, maxMinute]

theorem endBy_eq_any (m : Nat) (e : EndMinute) : endBy m e = e.any fun e => decide (e ≤ m) := by
  cases e <;> rfl

/-- Test 5 as R91 words it: the kind, and a GUEST record's issue number and room, 0 on every other card. -/
theorem cardAgrees_iff {p : Presentation} {r : CredRec} :
    cardAgrees p r = true ↔ p.kind = r.kind.code ∧ (r.kind = .guest → p.issue = r.issue ∧ p.room = r.room) ∧
      (r.kind ≠ .guest → p.issue = 0 ∧ p.room = 0) := by
  by_cases hk : r.kind = .guest <;> simp [cardAgrees, hk]

theorem insideWindow_whole_day (b m : Nat) : insideWindow b b m = true := by
  simp [insideWindow]

theorem insideWindow_iff_of_lt {b e m : Nat} (h : b < e) : insideWindow b e m = true ↔ b ≤ m ∧ m < e := by
  simp [insideWindow, h, h.ne]

/-- A window that ends before it begins crosses midnight (R93). -/
theorem insideWindow_iff_of_gt {b e m : Nat} (h : e < b) : insideWindow b e m = true ↔ b ≤ m ∨ m < e := by
  simp [insideWindow, h.ne', h.not_gt]

/-- What R93 says of each shape of window determines the window test. -/
theorem eq_insideWindow {b e m : Nat} {inside : Bool} (hday : b = e → inside = true)
    (hlt : b < e → (inside = true ↔ b ≤ m ∧ m < e)) (hgt : e < b → (inside = true ↔ b ≤ m ∨ m < e)) :
    inside = insideWindow b e m := by
  rw [Bool.eq_iff_iff]
  rcases lt_trichotomy b e with h | rfl | h
  · rw [hlt h, insideWindow_iff_of_lt h]
  · simp [hday rfl, insideWindow_whole_day]
  · rw [hgt h, insideWindow_iff_of_gt h]

/-! ## Tests 1 to 6 of a presentation (R91, R92) -/

section CardTests

variable {s : State} {p : Presentation}

theorem State.cardTests_stale (h : s.settings.fresh < p.age) : s.cardTests p = .inr .denyStale := by
  simp [State.cardTests, h]

theorem State.cardTests_foreign_site (hage : p.age ≤ s.settings.fresh) (h : p.site ≠ s.site) :
    s.cardTests p = .inr .denySite := by
  simp [State.cardTests, hage.not_gt, h]

theorem State.cardTests_not_found (hage : p.age ≤ s.settings.fresh) (hsite : p.site = s.site)
    (h : s.findCred p.number = none) :
    s.cardTests p = .inr (if p.kind = 5 then .denyVoid else .denyUnknown) := by
  rw [State.cardTests, if_neg hage.not_gt, if_neg (not_not.mpr hsite), h]
  rfl

theorem State.cardTests_found {k : Nat} {r : CredRec} (hage : p.age ≤ s.settings.fresh) (hsite : p.site = s.site)
    (h : s.findCred p.number = some (k, r)) :
    s.cardTests p = (s.recordTests p r).elim (.inl r) .inr := by
  rw [State.cardTests, if_neg hage.not_gt, if_neg (not_not.mpr hsite), h]
  cases hr : s.recordTests p r <;> simp [hr]

theorem State.recordTests_of_stateRefusal {r : CredRec} {d : Decision} (h : stateRefusal r.state = some d) :
    s.recordTests p r = some d := by
  simp [State.recordTests, h]

/-- Tests 5 and 6, which an ACTIVE record reaches. -/
theorem State.recordTests_active {r : CredRec} (h : r.state = .active) :
    s.recordTests p r =
      if cardAgrees p r = false then some .denyMismatch
      else if s.clock.minute < r.validFrom then some .denyNotYet
      else if endBy s.clock.minute (s.expiry r) = true then some .denyExpired
      else none := by
  simp [State.recordTests, h, stateRefusal]

end CardTests

/-- Settles O43: the age, the site and the lookup each have their outcome; a record found is refused by its state, or
it is ACTIVE and the card's fields and the minute decide. -/
theorem theTestsOfACard : Obligations.TheTestsOfACard := by
  unfold Obligations.TheTestsOfACard
  intro s p i hi
  rw [← State.site_of_identity hi]
  refine ⟨State.cardTests_stale, State.cardTests_foreign_site, fun hage hsite => ⟨fun hnone => ?_, ?_⟩⟩
  · exact State.cardTests_not_found hage hsite (State.findCred_eq_none_iff.mpr hnone)
  intro k r expiry agrees hmem hnum huniq hexpiry hagrees
  rw [State.cardTests_found hage hsite (State.findCred_eq_some_of_unique hmem hnum huniq)]
  have hexp : expiry = s.expiry r := hexpiry.trans (s.expiry_eq r).symm
  have hagr : agrees = cardAgrees p r := by
    rw [Bool.eq_iff_iff, hagrees, cardAgrees_iff]
    cases r.kind <;> rfl
  cases hst : r.state with
  | pending | revoked | superseded | lapsed =>
    rw [State.recordTests_of_stateRefusal (by rw [hst]; rfl)]
    rfl
  | active =>
    rw [State.recordTests_active hst, endBy_eq_any, ← hexp, ← hagr]
    split_ifs <;> rfl

/-! ## Orders and the tests of a credential's kind (R94 to R98) -/

theorem Decision.order_of_unlatching {d : Decision} (a time : Nat) (h : d = .grant ∨ d = .grantOverride) :
    d.order a time = some ⟨.unlatch, .decision, some a, time⟩ := by
  rcases h with rfl | rfl <;> rfl

theorem Decision.order_of_silent {d : Decision} (a time : Nat) (h : d = .grantHeld ∨ d = .denyStale) :
    d.order a time = none := by
  rcases h with rfl | rfl <;> rfl

theorem Decision.order_of_signalled {d : Decision} (a time : Nat) (hg : d ≠ .grant) (ho : d ≠ .grantOverride)
    (hh : d ≠ .grantHeld) (hs : d ≠ .denyStale) : d.order a time = some ⟨.denySignal, .decision, some a, 0⟩ := by
  cases d with
  | grant | grantOverride | grantHeld | denyStale => contradiction
  | _ => rfl

section DoorTests

variable {s : State} {n : Node} {p : Presentation} {r : CredRec}

theorem State.doorDecision_of_refused {d : Decision} (h : s.cardTests p = .inr d) : s.doorDecision n p = d := by
  simp [State.doorDecision, h]

theorem State.doorDecision_roomDoor (h : s.cardTests p = .inl r) (hk : n.entry.kind = .roomDoor) :
    s.doorDecision n p = s.roomDoorTest (n.entry.room.getD 0) n.entry.group r := by
  simp [State.doorDecision, h, hk]

theorem State.doorDecision_commonDoor (h : s.cardTests p = .inl r) (hk : n.entry.kind = .commonDoor) :
    s.doorDecision n p = s.commonDoorTest n r := by
  simp [State.doorDecision, h, hk]

theorem State.staffTests_eq (g : Nat) :
    s.staffTests g r =
      if r.mask.has g = false then some .denyGroup
      else if s.inWindow r = false then some .denyWindow
      else none := by
  simp [State.staffTests]

/-- A guest at a room door (R94): the room, the issue number and the lockout, and nothing of the group. -/
theorem State.roomDoorTest_guest {room : Nat} {x : Room} (g : Nat) (hx : s.rooms.get room = some x)
    (hk : r.kind = .guest) :
    s.roomDoorTest room g r =
      if r.room ≠ room then .denyWrongRoom
      else if r.issue ≠ x.entry.issue then .denySuperseded
      else if x.entry.lockout = true then .denyLockout
      else .grant := by
  simp [State.roomDoorTest, hk, hx, eq_comm (a := r.issue)]

theorem State.roomDoorTest_staff {room : Nat} {x : Room} (g : Nat) (hx : s.rooms.get room = some x)
    (hk : r.kind = .staff ∨ r.kind = .restock) :
    s.roomDoorTest room g r =
      if r.mask.has g = false then .denyGroup
      else if s.inWindow r = false then .denyWindow
      else if x.privacy = true then .denyPrivacy
      else .grant := by
  have hroom : s.roomDoorTest room g r =
      (s.staffTests g r).getD (if x.privacy = true then .denyPrivacy else .grant) := by
    rcases hk with hk | hk <;> simp only [State.roomDoorTest, hk, hx] <;> cases s.staffTests g r <;> rfl
  rw [hroom, State.staffTests_eq]
  split_ifs <;> rfl

theorem State.roomDoorTest_master {room : Nat} {x : Room} (g : Nat) (hx : s.rooms.get room = some x)
    (hk : r.kind = .master) :
    s.roomDoorTest room g r = if x.privacy = true then .grantOverride else .grant := by
  simp [State.roomDoorTest, hk, hx]

theorem State.commonTests_guest {y : Room} (g : Nat) (hy : s.rooms.get r.room = some y) (hk : r.kind = .guest) :
    s.commonTests g r =
      if y.entry.access.has g = false then some .denyGroup
      else if r.issue ≠ y.entry.issue then some .denySuperseded
      else none := by
  simp [State.commonTests, State.credGroups, hk, hy, eq_comm (a := r.issue)]

theorem State.commonTests_staff (g : Nat) (hk : r.kind = .staff ∨ r.kind = .restock) :
    s.commonTests g r = s.staffTests g r := by
  rcases hk with hk | hk <;> simp [State.commonTests, hk]

theorem State.commonTests_master (g : Nat) (hk : r.kind = .master) : s.commonTests g r = none := by
  simp [State.commonTests, hk]

theorem State.commonDoorTest_secured (h : (s.group n.entry.group).release = .secured) :
    s.commonDoorTest n r = if r.kind = .master then .grant else .denySecured := by
  simp [State.commonDoorTest, h]

theorem State.commonDoorTest_not_secured (h : (s.group n.entry.group).release ≠ .secured) :
    s.commonDoorTest n r = (s.commonTests n.entry.group r).getD (s.commonGrant n) := by
  simp only [State.commonDoorTest, h, if_false]
  cases s.commonTests n.entry.group r <;> rfl

theorem NodeLink.latchReleased_iff {l : NodeLink} :
    l.latchReleased = true ↔ ∃ st, l.status = some st ∧ st.latchReleased = true := by
  cases h : l.status <;> simp [NodeLink.latchReleased, h]

theorem State.commonGrant_eq : s.commonGrant n =
    if (s.group n.entry.group).release = .released ∧ (∃ st, n.link.status = some st ∧ st.latchReleased = true)
    then .grantHeld else .grant := by
  simp only [State.commonGrant, NodeLink.latchReleased_iff]

end DoorTests

/-- Settles O44: the order by the decision, the decision at a door by the tests of the card, and the tests of each
kind of credential by the lemma of that kind, at a room door and at a common door. -/
theorem theTestsAtTheDoors : Obligations.TheTestsAtTheDoors := by
  unfold Obligations.TheTestsAtTheDoors
  refine ⟨fun d a time => ⟨d.order_of_unlatching a time, d.order_of_silent a time, d.order_of_signalled a time⟩,
    fun s n p => ⟨fun d => State.doorDecision_of_refused,
      fun r h => ⟨State.doorDecision_roomDoor h, State.doorDecision_commonDoor h⟩⟩, ?_⟩
  rintro s n r room g m x y inside hx hy rfl rfl hday hlt hgt
  have hin : s.inWindow r = inside := (eq_insideWindow hday hlt hgt).symm
  refine ⟨?roomDoor, State.commonDoorTest_secured, ?commonDoor⟩
  case roomDoor =>
    cases hk : r.kind with
    | guest => exact State.roomDoorTest_guest _ hx hk
    | staff | restock =>
      rw [State.roomDoorTest_staff _ hx (by simp [hk]), hin]
    | master => exact State.roomDoorTest_master _ hx hk
  case commonDoor =>
    intro granted hgranted hsec
    rw [State.commonDoorTest_not_secured hsec, State.commonGrant_eq, ← hgranted]
    cases hk : r.kind with
    | guest =>
      rw [State.commonTests_guest _ (hy hk) hk]
      split_ifs <;> rfl
    | staff | restock =>
      rw [State.commonTests_staff _ (by simp [hk]), State.staffTests_eq, hin]
      split_ifs <;> rfl
    | master => rw [State.commonTests_master _ hk]; rfl

end Sys2Proof.Machine
end
/-!
The proofs of the statements about the part as a whole, its requests, its units and its store.

The first part is the one invariant of every operation: `keepsSound`. It says of two states that each table, each
queue and the clock that is sound in the first is sound in the second, and that the waiting commands are the same. One
lemma for each operation of the model, in the order of the model's files, carries it from the state an operation is
applied to on to the state it leaves; the statements about every step (O2, O5, O6, O7) are then its fields.
-/

namespace Sys2Proof.Machine

-- Each proof cites those before it: elaborated in turn, they leave no thread waiting for another.
set_option Elab.async false

/-! ## Sound parts -/

/-- The node table in its canonical form, the pending lines of its minibars included. -/
def nodesCanonical (m : FMap Node) : Prop := m.wf ∧ ∀ e ∈ m, e.2.bar.lines.wf

/-- A table in canonical form that lists no entry at its start value. -/
def listsOnly {α : Type} (start : α) (m : FMap α) : Prop := m.wf ∧ ∀ e ∈ m, e.2 ≠ start

/-- Every order queue is within its places. -/
def ordersFit (p : PerLine Line) : Prop := ∀ i, (p.get i).queue.length ≤ Config.orderPlaces

/-- What of the store is sound in `t` is sound in `u`. -/
structure keepsStoreSound (t u : Store) : Prop where
  tlog : listsOnly .blank t.tlog → listsOnly .blank u.tlog
  jreg : listsOnly .blank t.jreg → listsOnly .blank u.jreg
  changes : t.queue.length ≤ Config.changePlaces → u.queue.length ≤ Config.changePlaces

/-- What is sound in `s` is sound in `t`, and the same commands wait. -/
structure keepsSound (s t : State) : Prop where
  pending : t.pending = s.pending
  clock : s.clockInRange → t.clockInRange
  rooms : s.rooms.wf → t.rooms.wf
  nodes : nodesCanonical s.nodes → nodesCanonical t.nodes
  groups : listsOnly .start s.groups → listsOnly .start t.groups
  prices : listsOnly .start s.prices → listsOnly .start t.prices
  slots : s.cred.slots.wf → t.cred.slots.wf
  list : s.cred.list.wf → t.cred.list.wf
  orders : ordersFit s.lines → ordersFit t.lines
  staging : s.journal.staging.length ≤ Config.stagingPlaces → t.journal.staging.length ≤ Config.stagingPlaces
  store : keepsStoreSound s.store t.store

theorem keepsStoreSound.refl (t : Store) : keepsStoreSound t t := ⟨id, id, id⟩

theorem keepsStoreSound.trans {t u v : Store} (h : keepsStoreSound t u) (g : keepsStoreSound u v) :
    keepsStoreSound t v := ⟨g.1 ∘ h.1, g.2 ∘ h.2, g.3 ∘ h.3⟩

theorem keepsSound.refl (s : State) : keepsSound s s := ⟨rfl, id, id, id, id, id, id, id, id, id, .refl _⟩

theorem keepsSound.trans {s t u : State} (h : keepsSound s t) (g : keepsSound t u) : keepsSound s u :=
  ⟨g.pending.trans h.pending, g.clock ∘ h.clock, g.rooms ∘ h.rooms, g.nodes ∘ h.nodes, g.groups ∘ h.groups,
    g.prices ∘ h.prices, g.slots ∘ h.slots, g.list ∘ h.list, g.orders ∘ h.orders, g.staging ∘ h.staging,
    h.store.trans g.store⟩

theorem keepsSound.canonical {s t : State} (h : keepsSound s t) (c : s.canonical) : t.canonical := by
  obtain ⟨nodes, lines⟩ := h.nodes ⟨c.nodes, c.lines⟩
  obtain ⟨groups, groupsListed⟩ := h.groups ⟨c.groups, c.groupsListed⟩
  obtain ⟨prices, pricesListed⟩ := h.prices ⟨c.prices, c.pricesListed⟩
  obtain ⟨tlog, tlogListed⟩ := h.store.tlog ⟨c.tlog, c.tlogListed⟩
  obtain ⟨jreg, jregListed⟩ := h.store.jreg ⟨c.jreg, c.jregListed⟩
  exact ⟨h.rooms c.rooms, nodes, groups, groupsListed, prices, pricesListed, h.slots c.slots, h.list c.list, lines,
    tlog, tlogListed, jreg, jregListed⟩

theorem keepsSound.withinPlaces {s t : State} (h : keepsSound s t) (c : s.withinPlaces) : t.withinPlaces :=
  ⟨h.staging c.staging, h.store.changes c.changes, h.orders c.orders⟩

/-! ## Sound tables -/

theorem nodesCanonical_put {m : FMap Node} (h : nodesCanonical m) {n : Node} (hn : n.bar.lines.wf) (k : Nat) :
    nodesCanonical (m.put k n) :=
  ⟨FMap.wf_put h.1 k n, fun e he => (FMap.mem_put he).elim (fun e => e ▸ hn) (h.2 e)⟩

theorem nodesCanonical_mapVals {m : FMap Node} (h : nodesCanonical m) {f : Nat → Node → Node}
    (hf : ∀ k n, n.bar.lines.wf → (f k n).bar.lines.wf) : nodesCanonical (m.mapVals f) := by
  refine ⟨FMap.wf_mapVals h.1 f, fun e he => ?_⟩
  obtain ⟨x, hx, rfl⟩ := List.mem_map.1 he
  exact hf _ _ (h.2 x hx)

theorem nodesCanonical_del {m : FMap Node} (h : nodesCanonical m) (k : Nat) : nodesCanonical (m.del k) :=
  ⟨FMap.wf_del h.1 k, fun e he => h.2 e (List.mem_of_mem_filter he)⟩

/-- Setting an entry, or taking it out at its start value, keeps a table that lists no start value. -/
theorem listsOnly_set {α : Type} [DecidableEq α] {start : α} {m : FMap α} (h : listsOnly start m) (k : Nat) (v : α) :
    listsOnly start (m.set k (if v = start then none else some v)) := by
  refine ⟨FMap.wf_set h.1 k _, fun e he => ?_⟩
  rcases FMap.mem_set he with ⟨-, hv⟩ | he
  · split at hv
    · cases hv
    · next hne => cases hv; exact hne
  · exact h.2 e he

/-- The node a key holds is one of the table's. -/
theorem lines_wf_of_get {m : FMap Node} (h : nodesCanonical m) {k : Nat} {n : Node} (hn : m.get k = some n) :
    n.bar.lines.wf := h.2 _ (FMap.mem_of_get hn)

theorem PerLine.get_set {α : Type} (p : PerLine α) (i j : LineId) (v : α) :
    (p.set i v).get j = if j = i then v else p.get j := by
  cases i <;> cases j <;> rfl

/-- Whether a line master places an order, by its class (R70). -/
theorem Line.places_iff {l : Line} {c : OrderClass} :
    l.places c = true ↔ l.running = true ∧ l.queue.length < if c = .decision then 16 else 12 := by
  cases c <;> simp only [Line.places, Config.orderPlaces, Config.otherOrderPlaces, Bool.and_eq_true] <;>
    exact and_congr_right fun _ => decide_eq_true_iff

/-! ## The store's own operations -/

section
variable {r t : Store}

theorem keepsStoreSound.modT (h : keepsStoreSound r t) (k : Nat) (f : Sector LogRec → Sector LogRec) :
    keepsStoreSound r (t.modT k f) := ⟨fun x => listsOnly_set (h.tlog x) _ _, h.jreg, h.changes⟩

theorem keepsStoreSound.modJ (h : keepsStoreSound r t) (k : Nat) (f : Sector JRec → Sector JRec) :
    keepsStoreSound r (t.modJ k f) := ⟨h.tlog, fun x => listsOnly_set (h.jreg x) _ _, h.changes⟩

theorem keepsStoreSound.offerChange (h : keepsStoreSound r t) (k : EntryKey) (v : EntryVal) :
    keepsStoreSound r (t.offerChange k v) := by
  refine ⟨fun x => ?_, fun x => ?_, fun x => offerChange_within (h.changes x) k v⟩
  · have := h.tlog x
    unfold Store.offerChange; split <;> try split
    all_goals try split
    all_goals exact this
  · have := h.jreg x
    unfold Store.offerChange; split <;> try split
    all_goals try split
    all_goals exact this

theorem keepsStoreSound.takeOldest (h : keepsStoreSound r t) : keepsStoreSound r t.takeOldest := by
  have k := takeOldest_keeps t
  refine ⟨fun x => k.tlog ▸ h.tlog x, fun x => k.jreg ▸ h.jreg x, fun x => ?_⟩
  have := congrArg List.length k.places
  simp only [List.length_map] at this
  exact this ▸ h.changes x

theorem keepsStoreSound.appendRec (h : keepsStoreSound r t) (k : Nat) (key : EntryKey) (v : EntryVal) :
    keepsStoreSound r (t.appendRec k key v) := { h.modT k _ with }

theorem keepsStoreSound.cutSector (h : keepsStoreSound r t) (k : Nat) : keepsStoreSound r (cutSector k t) := by
  unfold Machine.cutSector; split
  · exact h.modJ _ _
  · exact h.modT _ _

theorem keepsStoreSound.cutProgram (h : keepsStoreSound r t) (p : Program) : keepsStoreSound r (cutProgram p t) := by
  cases p with
  | table k key v => exact h.modT _ _
  | copy k key v => exact h.modT _ _
  | journal k x => exact h.modJ _ _
  | identity n i => exact { h with }

theorem keepsStoreSound.cutErases (h : keepsStoreSound r t) : keepsStoreSound r (cutErases t) := by
  have first : keepsStoreSound r (match t.engine with
      | .erasing e => { Machine.cutSector e.work.sector t with engine := .idle }
      | _ => t) := by
    split
    · exact { h.cutSector _ with }
    · exact h
  unfold Machine.cutErases
  dsimp only
  split
  · exact { first.cutSector _ with }
  · exact first

theorem keepsStoreSound.cutOff (h : keepsStoreSound r t) : keepsStoreSound r (cutOff t) := by
  unfold Machine.cutOff
  refine keepsStoreSound.cutErases ?_
  split
  · exact { h.cutProgram _ with }
  · exact h

theorem keepsStoreSound.stopReclaimer (h : keepsStoreSound r t) : keepsStoreSound r (stopReclaimer t) :=
  { h.cutErases with }

theorem keepsStoreSound.landProgram (h : keepsStoreSound r t) (p : Program) (sound : Bool) :
    keepsStoreSound r (landProgram p sound t) := by
  cases sound with
  | false =>
    have := h.cutProgram p
    cases p <;> exact this
  | true =>
    cases p with
    | table k key v => exact h.appendRec _ _ _
    | copy k key v => exact h.appendRec _ _ _
    | journal k x => exact h.modJ _ _
    | identity n i => exact { h with }

theorem keepsStoreSound.yieldPlace (h : keepsStoreSound r t) (slot : Nat) : keepsStoreSound r (yieldPlace slot t) := by
  unfold Machine.yieldPlace; split
  · exact h
  · exact { h with changes := fun x => (List.length_filter_le _ _).trans (h.changes x) }

theorem listsOnly_classRegion {α : Type} [DecidableEq α] {m : FMap (Sector α)} (h : listsOnly .blank m) :
    listsOnly .blank (classRegion m) := by
  refine ⟨?_, fun e he => ?_⟩
  · have : (m.map fun e => (e.1, e.2.classed)).Pairwise fun a b => a.1 < b.1 := by
      simpa [List.pairwise_map] using h.1
    exact this.filter _
  · simpa using (List.mem_filter.1 he).2

end

/-! ## Changing one part of the state -/

namespace keepsSound

variable {r s : State}

theorem onPower (h : keepsSound r s) (f : PowerUnit → PowerUnit) : keepsSound r (s.onPower f) := { h with }
theorem onSettings (h : keepsSound r s) (f : Settings → Settings) : keepsSound r (s.onSettings f) := { h with }
theorem onEnc (h : keepsSound r s) (f : Encoder → Encoder) : keepsSound r (s.onEnc f) := { h with }
theorem onLink (h : keepsSound r s) (f : Link → Link) : keepsSound r (s.onLink f) := { h with }
theorem onSignals (h : keepsSound r s) (f : Signals → Signals) : keepsSound r (s.onSignals f) := { h with }
theorem onFreeUses (h : keepsSound r s) (f : Nat → Nat) : keepsSound r (s.onFreeUses f) := { h with }

theorem onClock (h : keepsSound r s) (f : HotelClock → HotelClock)
    (hf : s.clockInRange → (s.onClock f).clockInRange) : keepsSound r (s.onClock f) :=
  { h with clock := fun x => hf (h.clock x) }

theorem onRooms (h : keepsSound r s) {f : FMap Room → FMap Room} (hf : s.rooms.wf → (f s.rooms).wf) :
    keepsSound r (s.onRooms f) := { h with rooms := fun x => hf (h.rooms x) }

theorem onNodes (h : keepsSound r s) {f : FMap Node → FMap Node} (hf : nodesCanonical s.nodes → nodesCanonical (f s.nodes)) :
    keepsSound r (s.onNodes f) := { h with nodes := fun x => hf (h.nodes x) }

theorem onGroups (h : keepsSound r s) (g : Nat) (e : GroupEntry) : keepsSound r (s.onGroups fun m => putGroup m g e) :=
  { h with groups := fun x => listsOnly_set (h.groups x) g e }

theorem onPrices (h : keepsSound r s) (i : Nat) (e : PriceEntry) : keepsSound r (s.onPrices fun m => putPrice m i e) :=
  { h with prices := fun x => listsOnly_set (h.prices x) i e }

theorem onCred (h : keepsSound r s) {f : CredUnit → CredUnit} (hs : s.cred.slots.wf → (f s.cred).slots.wf)
    (hl : s.cred.list.wf → (f s.cred).list.wf) : keepsSound r (s.onCred f) :=
  { h with slots := fun x => hs (h.slots x), list := fun x => hl (h.list x) }

theorem onLines (h : keepsSound r s) {f : PerLine Line → PerLine Line} (hf : ordersFit s.lines → ordersFit (f s.lines)) :
    keepsSound r (s.onLines f) := { h with orders := fun x => hf (h.orders x) }

theorem onJournal (h : keepsSound r s) {f : Journal → Journal}
    (hf : (f s.journal).staging.length ≤ s.journal.staging.length) : keepsSound r (s.onJournal f) :=
  { h with staging := fun x => hf.trans (h.staging x) }

theorem onStore (h : keepsSound r s) {f : Store → Store} (hf : keepsStoreSound s.store (f s.store)) :
    keepsSound r (s.onStore f) := { h with store := h.store.trans hf }

/-- A change of the store that touches neither its regions nor its table change queue. -/
theorem onStoreRest (h : keepsSound r s) {f : Store → Store}
    (hf : (f s.store).tlog = s.store.tlog ∧ (f s.store).jreg = s.store.jreg ∧ (f s.store).queue = s.store.queue := by
      exact ⟨rfl, rfl, rfl⟩) :
    keepsSound r (s.onStore f) :=
  h.onStore ⟨fun x => hf.1 ▸ x, fun x => hf.2.1 ▸ x, fun x => hf.2.2 ▸ x⟩

/-- Operations done in turn. -/
theorem foldl {β : Type} {f : State → β → State} (hf : ∀ s b, keepsSound r s → keepsSound r (f s b)) (l : List β)
    (h : keepsSound r s) : keepsSound r (l.foldl f s) := by
  induction l generalizing s with
  | nil => exact h
  | cons b t ih => exact ih (hf s b h)

/-! ## The shared operations -/

theorem modNodeAt (h : keepsSound r s) {key : Nat} {f : Node → Node} (hf : ∀ n, n.bar.lines.wf → (f n).bar.lines.wf) :
    keepsSound r (s.modNodeAt key f) := by
  unfold State.modNodeAt; split
  · exact h
  · next n hn => exact h.onNodes fun x => nodesCanonical_put x (hf n (lines_wf_of_get x hn)) key

theorem modNode (h : keepsSound r s) {line : LineId} {addr : Nat} {f : Node → Node}
    (hf : ∀ n, n.bar.lines.wf → (f n).bar.lines.wf) : keepsSound r (s.modNode line addr f) := h.modNodeAt hf

theorem modLine (h : keepsSound r s) {i : LineId} {f : Line → Line}
    (hf : (s.line i).queue.length ≤ Config.orderPlaces → (f (s.line i)).queue.length ≤ Config.orderPlaces) :
    keepsSound r (s.modLine i f) := by
  refine h.onLines fun x j => ?_
  rw [PerLine.get_set]; split
  · exact hf (x i)
  · exact x j

/-- A change of a line master that leaves its queue as it is or shortens it. -/
theorem modLineRest (h : keepsSound r s) {i : LineId} {f : Line → Line}
    (hf : ∀ l, (f l).queue.length ≤ l.queue.length := by exact fun _ => le_rfl) : keepsSound r (s.modLine i f) :=
  h.modLine fun x => (hf _).trans x

theorem modRoom (h : keepsSound r s) {i : Nat} {f : Room → Room} : keepsSound r (s.modRoom i f) := by
  unfold State.modRoom; split
  · exact h
  · exact h.onRooms fun x => FMap.wf_put x _ _

theorem post (h : keepsSound r s) {c : NoticeClass} {d : Detail} : keepsSound r (post c d s) := h.onLink _

theorem tally_staging (j : Journal) (k : JKind) : (j.tally k).staging = j.staging := by
  unfold Journal.tally; split <;> rfl

theorem dropHeld_staging (j : Journal) : j.dropHeld.staging = j.staging := by
  unfold Journal.dropHeld; split
  · have : ∀ (l : List (Nat × Nat)) (x : Journal), (l.foldl (fun j _ => j.tally .overrun) x).staging = x.staging := by
      intro l
      induction l with
      | nil => exact fun _ => rfl
      | cons a t ih => exact fun x => (ih _).trans (tally_staging x _)
    exact this _ _
  · rfl

theorem acceptRec_staging_length (b : JBody) (s : State) :
    (Machine.acceptRec b s).journal.staging.length = s.journal.staging.length + 1 := by
  rw [acceptRec_journal, dropHeld_staging]; simp [Journal.append]

theorem acceptRec (h : keepsSound r s) {b : JBody} (hs : s.journal.staging.length ≤ 63) :
    keepsSound r (acceptRec b s) := by
  have fits : ((s.journal.append s.clock b).dropHeld).staging.length ≤ Config.stagingPlaces := by
    rw [dropHeld_staging]
    simp only [Journal.append, List.length_append, List.length_singleton, Config.stagingPlaces]
    omega
  have step : keepsSound r (s.onJournal fun j => (j.append s.clock b).dropHeld) := { h with staging := fun _ => fits }
  unfold Machine.acceptRec; dsimp only; split
  · exact step.post
  · exact step

theorem dropRec (h : keepsSound r s) {b : JBody} : keepsSound r (dropRec b s) :=
  h.onJournal (by rw [tally_staging])

theorem acceptGap_staging_length (s : State) :
    (Machine.acceptGap s).journal.staging.length = s.journal.staging.length + 1 := acceptRec_staging_length _ _

theorem acceptGap (h : keepsSound r s) (hs : s.journal.staging.length ≤ 63) : keepsSound r (acceptGap s) :=
  (h.onJournal (by exact le_rfl)).acceptRec hs

theorem offer (h : keepsSound r s) {b : JBody} : keepsSound r (offer b s) := by
  unfold Machine.offer; split
  · exact h.dropRec
  · split
    · split
      · split
        · exact (h.acceptGap (by omega)).dropRec
        · exact (h.acceptGap (by omega)).acceptRec (by rw [acceptGap_staging_length]; omega)
      · exact h.dropRec
    · split
      · exact h.acceptRec (by omega)
      · exact h.dropRec

theorem offerOverrun (h : keepsSound r s) {x : Nat × Nat} : keepsSound r (offerOverrun x s) := by
  unfold Machine.offerOverrun; split
  · exact h.dropRec
  · split
    · next hs => exact h.acceptRec hs
    · exact h.onJournal le_rfl

theorem enqueue (h : keepsSound r s) {k : EntryKey} : keepsSound r (enqueue k s) :=
  h.onStore ((keepsStoreSound.refl _).offerChange _ _)

theorem enqueueAll (h : keepsSound r s) {keys : List EntryKey} :
    keepsSound r (keys.foldl (fun x k => Machine.enqueue k x) s) := foldl (fun _ _ h => h.enqueue) _ h

theorem placeOrder (h : keepsSound r s) {i : LineId} {o : Order} : keepsSound r (placeOrder i o s) := by
  unfold Machine.placeOrder; split
  · next hp =>
    refine h.modLine fun _ => ?_
    have := (Line.places_iff.1 hp).2
    have : (s.line i).queue.length < 16 := by split at this <;> omega
    simpa [Config.orderPlaces] using this
  · exact h

theorem placeReply (h : keepsSound r s) {tag : List (Fin 10)} {lines : List RLine} :
    keepsSound r (placeReply tag lines s) := h.onLink _

/-! ## The transmitter and the space signals -/

theorem pumpTx (h : keepsSound r s) : keepsSound r (pumpTx s) := by
  unfold Machine.pumpTx; split
  · exact h
  · exact h.onLink _

theorem journalSpace (h : keepsSound r s) : keepsSound r (journalSpace s) := h.onSignals _
theorem tableSpace (h : keepsSound r s) : keepsSound r (tableSpace s) := h.onSignals _

/-! ## The journal writer -/

/-- A change of the journal unit that leaves the staging queue as it is. -/
theorem onJournalRest (h : keepsSound r s) {f : Journal → Journal}
    (hf : (f s.journal).staging = s.journal.staging := by exact rfl) : keepsSound r (s.onJournal f) :=
  h.onJournal (hf ▸ le_rfl)

theorem chooseSpare (h : keepsSound r s) : keepsSound r (chooseSpare s) := h.onJournalRest

theorem raiseMark (h : keepsSound r s) : keepsSound r (raiseMark s) := (h.onJournalRest).enqueue.post

theorem overrunPath (h : keepsSound r s) : keepsSound r (overrunPath s) := h.raiseMark.offerOverrun

theorem moveJournalHead (h : keepsSound r s) : keepsSound r (moveJournalHead s) := (h.onJournalRest).chooseSpare

theorem enterFull (h : keepsSound r s) : keepsSound r (enterFull s) := (h.onJournalRest).post

theorem headFullTest (h : keepsSound r s) : keepsSound r (headFullTest s) := by
  unfold Machine.headFullTest; split
  · exact h.moveJournalHead
  · split
    · exact h.onJournalRest
    · split
      · exact h.enterFull
      · exact h.overrunPath

theorem testHead (h : keepsSound r s) : keepsSound r (testHead s) := by
  unfold Machine.testHead; split
  · exact h.headFullTest
  · exact h

theorem declareFault (h : keepsSound r s) : keepsSound r (declareFault s) :=
  ((h.onJournalRest (dropHeld_staging { s.journal with writer := .fault })).onStoreRest).post

theorem journalRetired (h : keepsSound r s) {k : Nat} : keepsSound r (journalRetired k s) := by
  unfold Machine.journalRetired; split
  · exact h
  · split
    · exact h.declareFault
    · split
      · exact h.testHead
      · split
        · exact h.chooseSpare.testHead
        · exact h

theorem journalErased (h : keepsSound r s) {k : Nat} : keepsSound r (journalErased k s) := by
  unfold Machine.journalErased; split
  · exact h
  · split
    · exact (h.onJournalRest).enqueue.testHead
    · exact h.enqueue

theorem postLevel (h : keepsSound r s) {old new : Nat} : keepsSound r (postLevel old new s) := by
  unfold Machine.postLevel; split
  · exact h.post
  · split
    · exact h.post
    · exact h

theorem journalProgrammed (h : keepsSound r s) {sector : Nat} {x : JRec} : keepsSound r (journalProgrammed sector x s) :=
  ((((h.onStore ((keepsStoreSound.refl _).modJ _ _)).onJournal
    (by simp only [List.length_drop]; exact Nat.sub_le _ _)).journalSpace).postLevel).testHead

/-! ## The store unit -/

theorem stall (h : keepsSound r s) : keepsSound r (stall s) := by
  unfold Machine.stall; split
  · exact h
  · exact (h.onStoreRest).post

theorem countErased (h : keepsSound r s) : keepsSound r (countErased s) := by
  unfold Machine.countErased; split
  · exact h
  · split
    · exact h.onStoreRest
    · exact h.stall

theorem takeLast (h : keepsSound r s) {b : Bool} {k : Nat} : keepsSound r (takeLast b k s) := by
  have held : keepsSound r (if s.store.hasReclaim && !s.draining then holdWriter s else s) := by
    split
    · exact h.onStoreRest
    · exact h
  unfold Machine.takeLast; dsimp only
  generalize (if s.store.hasReclaim && !s.draining then holdWriter s else s) = u at held ⊢
  split
  · exact held
  · exact (held.onStoreRest).countErased

theorem moveLogHead (h : keepsSound r s) {b : Bool} : keepsSound r (moveLogHead b s) := by
  unfold Machine.moveLogHead; split
  · exact h
  · split
    · exact h.stall
    · exact h.takeLast
    · exact (h.onStoreRest).countErased

theorem testReadOnly (h : keepsSound r s) : keepsSound r (testReadOnly s) := by
  unfold Machine.testReadOnly; split
  · exact (h.onStoreRest).post
  · exact h

theorem reportRetired (h : keepsSound r s) {k : Nat} {c : RetireCause} : keepsSound r (reportRetired k c s) :=
  h.offer.post

theorem evacuate (h : keepsSound r s) {k : Nat} : keepsSound r (evacuate k s) := by
  unfold Machine.evacuate; split
  · exact h
  · exact h.onStoreRest

theorem modT (h : keepsSound r s) {k : Nat} {f : Sector LogRec → Sector LogRec} :
    keepsSound r (s.onStore fun t => t.modT k f) := h.onStore ((keepsStoreSound.refl _).modT _ _)

theorem modJ (h : keepsSound r s) {k : Nat} {f : Sector JRec → Sector JRec} :
    keepsSound r (s.onStore fun t => t.modJ k f) := h.onStore ((keepsStoreSound.refl _).modJ _ _)

theorem retireLog (h : keepsSound r s) {k : Nat} {c : RetireCause} : keepsSound r (retireLog k c s) :=
  h.modT.reportRetired.testReadOnly.evacuate.moveLogHead.countErased

theorem endEvacuations (h : keepsSound r s) : keepsSound r (endEvacuations s) := h.onStoreRest

theorem retireJournal (h : keepsSound r s) {k : Nat} {c : RetireCause} : keepsSound r (retireJournal k c s) :=
  h.modJ.reportRetired.journalRetired.endEvacuations

theorem spoilLog (h : keepsSound r s) {k : Nat} : keepsSound r (spoilLog k s) := by
  unfold Machine.spoilLog; dsimp only; split
  · exact h.modT.retireLog
  · exact h.modT.moveLogHead

theorem spoilJournal (h : keepsSound r s) {k : Nat} : keepsSound r (spoilJournal k s) := by
  unfold Machine.spoilJournal; dsimp only; split
  · exact h.modJ.retireJournal
  · exact h.modJ.testHead

theorem reportProgrammed (h : keepsSound r s) {v : EntryVal} : keepsSound r (reportProgrammed v s) := by
  unfold Machine.reportProgrammed; split
  · split
    · exact h.onEnc _
    · exact h
  · exact h.onJournalRest
  · exact h

theorem dropPlace (h : keepsSound r s) {key : EntryKey} : keepsSound r (dropPlace key s) := by
  unfold Machine.dropPlace; split
  · exact (h.onStore ⟨id, id, fun x => (List.length_filter_le _ _).trans x⟩).tableSpace
  · exact h

theorem appendRec (h : keepsSound r s) {k : Nat} {key : EntryKey} {v : EntryVal} :
    keepsSound r (s.onStore fun t => t.appendRec k key v) := h.onStore ((keepsStoreSound.refl _).appendRec _ _ _)

theorem logProgrammed (h : keepsSound r s) {k : Nat} {key : EntryKey} {v : EntryVal} :
    keepsSound r (logProgrammed k key v s) :=
  h.appendRec.reportProgrammed.dropPlace.moveLogHead.endEvacuations

theorem copyProgrammed (h : keepsSound r s) {k : Nat} {key : EntryKey} {v : EntryVal} :
    keepsSound r (copyProgrammed k key v s) := h.appendRec.moveLogHead.endEvacuations

theorem serve (h : keepsSound r s) {q : Requester} : keepsSound r (serve q s) := by
  unfold Machine.serve
  cases q with
  | tableWriter =>
    dsimp only; split
    · exact h
    · exact h.onStoreRest
    · exact h.onStore { (keepsStoreSound.refl s.store).takeOldest with }
  | journalWriter =>
    dsimp only; split
    · exact h
    · exact h.onStoreRest
  | reclaimer =>
    dsimp only; split
    · exact h
    · exact h.onStoreRest
    · exact h.moveLogHead.onStoreRest

theorem pumpEngine (h : keepsSound r s) : keepsSound r (pumpEngine s) := by
  unfold Machine.pumpEngine; split
  · exact h
  · split
    · exact h
    · unfold orderSuspension; split
      · exact h.onStoreRest
      · exact h
    · split
      · exact h.serve
      · unfold resume; split
        · exact h
        · exact h.onStoreRest

theorem finish (h : keepsSound r s) : keepsSound r (finish s) := h.pumpEngine.pumpTx

theorem freeEngine (h : keepsSound r s) : keepsSound r (freeEngine s) := h.onStoreRest

theorem endWork (h : keepsSound r s) {w : Work} : keepsSound r (endWork w s) := h.onStoreRest

theorem eraseSound (h : keepsSound r s) {w : Work} : keepsSound r (eraseSound w s) := by
  unfold Machine.eraseSound
  refine endEvacuations ?_
  split
  · exact h.modJ.endWork.journalErased
  · exact h.modT.endWork.countErased.moveLogHead

theorem eraseFailed (h : keepsSound r s) {w : Work} : keepsSound r (eraseFailed w s) := by
  unfold Machine.eraseFailed; dsimp only; split
  · exact (h.onFreeUses _).endWork.modJ.retireJournal
  · exact (h.onFreeUses _).endWork.modT.retireLog.endEvacuations

end keepsSound

end Sys2Proof.Machine

namespace Sys2Proof.Machine

-- Each proof cites those before it: elaborated in turn, they leave no thread waiting for another.
set_option Elab.async false

namespace keepsSound

variable {r s : State}

/-! ## The credential unit -/

theorem reportDisplaced (h : keepsSound r s) {number seq : Nat} {e : EndMinute} :
    keepsSound r (reportDisplaced number seq e s) := h.offer.post

theorem enterAt (h : keepsSound r s) {i : Nat} {e : RevEntry} : keepsSound r (enterAt i e s) :=
  h.onCred id fun x => FMap.wf_put x _ _

theorem applyVerdict (h : keepsSound r s) {v : ListVerdict} {e : RevEntry} : keepsSound r (applyVerdict v e s) := by
  cases v with
  | notEntered => exact h
  | enters i => exact h.enterAt
  | displaces i q old => exact h.enterAt.reportDisplaced
  | leftOut => exact h.reportDisplaced

/-- A credential record put in its slot. -/
theorem putSlot (h : keepsSound r s) {slot : Nat} {c : CredRec} :
    keepsSound r (s.onCred fun x => { x with slots := x.slots.put slot c }) :=
  h.onCred (fun x => FMap.wf_put x _ _) id

theorem revokeCred (h : keepsSound r s) {slot : Nat} {why : RevReason} : keepsSound r (revokeCred slot why s) := by
  unfold Machine.revokeCred; split
  · exact h
  · exact foldl (fun _ _ h => h.enqueue) _ h.putSlot.applyVerdict.enqueue

theorem revokeReported (h : keepsSound r s) {slot : Nat} {why : RevReason} :
    keepsSound r (revokeReported slot why s) := by
  unfold Machine.revokeReported; split
  · exact h
  · exact h.revokeCred.offer

theorem expiryPass (h : keepsSound r s) {m : Nat} : keepsSound r (expiryPass m s) :=
  h.onCred (fun x => by dsimp only; exact FMap.wf_mapVals x _) id

theorem retireEntries (h : keepsSound r s) {m : Nat} : keepsSound r (retireEntries m s) :=
  foldl (fun _ _ h => h.enqueue) _ (h.onCred id fun x => by dsimp only; exact FMap.wf_mapVals x _)

theorem minuteWork (h : keepsSound r s) {m : Nat} : keepsSound r (minuteWork m s) := h.expiryPass.retireEntries

theorem raiseCarried_list_wf {i : Nat} {c : CredUnit} (h : c.list.wf) : (raiseCarried i c).list.wf := by
  unfold raiseCarried; split
  · exact FMap.wf_put h _ _
  · exact h

theorem raiseCarried_slots {i : Nat} {c : CredUnit} : (raiseCarried i c).slots = c.slots := by
  unfold raiseCarried; split <;> rfl

theorem carry (h : keepsSound r s) {places : List Nat} : keepsSound r (carry places s) :=
  
  foldl (fun _ _ h => (h.onCred (fun x => by rw [raiseCarried_slots]; exact x) raiseCarried_list_wf).enqueue) _ h

theorem settle (h : keepsSound r s) {room amount issue : Nat} {why : SettleReason}
    (hs : s.journal.staging.length ≤ 63) : keepsSound r (settle room amount issue why s) := (h.acceptRec hs).modRoom

theorem setCredState (h : keepsSound r s) {slot : Nat} {st : CredState} : keepsSound r (setCredState slot st s) := by
  refine h.onCred (fun x => ?_) (fun x => ?_) <;> split
  · exact FMap.wf_put x _ _
  · exact x
  · exact x
  · exact x

theorem setCredStates_journal (l : List Nat) (st : CredState) (s : State) :
    (l.foldl (fun x k => Machine.setCredState k st x) s).journal = s.journal := by
  induction l generalizing s with
  | nil => rfl
  | cons k t ih => exact ih _

theorem newStaySuccess (h : keepsSound r s) {slot : Nat} {c : CredRec}
    (hs : s.tab c.room ≠ 0 → s.journal.staging.length ≤ 63) : keepsSound r (newStaySuccess slot c s) := by
  have superseded := foldl (f := fun x k => Machine.setCredState k .superseded x) (fun _ _ h => h.setCredState)
    (s.othersOf slot c.room) ((h.setCredState (slot := slot) (st := .active)).modRoom (i := c.room)
      (f := fun x => { x with entry := { x.entry with issue := c.issue } }))
  refine foldl (fun _ _ h => h.enqueue) _ (enqueue (enqueue ?_))
  split
  · exact superseded
  · next ht => exact superseded.settle (by rw [setCredStates_journal]; simpa using hs ht)

theorem plainSuccess (h : keepsSound r s) {slot : Nat} : keepsSound r (plainSuccess slot s) := h.setCredState.enqueue

theorem applySuccess (h : keepsSound r s) {j : Job} {c : CredRec}
    (hs : j.mode = .newStay → s.tab c.room ≠ 0 → s.journal.staging.length ≤ 63) :
    keepsSound r (applySuccess j c s) := by
  unfold Machine.applySuccess; split
  · next hm => exact h.newStaySuccess (hs hm)
  · exact h.plainSuccess

theorem applyReleased (h : keepsSound r s) {slot : Nat} : keepsSound r (applyReleased slot s) :=
  (h.onCred (fun x => FMap.wf_del x _) id).enqueue

theorem jobEnds (h : keepsSound r s) {j : Job} {o : JobOutcome} : keepsSound r (jobEnds j o s) := h.post.onEnc _

/-- An outcome that fits has the staging place its SETTLE record takes (R30). -/
theorem staging_of_outcomeFits {j : Job} {c : CredRec} (h : s.outcomeFits j .success c = true) :
    j.mode = .newStay → s.tab c.room ≠ 0 → s.journal.staging.length ≤ 63 := by
  intro hm ht
  simp [State.outcomeFits, State.needsStaging, hm, ht, Journal.takesMoney] at h
  exact h.2.2

theorem applyOutcome (h : keepsSound r s) {j : Job} {o : JobOutcome} {c : CredRec}
    (hf : s.outcomeFits j o c = true) : keepsSound r (applyOutcome j o c s) := by
  cases o with
  | released => exact h.applyReleased.offer.jobEnds
  | aborted => exact h.revokeCred.offer.jobEnds
  | success =>
    have applied := h.applySuccess (staging_of_outcomeFits hf)
    unfold Machine.applyOutcome; dsimp only; split
    · exact applied.offer.jobEnds
    · exact applied.revokeCred.offer.offer.jobEnds

theorem tryOutcome (h : keepsSound r s) : keepsSound r (tryOutcome s) := by
  unfold Machine.tryOutcome; split
  · exact h
  · split
    · split
      · next hf => exact h.applyOutcome hf
      · exact h
    · exact h

theorem reportOutcome (h : keepsSound r s) {o : JobOutcome} {c : Option JobCause} :
    keepsSound r (reportOutcome o c s) := (h.onEnc _).tryOutcome

/-! ## The encoder controller -/

theorem modJob (h : keepsSound r s) {f : Job → Job} : keepsSound r (modJob f s) := h.onEnc _

theorem buildImage (h : keepsSound r s) {c : CredRec} : keepsSound r (buildImage c s) := h.carry.modJob

theorem sendHead (h : keepsSound r s) {o : HeadOp} : keepsSound r (sendHead o s) := h.onEnc _

theorem sendWrite (h : keepsSound r s) {j : Job} : keepsSound r (sendWrite j s) := h.modJob.sendHead

theorem sendRead (h : keepsSound r s) {st : JobState} : keepsSound r (sendRead st s) := h.modJob.sendHead

theorem enterVoiding (h : keepsSound r s) {n : Nat} {c : JobCause} : keepsSound r (enterVoiding n c s) :=
  h.modJob.sendHead

theorem failOrVoid (h : keepsSound r s) {j : Job} {c : JobCause} : keepsSound r (failOrVoid j c s) := by
  unfold Machine.failOrVoid; split
  · exact h.enterVoiding
  · exact h.reportOutcome

theorem endRead (h : keepsSound r s) {x : ReadResult} : keepsSound r (endRead x s) := h.post.onEnc _

theorem waitEnds (h : keepsSound r s) {j : Job} : keepsSound r (waitEnds j s) := by
  unfold Machine.waitEnds; split
  · exact h.reportOutcome
  · exact h.endRead

theorem cardArrives (h : keepsSound r s) {j : Job} : keepsSound r (cardArrives j s) := by
  unfold Machine.cardArrives; split
  · exact h.sendWrite
  · exact h.sendRead

theorem enterWaiting (h : keepsSound r s) : keepsSound r (enterWaiting s) := by
  unfold Machine.enterWaiting; dsimp only; split
  · exact h.modJob
  · split
    · exact h.modJob.cardArrives
    · split
      · exact h.modJob.waitEnds
      · exact h.modJob

theorem cancelJob (h : keepsSound r s) : keepsSound r (cancelJob s).1 := by
  unfold Machine.cancelJob; split
  · exact h
  · split
    · exact h
    · split
      · exact h.reportOutcome
      · exact h.reportOutcome
      · exact h.modJob
      · exact h.modJob
      · exact h.endRead
      · exact h.modJob
      · exact h

theorem markHeld (h : keepsSound r s) {why : RevReason} : keepsSound r (markHeld why s) := h.modJob

theorem reachPending (h : keepsSound r s) {why : RevReason} : keepsSound r (reachPending why s) :=
  h.markHeld.cancelJob

theorem drainJob (h : keepsSound r s) : keepsSound r (drainJob s) := by
  unfold Machine.drainJob; split
  · exact h
  · split
    · exact h.post.onEnc _
    · split
      · exact h
      · split
        · exact h.reportOutcome
        · exact h.reportOutcome

theorem writeAnswered (h : keepsSound r s) {j : Job} {f : Option JobCause} : keepsSound r (writeAnswered j f s) := by
  have ended := h.onEnc Encoder.endOp
  unfold Machine.writeAnswered; dsimp only; split
  · split
    · exact ended.failOrVoid
    · split
      · exact ended.sendRead
      · exact ended.failOrVoid
  · split
    · exact ended.reportOutcome
    · exact ended.reportOutcome
  · exact ended

theorem verified (h : keepsSound r s) {j : Job} {b : List Byte} : keepsSound r (verified j b s) := by
  unfold Machine.verified; split
  · exact h.reportOutcome
  · split
    · exact h.enterVoiding
    · exact h.modJob.sendWrite

theorem readAnswered (h : keepsSound r s) {j : Job} {a : List Byte ⊕ JobCause} :
    keepsSound r (readAnswered j a s) := by
  have ended := h.onEnc Encoder.endOp
  unfold Machine.readAnswered; dsimp only; split
  · split
    · exact ended.failOrVoid
    · split
      · exact ended.verified
      · exact ended.failOrVoid
  · split
    · exact ended.endRead
    · split
      · exact ended.endRead
      · exact ended.endRead
      · exact ended.endRead
  · exact ended

theorem takeReport (h : keepsSound r s) : keepsSound r (takeReport s) := by
  unfold Machine.takeReport; split
  · dsimp only; split
    · split
      · exact (h.onEnc _).buildImage.enterWaiting
      · exact h.onEnc _
    · exact h.onEnc _
  · exact h.onEnc _
  · exact h

/-! ## The admission unit -/

theorem placeDecision (h : keepsSound r s) {i : LineId} {a t : Nat} {d : Decision} :
    keepsSound r (placeDecision i a t d s) := by
  unfold Machine.placeDecision; split
  · exact h.placeOrder
  · exact h

theorem setRelease (h : keepsSound r s) {i : LineId} {a : Nat} {v : LastRelease} : keepsSound r (setRelease i a v s) :=
  h.modNode fun _ x => x

theorem admitCard (h : keepsSound r s) {i : LineId} {a : Nat} {n : Node} {p : Presentation} :
    keepsSound r (admitCard i a n p s) := by
  unfold Machine.admitCard; dsimp only
  refine offer ?_
  split
  · exact h.placeDecision.setRelease
  · exact h.placeDecision

theorem modDoor (h : keepsSound r s) {i : LineId} {a : Nat} {f : DoorRec → DoorRec} : keepsSound r (modDoor i a f s) :=
  h.modNode fun _ x => x

theorem doorOpened (h : keepsSound r s) {i : LineId} {a : Nat} {n : Node} : keepsSound r (doorOpened i a n s) :=
  h.modDoor.offer
theorem doorClosed (h : keepsSound r s) {i : LineId} {a : Nat} : keepsSound r (doorClosed i a s) := h.modDoor
theorem doorForced (h : keepsSound r s) {i : LineId} {a : Nat} {n : Node} : keepsSound r (doorForced i a n s) :=
  h.modDoor.offer.post
theorem doorHeld (h : keepsSound r s) {i : LineId} {a : Nat} {n : Node} : keepsSound r (doorHeld i a n s) :=
  h.modDoor.offer.post

/-! ## The line master -/

theorem modNodesOn (h : keepsSound r s) {i : LineId} {f : Node → Node} (hf : ∀ n, (f n).bar = n.bar) :
    keepsSound r (modNodesOn i f s) := by
  refine h.onNodes fun x => nodesCanonical_mapVals x fun k n hn => ?_
  split
  · rw [hf]; exact hn
  · exact hn

theorem modLink (h : keepsSound r s) {i : LineId} {a : Nat} {f : NodeLink → NodeLink} :
    keepsSound r (modLink i a f s) := h.modNode fun _ x => x

theorem sendFrame (h : keepsSound r s) {i : LineId} {k : ExchKind} {g : Leg} {a : Nat} {b : Bool} {f : List Byte} :
    keepsSound r (sendFrame i k g a b f s) := h.modLineRest

theorem sendTagged (h : keepsSound r s) {i : LineId} {k : ExchKind} {g : Leg} {a : Nat} {b : Bool} {f : List Byte} :
    keepsSound r (sendTagged i k g a b f s) := h.sendFrame.modLineRest

theorem sendOldest (h : keepsSound r s) {i : LineId} : keepsSound r (sendOldest i s) := by
  unfold Machine.sendOldest; split
  · exact h
  · split
    · exact h.sendTagged
    · exact h.sendFrame

theorem sendOwedMode (h : keepsSound r s) {i : LineId} {a : Nat} : keepsSound r (sendOwedMode i a s) :=
  h.sendTagged.modLink
theorem sendOwedGroup (h : keepsSound r s) {i : LineId} {a g : Nat} : keepsSound r (sendOwedGroup i a g s) :=
  h.sendTagged.modLink
theorem sendPoll (h : keepsSound r s) {i : LineId} {v : Visit} : keepsSound r (sendPoll i v s) := h.sendFrame

theorem retry (h : keepsSound r s) {i : LineId} {x : Exchange} : keepsSound r (retry i x s) := by
  unfold Machine.retry; split
  · exact h.sendFrame
  · exact h.sendTagged

theorem modVisit (h : keepsSound r s) {i : LineId} {f : Visit → Visit} : keepsSound r (modVisit i f s) := h.modLineRest

theorem workVisit (h : keepsSound r s) {i : LineId} {v : Visit} : keepsSound r (workVisit i v s) := by
  unfold Machine.workVisit; split
  · exact h.sendOldest
  · split
    · exact h
    · split
      · exact h.modVisit.sendOwedMode
      · split
        · exact h.modVisit.sendOwedGroup
        · exact h.sendPoll

theorem locate (h : keepsSound r s) {i : LineId} : keepsSound r (locate i s) := by
  unfold Machine.locate; dsimp only; split
  · exact h.modLineRest
  · exact (h.modLineRest).offer.post

theorem completeCycle (h : keepsSound r s) {i : LineId} : keepsSound r (completeCycle i s) := (h.modLineRest).locate

theorem nextVisit (h : keepsSound r s) {i : LineId} {l : List Nat} : keepsSound r (nextVisit i l s) := by
  unfold Machine.nextVisit; split
  · exact h.completeCycle
  · exact (h.modLineRest).workVisit

theorem openCycle (h : keepsSound r s) {i : LineId} {l : List Nat} : keepsSound r (openCycle i l s) := by
  unfold Machine.openCycle; split
  · exact h.modLineRest
  · exact h.nextVisit

theorem beginCycle (h : keepsSound r s) {i : LineId} : keepsSound r (beginCycle i s) := (h.modLineRest).openCycle

theorem sendBetween (h : keepsSound r s) {i : LineId} : keepsSound r (sendBetween i s) := by
  unfold Machine.sendBetween; split
  · exact h.sendOldest
  · exact h

theorem betweenCycles (h : keepsSound r s) {i : LineId} : keepsSound r (betweenCycles i s) := by
  unfold Machine.betweenCycles; split
  · exact h.beginCycle.sendBetween
  · exact h.sendBetween

theorem workCycle (h : keepsSound r s) {i : LineId} {c : Cycle} : keepsSound r (workCycle i c s) := by
  unfold Machine.workCycle; split
  · split
    · exact h.nextVisit
    · exact h.workVisit
  · exact h.nextVisit

theorem sendDrain (h : keepsSound r s) {i : LineId} {g : Leg} : keepsSound r (sendDrain i g s) := h.sendFrame

theorem proceed (h : keepsSound r s) {i : LineId} : keepsSound r (proceed i s) := by
  unfold Machine.proceed; split
  · exact h
  · split
    · exact h.sendDrain
    · split
      · exact h.betweenCycles
      · exact h.workCycle.betweenCycles

theorem journalLost (h : keepsSound r s) {i : LineId} {c : LostCause} {l : List Order} :
    keepsSound r (journalLost i c l s) := foldl (fun _ _ h => h.offer) _ h

theorem placeStandalone (h : keepsSound r s) {i : LineId} : keepsSound r (placeStandalone i s) := by
  unfold Machine.placeStandalone; split
  · exact h.placeOrder
  · exact h

theorem lineStarts_bar (n : Node) : n.lineStarts.bar = n.bar := rfl
theorem lineStops_bar (n : Node) : n.lineStops.bar = n.bar := rfl

theorem startLine (h : keepsSound r s) {i : LineId} : keepsSound r (startLine i s) := by
  have started : keepsSound r (s.modLine i Line.starts) := h.modLineRest fun _ => Nat.zero_le _
  exact (started.modNodesOn lineStarts_bar).placeStandalone.proceed

theorem stopLine (h : keepsSound r s) {i : LineId} : keepsSound r (stopLine i s) := by
  have emptied : keepsSound r (s.modLine i fun l => { l with exch := none, cycle := none, queue := [] }) :=
    h.modLineRest fun _ => Nat.zero_le _
  exact (emptied.journalLost.modNodesOn lineStops_bar).modLineRest (f := fun l => { l with running := false })

theorem resetLine (h : keepsSound r s) {i : LineId} : keepsSound r (resetLine i s) := by
  have emptied : keepsSound r (s.modLine i fun l =>
      { l with exch := none, cycle := none, queue := [], restart := true, periodEnd := none }) :=
    h.modLineRest fun _ => Nat.zero_le _
  exact (emptied.journalLost.modNodesOn lineStarts_bar).placeStandalone.proceed

theorem endLineDrain (h : keepsSound r s) {i : LineId} : keepsSound r (endLineDrain i s) :=
  ((h.modLineRest fun _ => Nat.zero_le _).journalLost).modLineRest

theorem drainLine (h : keepsSound r s) {i : LineId} : keepsSound r (drainLine i s) := by
  unfold Machine.drainLine; split
  · exact (h.modLineRest).proceed
  · exact h

/-! ## The minibar unit -/

/-- A change of a minibar record that keeps its pending lines in canonical form. -/
theorem modBar (h : keepsSound r s) {i : LineId} {a : Nat} {f : BarRec → BarRec}
    (hf : ∀ b, b.lines.wf → (f b).lines.wf := by exact fun _ x => x) : keepsSound r (modBar i a f s) :=
  h.modNode fun n x => hf n.bar x

theorem comeToRest (h : keepsSound r s) {i : LineId} {a : Nat} : keepsSound r (comeToRest i a s) := by
  unfold Machine.comeToRest; split
  · exact h
  · exact h.modBar

theorem chargeTab (h : keepsSound r s) {name : NodeName} {room slot : Nat} {l : PendingLine}
    (hs : s.journal.staging.length ≤ 63) : keepsSound r (chargeTab name room slot l s) :=
  (h.acceptRec hs).modRoom.enqueue

theorem chargePrior (h : keepsSound r s) {name : NodeName} {room slot : Nat} {l : PendingLine}
    (hs : s.journal.staging.length ≤ 63) : keepsSound r (chargePrior name room slot l s) := h.acceptRec hs

theorem leaveSlot (h : keepsSound r s) {i : LineId} {a slot : Nat} : keepsSound r (leaveSlot i a slot s) :=
  (h.modNode fun _ x => FMap.wf_del x _).enqueue

theorem finaliseLine (h : keepsSound r s) {i : LineId} {a room slot : Nat} {l : PendingLine} {t : State}
    (ht : finaliseLine i a room slot l s = some t) : keepsSound r t := by
  unfold Machine.finaliseLine at ht; split at ht
  · next hf =>
    have hs : s.journal.staging.length ≤ 63 := by
      simp [State.chargeFits, Journal.takesMoney] at hf; exact hf.1.2
    cases ht
    refine leaveSlot ?_
    split
    · exact h.chargeTab hs
    · exact h.chargePrior hs
  · cases ht

theorem finaliseLines (h : keepsSound r s) (l : FMap PendingLine) {i : LineId} {a room : Nat} :
    keepsSound r (finaliseLines i a room l s).1 := by
  induction l generalizing s with
  | nil => exact h
  | cons x t ih =>
    unfold Machine.finaliseLines; split
    · next hf => exact ih (h.finaliseLine hf)
    · exact h

theorem finaliseBar (h : keepsSound r s) {i : LineId} {a : Nat} : keepsSound r (finaliseBar i a s).1 := by
  unfold Machine.finaliseBar; split
  · exact h
  · exact h.finaliseLines _

theorem enterChargeWait (h : keepsSound r s) {i : LineId} {a room : Nat} : keepsSound r (enterChargeWait i a room s) :=
  (h.modBar).post

theorem graceEnds (h : keepsSound r s) {i : LineId} {a room : Nat} : keepsSound r (graceEnds i a room s) := by
  unfold Machine.graceEnds; dsimp only; split
  · exact (h.modBar).finaliseBar.comeToRest
  · exact (h.modBar).finaliseBar.enterChargeWait

theorem enterSettling (h : keepsSound r s) {i : LineId} {a room : Nat} : keepsSound r (enterSettling i a room s) := by
  unfold Machine.enterSettling; dsimp only; split
  · exact (h.modBar).graceEnds
  · exact h.modBar

theorem retryWaiting (h : keepsSound r s) (l : List (LineId × Nat × Node)) : keepsSound r (retryWaiting l s) := by
  induction l generalizing s with
  | nil => exact h
  | cons x t ih =>
    unfold Machine.retryWaiting; dsimp only; split
    · exact ih h.finaliseBar.comeToRest
    · exact h.finaliseBar

theorem finaliseAll (h : keepsSound r s) : keepsSound r (finaliseAll s) := foldl (fun _ _ h => h.finaliseBar) _ h

theorem drainMinibars (h : keepsSound r s) : keepsSound r (drainMinibars s) := by
  refine finaliseAll (h.onNodes fun x => nodesCanonical_mapVals x fun k n hn => ?_)
  split <;> exact hn

theorem endUnused (h : keepsSound r s) {i : LineId} {a : Nat} {n : Node} : keepsSound r (endUnused i a n s) := by
  unfold Machine.endUnused; dsimp only
  refine proceed (placeOrder ?_)
  split
  · exact (h.modBar).enterSettling
  · exact (h.modBar).comeToRest

theorem refuseBar (h : keepsSound r s) {i : LineId} {a : Nat} {n : Node} {p : Presentation} {d : Decision} :
    keepsSound r (refuseBar i a n p d s) := h.placeDecision.offer

theorem guestOpens_lines (b : BarRec) : (guestOpens b).lines = b.lines := by unfold guestOpens; split <;> rfl
theorem restockOpens_lines (b : BarRec) : (restockOpens b).lines = b.lines := by unfold restockOpens; split <;> rfl

theorem grantBar (h : keepsSound r s) {i : LineId} {a : Nat} {n : Node} {p : Presentation} {f : BarRec → BarRec}
    {k : JVal} {sum : Nat} (hf : ∀ b, (f b).lines = b.lines) : keepsSound r (grantBar i a n p f k sum s) :=
  (h.placeDecision.modBar fun b x => by rw [hf]; exact x).offer

theorem guestPresents (h : keepsSound r s) {i : LineId} {a : Nat} {n : Node} {p : Presentation} {c : CredRec} :
    keepsSound r (guestPresents i a n p c s) := by
  unfold Machine.guestPresents; dsimp only; split
  · exact h.grantBar guestOpens_lines
  · exact h.post.refuseBar
  · exact h.refuseBar

theorem restockPresents (h : keepsSound r s) {i : LineId} {a : Nat} {n : Node} {p : Presentation} {c : CredRec} :
    keepsSound r (restockPresents i a n p c s) := by
  unfold Machine.restockPresents; split
  · exact h.refuseBar
  · split
    · dsimp only; split
      · exact (h.modBar).finaliseBar.grantBar restockOpens_lines
      · exact (h.modBar).finaliseBar.enterChargeWait.refuseBar
    · exact h.grantBar restockOpens_lines

theorem minibarPresents (h : keepsSound r s) {i : LineId} {a : Nat} {n : Node} {p : Presentation} :
    keepsSound r (minibarPresents i a n p s) := by
  unfold Machine.minibarPresents; split
  · exact h.refuseBar
  · split
    · exact h.guestPresents
    · exact h.restockPresents
    · exact h.restockPresents
    · exact h.refuseBar

theorem endGuest (h : keepsSound r s) {i : LineId} {a : Nat} {n : Node} : keepsSound r (endGuest i a n s) := by
  unfold Machine.endGuest; dsimp only; split
  · exact (h.modBar).comeToRest
  · exact (h.modBar).enterSettling

theorem endRestock (h : keepsSound r s) {i : LineId} {a : Nat} {n : Node} : keepsSound r (endRestock i a n s) := by
  have closed := ((h.modNode (line := i) (addr := a) (f := fun n =>
    { n with entry := { n.entry with baseline := n.restocked },
             bar := { n.bar with missing := 0, latchEnd := none, opener := none, opened := false } })
    fun _ x => x).comeToRest (i := i) (a := a)).offer (b := restockBody (i, a) n)
  unfold Machine.endRestock; dsimp only; split
  · exact closed
  · exact closed.enqueue

theorem minibarDoor (h : keepsSound r s) {i : LineId} {a : Nat} {n : Node} {o : Bool} :
    keepsSound r (minibarDoor i a n o s) := by
  unfold Machine.minibarDoor; split
  · exact h.modBar
  · exact h.modBar
  · split
    · exact h.endGuest
    · exact h
  · split
    · exact h.endRestock
    · exact h
  · exact h.offer.post
  · exact h

theorem firstSlots (h : keepsSound r s) {i : LineId} {a : Nat} {n : Node} {m : SlotSet} :
    keepsSound r (firstSlots i a n m s) := h.modBar

theorem guestSlot (h : keepsSound r s) {i : LineId} {a : Nat} {n : Node} {m : SlotSet} {k : Nat} :
    keepsSound r (guestSlot i a n m k s) := by
  unfold Machine.guestSlot; split
  · exact h
  · split
    · split
      · exact h.modBar fun _ x => FMap.wf_put x _ _
      · exact h
    · split
      · exact h.modBar fun _ x => FMap.wf_del x _
      · exact h.offer

theorem takeSlots (h : keepsSound r s) {i : LineId} {a : Nat} {m : SlotSet} : keepsSound r (takeSlots i a m s) :=
  h.modBar

theorem settleIfEmpty (h : keepsSound r s) {i : LineId} {a : Nat} : keepsSound r (settleIfEmpty i a s) := by
  unfold Machine.settleIfEmpty; split
  · exact h
  · split
    · exact (h.modBar).comeToRest
    · exact h

theorem tamperSlots (h : keepsSound r s) {i : LineId} {a : Nat} {n : Node} {x y : SlotSet} :
    keepsSound r (tamperSlots i a n x y s) := (h.modBar).offer.post

theorem slotEvent (h : keepsSound r s) {i : LineId} {a : Nat} {n : Node} {p m : SlotSet} :
    keepsSound r (slotEvent i a n p m s) := by
  have guest : keepsSound r (Machine.settleIfEmpty i a (Machine.takeSlots i a m
      ((allSlots.filter fun k => p.has k != m.has k).foldl (fun x k => Machine.guestSlot i a n m k x) s))) :=
    (foldl (f := fun x k => Machine.guestSlot i a n m k x) (fun _ _ h => h.guestSlot) _ h).takeSlots.settleIfEmpty
  unfold Machine.slotEvent; split
  · exact guest
  · exact guest
  · exact h.takeSlots
  · exact h.takeSlots.tamperSlots
  · exact h.takeSlots.tamperSlots
  · exact h.takeSlots.tamperSlots

theorem slotsReported (h : keepsSound r s) {i : LineId} {a : Nat} {n : Node} {m : SlotSet} :
    keepsSound r (slotsReported i a n m s) := by
  unfold Machine.slotsReported; split
  · exact h.firstSlots
  · exact h.slotEvent

/-! ## What arrives at a line master -/

theorem endExch (h : keepsSound r s) {i : LineId} : keepsSound r (endExch i s) := h.modLineRest

theorem dropOldest (h : keepsSound r s) {i : LineId} : keepsSound r (dropOldest i s) :=
  h.modLineRest fun _ => by simp

theorem restored (h : keepsSound r s) {i : LineId} {a : Nat} {g : Leg} {n : Node} :
    keepsSound r (restored i a g n s) := by
  unfold Machine.restored; split
  · exact h.offer.post
  · exact h

theorem recordStatus (h : keepsSound r s) {i : LineId} {a : Nat} {n : Node} {st : NodeStatus} :
    keepsSound r (recordStatus i a n st s) := by
  have shown := h.modLink (i := i) (a := a) (f := fun l => { l with status := some st })
  have privacy : keepsSound r (if n.entry.kind = .roomDoor then
      (Machine.modLink i a (fun l => { l with status := some st }) s).modRoom n.entry.boundRoom
        (fun r => { r with privacy := st.privacy })
      else Machine.modLink i a (fun l => { l with status := some st }) s) := by
    split
    · exact shown.modRoom
    · exact shown
  unfold Machine.recordStatus; dsimp only
  split <;> split
  · exact privacy.post.post
  · exact privacy.post
  · exact privacy.post
  · exact privacy

theorem answered (h : keepsSound r s) {i : LineId} {a : Nat} {g : Leg} {n : Node} {st : NodeStatus} :
    keepsSound r (answered i a g n st s) := h.modLink.restored.recordStatus

theorem doorEvent (h : keepsSound r s) {i : LineId} {a : Nat} {n : Node} {e : NodeEvent} :
    keepsSound r (doorEvent i a n e s) := by
  unfold Machine.doorEvent; split
  · split
    · exact h.admitCard
    · exact h
  · exact h.doorOpened
  · exact h.doorClosed
  · exact h.doorForced
  · exact h.doorHeld
  · exact h

theorem barEvent (h : keepsSound r s) {i : LineId} {a : Nat} {n : Node} {e : NodeEvent} :
    keepsSound r (barEvent i a n e s) := by
  unfold Machine.barEvent; split
  · split
    · exact h.minibarPresents
    · exact h
  · exact h.minibarDoor
  · exact h.slotsReported
  · exact h

theorem handOn (h : keepsSound r s) {i : LineId} {a : Nat} {e : NodeEvent} : keepsSound r (handOn i a e s) := by
  unfold Machine.handOn; split
  · exact h
  · split
    · exact h
    · split
      · exact h.doorEvent
      · exact h.doorEvent
      · exact h.barEvent

theorem clearOwed (h : keepsSound r s) {i : LineId} {x : Exchange} : keepsSound r (clearOwed i x s) := by
  unfold Machine.clearOwed; split
  · exact h.modLink
  · exact h.modLink
  · exact h

theorem concluded (h : keepsSound r s) {i : LineId} {x : Exchange} {f : ReplyFrame} :
    keepsSound r (concluded i x f s) := by
  unfold Machine.concluded; split
  · exact h.handOn.modVisit
  · exact h.dropOldest
  · exact h.clearOwed

theorem replyTaken (h : keepsSound r s) {i : LineId} {x : Exchange} {f : ReplyFrame} :
    keepsSound r (replyTaken i x f s) := by
  unfold Machine.replyTaken; dsimp only; split
  · exact h.endExch
  · exact h.endExch
  · exact h.endExch.answered.modVisit.concluded

theorem garbled (h : keepsSound r s) {i : LineId} {a : Nat} : keepsSound r (garbled i a s) := h.modLink

theorem spoilExch (h : keepsSound r s) {i : LineId} : keepsSound r (spoilExch i s) := h.modLineRest

theorem received (h : keepsSound r s) {i : LineId} {x : Exchange} {f : List Byte} :
    keepsSound r (received i x f s) := by
  unfold Machine.received; split
  · split
    · exact h
    · exact h.replyTaken.proceed
  · exact h.garbled.spoilExch

theorem missed (h : keepsSound r s) {i : LineId} {a : Nat} : keepsSound r (missed i a s) := by
  unfold Machine.missed; split
  · exact h
  · dsimp only; split
    · exact h.modLink.offer.post
    · exact h.modLink

theorem failedBoth (h : keepsSound r s) {i : LineId} {x : Exchange} : keepsSound r (failedBoth i x s) := by
  unfold Machine.failedBoth; dsimp only; split
  · exact h.missed.modVisit
  · exact h.modVisit
  · exact h.dropOldest.journalLost
  · exact h

theorem expired (h : keepsSound r s) {i : LineId} {x : Exchange} : keepsSound r (expired i x s) := by
  unfold Machine.expired; split
  · exact h.endExch.proceed
  · split
    · exact h.endExch.failedBoth.proceed
    · split
      · exact h.endExch.proceed
      · exact h.retry

theorem broadcastEnds (h : keepsSound r s) {i : LineId} {x : Exchange} : keepsSound r (broadcastEnds i x s) := by
  unfold Machine.broadcastEnds; split
  · exact h.sendDrain
  · exact h.endLineDrain
  · split
    · exact h.endExch.proceed
    · exact h.sendFrame
  · exact h.endExch.dropOldest.proceed
  · exact h

end keepsSound

end Sys2Proof.Machine

namespace Sys2Proof.Machine

-- Each proof cites those before it: elaborated in turn, they leave no thread waiting for another.
set_option Elab.async false

theorem clockInRange_tick {s : State} (h : s.clockInRange) : (s.onClock HotelClock.tick).clockInRange := by
  obtain ⟨hm, hs⟩ := h
  simp only [State.clockInRange, State.onClock_clock, HotelClock.tick]
  split
  · exact ⟨le_rfl, le_rfl⟩
  · split
    · dsimp only; omega
    · dsimp only; split <;> omega

theorem clockInRange_taken {s : State} (h : s.clockInRange) : (s.onClock HotelClock.taken).clockInRange := by
  simp only [State.clockInRange, State.onClock_clock, HotelClock.taken]
  split
  · exact ⟨Nat.zero_le _, Nat.zero_le _⟩
  · exact h

namespace keepsSound

variable {r s : State}

/-! ## Cold starts and the storm drain -/

/-- Nothing volatile is left, so nothing volatile is unsound. -/
theorem volatileStart (h : keepsSound r s) {p : PowerState} {rate : LinkRate} :
    keepsSound r (s.volatileStart p rate) where
  pending := h.pending
  clock := h.clock
  rooms _ := .nil
  nodes _ := ⟨.nil, fun _ x => nomatch x⟩
  groups _ := ⟨.nil, fun _ x => nomatch x⟩
  prices _ := ⟨.nil, fun _ x => nomatch x⟩
  slots _ := .nil
  list _ := .nil
  orders _ i := by cases i <;> exact Nat.zero_le _
  staging _ := Nat.zero_le _
  store := ⟨h.store.tlog, h.store.jreg, fun _ => Nat.zero_le _⟩

theorem goDark (h : keepsSound r s) : keepsSound r (goDark s) :=
  (h.onStore ((keepsStoreSound.refl _).cutOff)).volatileStart

theorem applyRec (h : keepsSound r s) {x : LogRec} : keepsSound r (applyRec s x) := by
  unfold Machine.applyRec; split
  · exact h.onCred (fun x => FMap.wf_set x _ _) id
  · exact h.onRooms fun x => FMap.wf_set x _ _
  · refine h.onNodes fun x => ⟨FMap.wf_set x.1 _ _, fun e he => ?_⟩
    rcases FMap.mem_set he with ⟨-, hv⟩ | he
    · obtain ⟨n, -, hn⟩ := Option.map_eq_some_iff.1 hv
      rw [← hn]; exact .nil
    · exact x.2 e he
  · exact h.onGroups _ _
  · exact h.onPrices _ _
  · exact h.onCred id fun x => FMap.wf_set x _ _
  · exact h.onCred id id
  · exact h.onSettings _
  · exact h.onJournalRest
  · exact h

theorem scanTables (h : keepsSound r s) : keepsSound r (scanTables s) := by
  have classed : keepsSound r (s.onStore fun t => { t with tlog := classRegion t.tlog, jreg := classRegion t.jreg }) :=
    h.onStore ⟨listsOnly_classRegion, listsOnly_classRegion, id⟩
  exact (foldl (fun _ _ h => h.applyRec) _ classed).onStoreRest.moveLogHead.testReadOnly

theorem placeJournal (h : keepsSound r s) : keepsSound r (placeJournal s) := by
  unfold Machine.placeJournal; exact h.onJournalRest

theorem postStartLevel (h : keepsSound r s) : keepsSound r (postStartLevel s) := by
  unfold Machine.postStartLevel; dsimp only; split
  · exact h.post
  · split
    · exact h.post
    · split
      · exact h.post
      · exact h

theorem startWriter (h : keepsSound r s) : keepsSound r (startWriter s).1 := by
  unfold Machine.startWriter; split
  · exact h.declareFault
  · split
    · exact h
    · split
      · exact h.moveJournalHead
      · split
        · exact h.onJournalRest (f := fun j => { j with writer := .waitingSpare })
        · split
          · exact h.onJournalRest (f := fun j => { j with writer := .full })
          · exact h.raiseMark

theorem raiseIssue (h : keepsSound r s) {found : FMap CredRec} {room : Nat} : keepsSound r (raiseIssue found s room) := by
  unfold Machine.raiseIssue; dsimp only; split
  · exact h.modRoom.enqueue
  · exact h

theorem supersedeOld (h : keepsSound r s) {room : Nat} : keepsSound r (supersedeOld s room) :=
  foldl (fun _ _ h => h.setCredState.enqueue) _ h

theorem credentialStart (h : keepsSound r s) : keepsSound r (credentialStart s) := by
  have revoked := foldl (f := fun x (e : Nat × CredRec) => Machine.revokeReported e.1 .issueAborted x)
    (fun _ _ h => h.revokeReported) (s.cred.slots.filter fun e => decide (e.2.state = .pending))
    (h.onCred (f := fun c => { c with revCount := c.highestSeq }) id id)
  unfold Machine.credentialStart; dsimp only
  refine onCred (foldl (fun _ _ h => h.raiseIssue.supersedeOld) _ ?_) id id
  split
  · exact revoked.minuteWork
  · exact revoked

theorem endColdStart (h : keepsSound r s) : keepsSound r (endColdStart s) := by
  unfold Machine.endColdStart; split
  · exact foldl (fun _ _ h => h.startLine) _ h
  · exact h

theorem startUp (h : keepsSound r s) {rate : LinkRate} : keepsSound r (startUp rate s) := by
  have found := (((h.volatileStart (p := .run) (rate := rate)).onClock HotelClock.taken clockInRange_taken).onStoreRest
    (f := fun t => { t with identity := foundIdentity t.idPlaces })).scanTables.placeJournal
  unfold Machine.startUp; dsimp only
  refine endColdStart (credentialStart ?_)
  split
  · exact found.startWriter.postStartLevel.offer.offerOverrun
  · exact found.startWriter.postStartLevel.offer

theorem endProgram (h : keepsSound r s) : keepsSound r (endProgram s) := by
  unfold Machine.endProgram; split
  · next p _ =>
    have landed := (keepsStoreSound.refl s.store).landProgram p (Config.coldStartSound s.freeUses)
    exact (h.onStore (f := fun t => { Machine.landProgram p (Config.coldStartSound s.freeUses) t with engine := .idle })
      ⟨landed.tlog, landed.jreg, landed.changes⟩).onFreeUses _
  · exact h

theorem parkStart (h : keepsSound r s) {rate : LinkRate} : keepsSound r (parkStart rate s) :=
  (h.volatileStart).onStoreRest

theorem coldStart (h : keepsSound r s) {rate : LinkRate} : keepsSound r (coldStart rate s) := by
  have cut := h.onStore ((keepsStoreSound.refl _).cutErases)
  unfold Machine.coldStart; dsimp only; split
  · exact cut.parkStart
  · exact cut.endProgram.startUp

theorem beginDrain (h : keepsSound r s) {c : DrainCause} : keepsSound r (beginDrain c s) := by
  have stopped := (((h.onPower fun p => { p with state := .draining, drain := some ⟨c, false, none, false⟩ }).post
    (c := .power) (d := .draining c)).onStore ((keepsStoreSound.refl _).stopReclaimer)).onLink
    fun l => { l with deferred := none }
  exact foldl (fun _ _ h => h.drainLine) _ (stopped.moveLogHead (b := false)).drainMinibars.drainJob

theorem endDrain (h : keepsSound r s) {d : DrainInfo} : keepsSound r (endDrain d s) := by
  unfold Machine.endDrain; dsimp only; split
  · exact (h.post.onPower _).onEnc _
  · exact h.post.onPower _

theorem testDrainEnd (h : keepsSound r s) : keepsSound r (testDrainEnd s) := by
  unfold Machine.testDrainEnd; split
  · exact h
  · split
    · exact h.endDrain
    · exact h

theorem offerPowerDown (h : keepsSound r s) {d : DrainInfo} : keepsSound r (offerPowerDown d s) := by
  have offered := h.offer (b := powerDownBody d.cause s.drainComplete)
  exact (offered.onPower fun p => { p with
    drain := some { d with
      offered := true, seq := (Machine.offer (powerDownBody d.cause s.drainComplete) s).journal.powerDownSeq } }).testDrainEnd

/-! ## The store engine's reports -/

theorem journalCompletes (h : keepsSound r s) {k : Nat} {x : JRec} {sound : Bool} :
    keepsSound r (journalCompletes k x sound s) := by
  unfold Machine.journalCompletes; split
  · exact h.journalProgrammed.testDrainEnd
  · exact h.spoilJournal.testDrainEnd

theorem tableCompletes (h : keepsSound r s) {k : Nat} {key : EntryKey} {v : EntryVal} {sound : Bool} :
    keepsSound r (tableCompletes k key v sound s) := by
  unfold Machine.tableCompletes; split
  · exact h.logProgrammed
  · exact h.spoilLog

theorem copyCompletes (h : keepsSound r s) {k : Nat} {key : EntryKey} {v : EntryVal} {sound : Bool} :
    keepsSound r (copyCompletes k key v sound s) := by
  unfold Machine.copyCompletes; split
  · exact h.copyProgrammed
  · exact h.spoilLog

theorem answerDeferred (h : keepsSound r s) {l : List RLine} : keepsSound r (answerDeferred l s) := by
  unfold Machine.answerDeferred; split
  · exact h
  · dsimp only; split
    · exact (h.onLink _).placeReply
    · exact (h.onLink _).onLink _

theorem startIfStopped (h : keepsSound r s) {i : LineId} : keepsSound r (startIfStopped s i) := by
  unfold Machine.startIfStopped; split
  · exact h
  · exact h.startLine

theorem commissioned (h : keepsSound r s) {i : Identity} : keepsSound r (commissioned i s) :=
  (foldl (fun _ _ h => h.startIfStopped) _ h.onStoreRest).answerDeferred

theorem identityFailed (h : keepsSound r s) {n : Nat} {i : Identity} : keepsSound r (identityFailed n i s) := by
  have spoiled : keepsSound r (s.onStore fun t => t.spoilId n) := h.onStoreRest
  unfold Machine.identityFailed; dsimp only; split
  · exact spoiled.onStoreRest
  · exact spoiled.answerDeferred

theorem landed (h : keepsSound r s) {p : Program} {sound : Bool} : keepsSound r (s.onStore (landProgram p sound)) :=
  h.onStore ((keepsStoreSound.refl _).landProgram _ _)

theorem identityCompletes (h : keepsSound r s) {n : Nat} {i : Identity} {sound : Bool} :
    keepsSound r (identityCompletes n i sound s) := by
  unfold Machine.identityCompletes; split
  · exact h.landed
  · split
    · exact h.onStoreRest.commissioned
    · exact h.identityFailed

theorem programCompletes (h : keepsSound r s) {p : Program} {sound : Bool} :
    keepsSound r (programCompletes p sound s) := by
  unfold Machine.programCompletes; dsimp only; split
  · exact h.freeEngine.landed
  · cases p with
    | journal k x => exact h.freeEngine.journalCompletes
    | table k key v => exact h.freeEngine.tableCompletes
    | copy k key v => exact h.freeEngine.copyCompletes
    | identity n i => exact h.freeEngine.identityCompletes

theorem eraseCompletes (h : keepsSound r s) {e : EraseRun} {sound : Bool} : keepsSound r (eraseCompletes e sound s) := by
  unfold Machine.eraseCompletes; split
  · exact h.freeEngine.eraseSound
  · exact h.freeEngine.eraseFailed

theorem acceptHeld (h : keepsSound r s) : keepsSound r (acceptHeld s) := by
  unfold Machine.acceptHeld; split
  · exact h
  · split
    · next ht =>
      simp [Journal.takesMoney] at ht
      exact h.onJournalRest.acceptRec ht.2
    · exact h

theorem placeWaiting (h : keepsSound r s) {k : EntryKey} : keepsSound r (placeWaiting s k) := by
  unfold Machine.placeWaiting; split
  · exact h.enqueue
  · exact h

/-! ## The clock and the site tables -/

theorem oweModes (h : keepsSound r s) : keepsSound r (oweModes s) := by
  refine h.onNodes fun x => nodesCanonical_mapVals x fun k n hn => ?_
  split <;> exact hn

theorem setClock (h : keepsSound r s) {minute second : Nat} (hm : minute ≤ maxMinute) (hs : second ≤ 59) :
    keepsSound r (setClock minute second s) := by
  have set := ((h.onClock (fun c => { c with minute := minute, second := second, valid := .valid })
    fun _ => ⟨hm, hs⟩).offer (b := clockStepBody s.clock.minute minute)).post (c := .clock)
      (d := .clock s.clock.minute minute)
  unfold Machine.setClock; dsimp only; split
  · exact set.minuteWork.oweModes
  · exact set.minuteWork

theorem putRoom (h : keepsSound r s) {i : Nat} {e : RoomEntry} : keepsSound r (putRoom i e s) :=
  h.onRooms fun x => FMap.wf_put x _ _

theorem dropPrivacy (h : keepsSound r s) {e : NodeEntry} : keepsSound r (dropPrivacy e s) := by
  unfold Machine.dropPrivacy; split
  · exact h.modRoom
  · exact h

theorem newBar_lines (s : State) (e : NodeEntry) : (s.newBar e).lines = [] := by
  unfold State.newBar; split <;> rfl

theorem changedNode_lines_wf {n : Node} (h : n.bar.lines.wf) (e : NodeEntry) : (s.changedNode n e).bar.lines.wf := by
  unfold State.changedNode; dsimp only; split
  · rw [newBar_lines]; exact .nil
  · split <;> exact h

theorem putNode (h : keepsSound r s) {i : LineId} {a : Nat} {e : NodeEntry} : keepsSound r (putNode i a e s) := by
  unfold Machine.putNode; dsimp only; split
  · exact h.onNodes fun x => nodesCanonical_put x (by rw [State.createdNode, newBar_lines]; exact .nil) _
  · next n hn =>
    have sound : nodesCanonical s.nodes → (s.changedNode n e).bar.lines.wf :=
      fun x => changedNode_lines_wf (lines_wf_of_get x hn) e
    split
    · exact h.onNodes fun x => nodesCanonical_put x (sound x) _
    · have kept : (Machine.dropPrivacy n.entry s).nodes = s.nodes := by simp
      refine h.dropPrivacy.onNodes fun x => nodesCanonical_put x ?_ _
      exact sound (kept ▸ x)

theorem applyNodeSet (h : keepsSound r s) {i : LineId} {a : Nat} {e : NodeEntry} :
    keepsSound r (applyNodeSet i a e s) := by
  unfold Machine.applyNodeSet; dsimp only; split
  · exact h.putNode.modLineRest
  · exact h.putNode

theorem removeNode (h : keepsSound r s) {i : LineId} {a : Nat} {n : Node} : keepsSound r (removeNode i a n s) :=
  (((h.onNodes fun x => nodesCanonical_del x _).modLineRest
    fun _ => List.length_filter_le _ _).dropPrivacy).journalLost

theorem oweGroup (h : keepsSound r s) {i : LineId} {g : Nat} : keepsSound r (oweGroup i g s) :=
  h.modNodesOn fun n => by split <;> rfl

theorem sendGroup {x : State × GroupSent} (h : keepsSound r x.1) {g : Nat} {o : Order} {i : LineId} :
    keepsSound r (sendGroup g o x i).1 := by
  unfold Machine.sendGroup; dsimp only; split
  · exact h
  · split
    · exact h.placeOrder.proceed
    · exact h.oweGroup

theorem sendGroupOrder (h : keepsSound r s) {g : Nat} : keepsSound r (sendGroupOrder g s).1 := by
  have each : ∀ (l : List LineId) (x : State × GroupSent), keepsSound r x.1 →
      keepsSound r (l.foldl (Machine.sendGroup g ⟨s.groupOrder g, .other, none, g⟩) x).1 := by
    intro l
    induction l with
    | nil => exact fun _ h => h
    | cons i t ih => exact fun x h => ih _ h.sendGroup
  exact each _ _ h

/-! ## Credentials and the encoder -/

theorem yieldPlace (h : keepsSound r s) {slot : Nat} : keepsSound r (s.onStore (yieldPlace slot)) :=
  h.onStore ((keepsStoreSound.refl _).yieldPlace _)

theorem acceptIssue (h : keepsSound r s) {m : IssueMode} {slot : Nat} {c : CredRec} :
    keepsSound r (acceptIssue m slot c s) := by
  have numbered := h.onCred (f := fun x => { x with serial := c.number }) id id
  unfold Machine.acceptIssue; exact numbered.yieldPlace.enqueue.putSlot.enqueue.onEnc _

theorem checkOut (h : keepsSound r s) {room : Nat} {slots : List Nat} : keepsSound r (checkOut room slots s) := by
  have revoked := foldl (f := fun x k => Machine.revokeCred k .checkout x) (fun _ _ h => h.revokeCred) slots h
  unfold Machine.checkOut; dsimp only
  refine offer ?_
  split
  · exact revoked.reachPending
  · exact revoked

/-! ## Tabs, journal, doors and the desk link -/

theorem setHold (h : keepsSound r s) {room : Nat} {hold : Bool} : keepsSound r (setHold room hold s) := by
  unfold Machine.setHold; dsimp only; split
  · exact h.modRoom
  · exact h.modRoom.modBar

theorem releaseTo (h : keepsSound r s) {mark : Nat} : keepsSound r (releaseTo mark s) := by
  have raised : keepsSound r (Machine.enqueue .journalState (s.onJournal fun j => { j with mark := mark })) :=
    h.onJournalRest.enqueue
  unfold Machine.releaseTo; dsimp only; split
  · exact raised.onJournalRest
  · exact raised

theorem modInbound (h : keepsSound r s) {f : Inbound → Inbound} : keepsSound r (modInbound f s) := h.onLink _

end keepsSound

end Sys2Proof.Machine

namespace Sys2Proof.Machine

-- Each proof cites those before it: elaborated in turn, they leave no thread waiting for another.
set_option Elab.async false

/-! ## What an answer leaves -/

/-- The state an answer leaves has this property; a refusal leaves the state it is given on. -/
def Answer.leaves (p : State → Prop) : Answer → Prop
  | .reply t _ => p t
  | .later t => p t
  | .refuse _ => True

section
variable {p : State → Prop} {s : State} {k : Answer}

theorem Answer.leaves_common {always : Bool} {h : ReqHead} (hk : k.leaves p) : (common always h s k).leaves p := by
  unfold common; split
  · trivial
  · split
    · trivial
    · exact hk

theorem Answer.leaves_tableRequest {a b c : Bool} {keys : List EntryKey} (hk : k.leaves p) :
    (tableRequest s a b c keys k).leaves p := by
  unfold tableRequest; split
  · trivial
  · split
    · trivial
    · split
      · trivial
      · split
        · trivial
        · split
          · trivial
          · exact hk

/-- A test that is answered with a refusal. -/
theorem Answer.leaves_unless {c : Prop} [Decidable c] {e : ErrCode} (hk : ¬c → k.leaves p) :
    (if c then .refuse e else k).leaves p := by
  split
  · trivial
  · next h => exact hk h

/-- The state of an answer that is a reply. -/
theorem Answer.leaves_ite {c : Prop} [Decidable c] {k' : Answer} (hk : c → k.leaves p) (hk' : ¬c → k'.leaves p) :
    (if c then k else k').leaves p := by
  split
  · next h => exact hk h
  · next h => exact hk' h

end

/-- A number that passes the test of a required field is within its range. -/
theorem argNat_of_badReq {a : Arg Nat} {lo hi : Nat} (h : badReq a lo hi = false) : lo ≤ argNat a ∧ argNat a ≤ hi := by
  cases a with
  | given n => simpa [badReq, argNat, argGet] using h
  | malformed => simp [badReq] at h
  | absent => simp [badReq] at h

namespace keepsSound

variable {r s : State} {h : ReqHead}

theorem reqClockSet (k : keepsSound r s) (m x : Arg Nat) : (reqClockSet h m x s).leaves (keepsSound r) := by
  refine Answer.leaves_common (Answer.leaves_unless fun hf => ?_)
  simp only [Bool.or_eq_true, not_or, Bool.not_eq_true] at hf
  exact k.setClock (argNat_of_badReq hf.1).2 (argNat_of_badReq hf.2).2

theorem reqSetup (k : keepsSound r s) (a b c d e f : Arg Nat) (g : Arg Policy) :
    (reqSetup h a b c d e f g s).leaves (keepsSound r) := by
  refine Answer.leaves_common (Answer.leaves_tableRequest ?_)
  have set := fun x => (k.onSettings fun _ => x).enqueue (k := .settings)
  show keepsSound r _
  split
  · exact (set _).overrunPath
  · exact set _

theorem reqRoomSet (k : keepsSound r s) (a b : Arg Nat) (c : Arg (List Nat)) (d e : Arg Nat) :
    (reqRoomSet h a b c d e s).leaves (keepsSound r) :=
  Answer.leaves_common (Answer.leaves_tableRequest (show keepsSound r _ from k.putRoom.enqueue))

theorem reqRoomGet (k : keepsSound r s) (a : Arg Nat) : (reqRoomGet h a s).leaves (keepsSound r) := by
  refine Answer.leaves_common (Answer.leaves_unless fun _ => ?_)
  dsimp only; split
  · trivial
  · exact k

theorem reqRoomResetIssue (k : keepsSound r s) (a : Arg Nat) : (reqRoomResetIssue h a s).leaves (keepsSound r) := by
  refine Answer.leaves_common (Answer.leaves_tableRequest ?_)
  split
  · trivial
  · exact k.putRoom.enqueue

theorem reqRoomLockout (k : keepsSound r s) (a : Arg Nat) (b : Arg Bool) :
    (reqRoomLockout h a b s).leaves (keepsSound r) := by
  refine Answer.leaves_common (Answer.leaves_tableRequest ?_)
  split
  · trivial
  · show keepsSound r _
    split
    · exact k.putRoom.enqueue
    · exact k.putRoom.enqueue.offer

theorem reqNodeSet (k : keepsSound r s) (a b : Arg Nat) (c : Arg NodeKind) (d e f : Arg Nat) (g : Arg Bool) :
    (reqNodeSet h a b c d e f g s).leaves (keepsSound r) :=
  Answer.leaves_common (Answer.leaves_tableRequest (show keepsSound r _ from k.applyNodeSet.enqueue))

theorem reqNodeGet (k : keepsSound r s) (a b : Arg Nat) : (reqNodeGet h a b s).leaves (keepsSound r) := by
  refine Answer.leaves_common (Answer.leaves_unless fun _ => ?_)
  dsimp only; split
  · trivial
  · exact k

theorem reqNodeRemove (k : keepsSound r s) (a b : Arg Nat) : (reqNodeRemove h a b s).leaves (keepsSound r) := by
  refine Answer.leaves_common (Answer.leaves_tableRequest ?_)
  split
  · trivial
  · exact k.removeNode.enqueue

theorem reqStock (k : keepsSound r s) (a b : Arg Nat) (c : List (Arg Nat)) :
    (reqStock h a b c s).leaves (keepsSound r) := by
  refine Answer.leaves_common (Answer.leaves_tableRequest ?_)
  split
  · trivial
  · next n _ =>
    exact (k.modNode (f := fun x => { x with entry := n.entry.restock c }) fun _ x => x).enqueue

theorem reqGroupSet (k : keepsSound r s) (a : Arg Nat) (b : Arg Bool) : (reqGroupSet h a b s).leaves (keepsSound r) :=
  Answer.leaves_common (Answer.leaves_tableRequest (show keepsSound r _ from (k.onGroups _ _).enqueue))

theorem groupRequest (k : keepsSound r s) (a : Arg Nat) (x : ReleaseState) :
    (groupRequest h a x s).leaves (keepsSound r) := by
  have sent := ((k.onGroups (argNat a) { s.group (argNat a) with release := x }).enqueue
    (k := .group (argNat a))).sendGroupOrder (g := argNat a)
  refine Answer.leaves_common (Answer.leaves_tableRequest ?_)
  show keepsSound r _
  split
  · exact sent
  · exact sent.offer

theorem reqPriceSet (k : keepsSound r s) (a b c : Arg Nat) : (reqPriceSet h a b c s).leaves (keepsSound r) :=
  Answer.leaves_common (Answer.leaves_tableRequest (show keepsSound r _ from (k.onPrices _ _).enqueue))

theorem reqPriceGet (k : keepsSound r s) (a : Arg Nat) : (reqPriceGet h a s).leaves (keepsSound r) :=
  Answer.leaves_common (Answer.leaves_unless fun _ => k)

theorem issueTests (k : keepsSound r s) (m : IssueMode) (f : IssueFields) :
    (issueTests m f s).leaves (keepsSound r) := by
  refine Answer.leaves_unless fun _ => Answer.leaves_unless fun _ => Answer.leaves_unless fun _ =>
    Answer.leaves_unless fun _ => ?_
  split
  · trivial
  · refine Answer.leaves_unless fun _ => Answer.leaves_unless fun _ => ?_
    split
    · trivial
    · exact Answer.leaves_unless fun _ => k.acceptIssue

theorem reqIssue (k : keepsSound r s) (a : Arg IssueMode) (f : IssueFields) :
    (reqIssue h a f s).leaves (keepsSound r) := by
  refine Answer.leaves_common ?_
  split
  · trivial
  · exact Answer.leaves_unless fun _ => k.issueTests _ _

theorem reqCancel (k : keepsSound r s) (a : Arg Nat) : (reqCancel h a s).leaves (keepsSound r) := by
  refine Answer.leaves_common (Answer.leaves_unless fun _ => ?_)
  split
  · trivial
  · exact Answer.leaves_unless fun _ => k.cancelJob

theorem reqEncoderReset (k : keepsSound r s) : (reqEncoderReset h s).leaves (keepsSound r) :=
  Answer.leaves_common (show keepsSound r _ from k.cancelJob.onEnc _)

theorem revokeFound (k : keepsSound r s) (slot : Nat) (c : CredRec) (why : RevReason) :
    (revokeFound slot c why s).leaves (keepsSound r) := by
  unfold Machine.revokeFound; split
  · trivial
  · trivial
  · exact k
  · exact Answer.leaves_unless fun _ => k.reachPending
  · exact Answer.leaves_unless fun _ => Answer.leaves_unless fun _ => k.revokeReported

theorem reqRevoke (k : keepsSound r s) (a : Arg Nat) (b : Arg RevReason) :
    (reqRevoke h a b s).leaves (keepsSound r) := by
  refine Answer.leaves_common (Answer.leaves_unless fun _ => ?_)
  split
  · trivial
  · exact k.revokeFound _ _ _

theorem reqCheckout (k : keepsSound r s) (a : Arg Nat) : (reqCheckout h a s).leaves (keepsSound r) :=
  Answer.leaves_common (Answer.leaves_unless fun _ => Answer.leaves_unless fun _ => Answer.leaves_unless fun _ =>
    Answer.leaves_unless fun _ => k.checkOut)

theorem reqCredGet (k : keepsSound r s) (a b : Arg Nat) : (reqCredGet h a b s).leaves (keepsSound r) := by
  refine Answer.leaves_common (Answer.leaves_unless fun _ => Answer.leaves_unless fun _ =>
    Answer.leaves_ite (fun _ => ?_) fun _ => ?_)
  · unfold credByNumber; split
    · exact k
    · exact k
    · trivial
  · exact Answer.leaves_unless fun _ => k

theorem reqCardRead (k : keepsSound r s) : (reqCardRead h s).leaves (keepsSound r) :=
  Answer.leaves_common (Answer.leaves_unless fun _ => (k.onEnc _).enterWaiting)

theorem reqCardReadLast (k : keepsSound r s) (a : Arg Bool) : (reqCardReadLast h a s).leaves (keepsSound r) := by
  refine Answer.leaves_common (Answer.leaves_unless fun _ => ?_)
  split
  · trivial
  · exact k

theorem reqTabGet (k : keepsSound r s) (a : Arg Nat) : (reqTabGet h a s).leaves (keepsSound r) := by
  refine Answer.leaves_common (Answer.leaves_unless fun _ => ?_)
  dsimp only; split
  · trivial
  · exact k

theorem reqTabSettle (k : keepsSound r s) (a : Arg Nat) : (reqTabSettle h a s).leaves (keepsSound r) := by
  refine Answer.leaves_common (Answer.leaves_unless fun _ => Answer.leaves_unless fun _ => Answer.leaves_unless fun _ =>
    Answer.leaves_unless fun hf => Answer.leaves_ite (fun _ => k) fun _ => ?_)
  simp [Journal.takesMoney] at hf
  exact (k.settle hf.1.2).enqueue

theorem reqMinibarHold (k : keepsSound r s) (a : Arg Nat) (b : Arg Bool) :
    (reqMinibarHold h a b s).leaves (keepsSound r) := by
  refine Answer.leaves_common (Answer.leaves_unless fun _ => ?_)
  split
  · trivial
  · show keepsSound r _
    split
    · exact k
    · exact k.setHold

theorem reqJread (k : keepsSound r s) (a b : Arg Nat) : (reqJread h a b s).leaves (keepsSound r) :=
  Answer.leaves_common (Answer.leaves_unless fun _ => k)

theorem reqJrelease (k : keepsSound r s) (a : Arg Nat) : (reqJrelease h a s).leaves (keepsSound r) :=
  Answer.leaves_common (Answer.leaves_unless fun _ => Answer.leaves_ite (fun _ => k) fun _ =>
    Answer.leaves_unless fun _ => k.releaseTo)

theorem reqDoorUnlock (k : keepsSound r s) (a b c : Arg Nat) : (reqDoorUnlock h a b c s).leaves (keepsSound r) := by
  refine Answer.leaves_common (Answer.leaves_unless fun _ => ?_)
  split
  · trivial
  · exact Answer.leaves_unless fun _ => Answer.leaves_unless fun _ => k.placeOrder.setRelease.offer.proceed

theorem reqLineEnable (k : keepsSound r s) (a : Arg Nat) : (reqLineEnable h a s).leaves (keepsSound r) := by
  refine Answer.leaves_common (Answer.leaves_unless fun _ => Answer.leaves_unless fun _ => ?_)
  show keepsSound r _
  split
  · exact k
  · exact k.startLine

theorem reqLineDisable (k : keepsSound r s) (a : Arg Nat) : (reqLineDisable h a s).leaves (keepsSound r) := by
  refine Answer.leaves_common (Answer.leaves_unless fun _ => ?_)
  show keepsSound r _
  split
  · exact k.stopLine
  · exact k

theorem reqLineReset (k : keepsSound r s) (a : Arg Nat) : (reqLineReset h a s).leaves (keepsSound r) :=
  Answer.leaves_common (Answer.leaves_unless fun _ => Answer.leaves_ite (fun _ => k.resetLine) fun _ => trivial)

theorem reqLineSet (k : keepsSound r s) (a b c : Arg Nat) : (reqLineSet h a b c s).leaves (keepsSound r) :=
  Answer.leaves_common (Answer.leaves_tableRequest (show keepsSound r _ from (k.onSettings _).enqueue))

theorem reqLineGet (k : keepsSound r s) (a : Arg Nat) : (reqLineGet h a s).leaves (keepsSound r) :=
  Answer.leaves_common (Answer.leaves_unless fun _ => k)

theorem reqNotices (k : keepsSound r s) (a : NoticeArgs) : (reqNotices h a s).leaves (keepsSound r) :=
  Answer.leaves_common (Answer.leaves_unless fun _ => k.onLink _)

theorem reqCommission (k : keepsSound r s) (a b : Arg Nat) (c : Arg (List Byte)) :
    (reqCommission h a b c s).leaves (keepsSound r) :=
  Answer.leaves_common (Answer.leaves_unless fun _ => Answer.leaves_unless fun _ => Answer.leaves_unless fun _ =>
    Answer.leaves_unless fun _ => (k.onStoreRest).onLink _)

/-- A request leaves what is sound so, whatever it answers. -/
theorem verbAnswer (k : keepsSound r s) {i : Instr} {a : Answer} (ha : verbAnswer i s = some a) :
    a.leaves (keepsSound r) := by
  have same : ∀ {always : Bool} {h : ReqHead} {l : List RLine},
      (common always h s (.reply s l)).leaves (keepsSound r) := Answer.leaves_common k
  unfold Machine.verbAnswer at ha
  split at ha <;> cases ha
  · exact same
  · exact k.reqCommission ..
  · exact same
  · exact k.reqClockSet ..
  · exact same
  · exact k.reqSetup ..
  · exact k.reqRoomSet ..
  · exact k.reqRoomGet ..
  · exact k.reqRoomResetIssue ..
  · exact k.reqRoomLockout ..
  · exact k.reqNodeSet ..
  · exact k.reqNodeGet ..
  · exact k.reqNodeRemove ..
  · exact k.reqStock ..
  · exact k.reqGroupSet ..
  · exact k.groupRequest ..
  · exact k.groupRequest ..
  · exact k.groupRequest ..
  · exact k.reqPriceSet ..
  · exact k.reqPriceGet ..
  · exact k.reqIssue ..
  · exact k.reqCancel ..
  · exact k.reqRevoke ..
  · exact k.reqCheckout ..
  · exact k.reqCredGet ..
  · exact k.reqCardRead
  · exact k.reqCardReadLast ..
  · exact k.reqEncoderReset
  · exact k.reqTabGet ..
  · exact k.reqTabSettle ..
  · exact k.reqMinibarHold ..
  · exact k.reqJread ..
  · exact k.reqJrelease ..
  · exact k.reqDoorUnlock ..
  · exact k.reqLineEnable ..
  · exact k.reqLineDisable ..
  · exact k.reqLineReset ..
  · exact k.reqLineSet ..
  · exact k.reqLineGet ..
  · exact k.reqNotices ..
  · exact Answer.leaves_common k.beginDrain

theorem answer {a : Answer} (k : keepsSound r s) (ha : a.leaves (keepsSound r)) (tag : List (Fin 10)) :
    keepsSound r (answer tag s a) := by
  cases a with
  | reply t l => exact placeReply ha
  | later t => exact ha
  | refuse e => exact k.placeReply

/-! ## The desk link -/

theorem runRequest (k : keepsSound r s) {tag : List (Fin 10)} {i : Option Instr} :
    keepsSound r (runRequest tag i s) := by
  unfold Machine.runRequest; split
  · next a ha =>
    obtain ⟨i, -, hi⟩ := Option.bind_eq_some_iff.1 ha
    exact k.answer (k.verbAnswer hi) tag
  · exact k.placeReply

theorem runLine (k : keepsSound r s) {l : List Byte} : keepsSound r (runLine l s) := by
  unfold Machine.runLine; split
  · exact k.runRequest
  · exact k

theorem takeOldestRequest (k : keepsSound r s) : keepsSound r (takeOldestRequest s) := by
  unfold Machine.takeOldestRequest; split
  · exact k
  · split
    · exact k.modInbound.runLine
    · exact k

theorem endLine (k : keepsSound r s) : keepsSound r (endLine s) := by
  unfold Machine.endLine; dsimp only; split
  · exact k.modInbound
  · split
    · exact k.modInbound.onLink _
    · exact k.modInbound

theorem lineFeed (k : keepsSound r s) {e : Bool} : keepsSound r (lineFeed e s) :=
  k.modInbound.endLine.takeOldestRequest

theorem slotEmpties (k : keepsSound r s) : keepsSound r (slotEmpties s) := by
  unfold Machine.slotEmpties; dsimp only; split
  · exact ((k.onLink _).onLink _).placeReply
  · exact (k.onLink _).takeOldestRequest

theorem lineSent (k : keepsSound r s) : keepsSound r (lineSent s) := by
  unfold Machine.lineSent; dsimp only; split
  · split
    · exact (k.onLink _).slotEmpties
    · exact k.onLink _
  · exact k.onLink _

end keepsSound

/-! ## Every command -/

/-- A command goes on, and the state it leaves has this property. -/
def goesOn (p : State → Prop) (o : Host.Outcome State Fault Refusal) : Prop := ∃ t, o = .next t ∧ p t

/-- A request is put to its verb and answered. -/
theorem exec_request {i : Instr} {h : ReqHead} (hi : requestHead i = some h) (s : State) :
    ∃ a, verbAnswer i s = some a ∧ exec i s = desk h.tag s a := by
  cases i <;> first | cases hi; exact ⟨_, rfl, rfl⟩ | cases hi

namespace keepsSound

variable {r s : State}

theorem next (k : keepsSound r s) : goesOn (keepsSound r) (.next s) := ⟨s, rfl, k⟩

theorem done (k : keepsSound r s) : goesOn (keepsSound r) (done s) := ⟨_, rfl, k.finish⟩

theorem ite {c : Prop} [Decidable c] {o o' : Host.Outcome State Fault Refusal} (ho : goesOn (keepsSound r) o)
    (ho' : goesOn (keepsSound r) o') : goesOn (keepsSound r) (if c then o else o') := by
  split
  · exact ho
  · exact ho'

theorem request (k : keepsSound r s) {i : Instr} {h : ReqHead} (hi : requestHead i = some h) :
    goesOn (keepsSound r) (exec i s) := by
  obtain ⟨a, ha, he⟩ := exec_request hi s
  rw [he]
  exact ite (k.answer (k.verbAnswer ha) _).done k.next

/-- Every command goes on to a state in which what was sound is sound. -/
theorem exec (k : keepsSound r s) (i : Instr) : goesOn (keepsSound r) (exec i s) := by
  cases hi : requestHead i with
  | some h => exact k.request hi
  | none =>
    cases i with
    | powerOn straps lost =>
      have on := (k.onPower fun p => { p with supply := true }).onClock (fun c => { c with lost := c.lost || lost }) id
      exact ite k.next (ite on.next on.coldStart.done)
    | pfwAsserted => exact ite (k.onPower _).beginDrain.done (k.onPower _).next
    | pfwDeasserted straps => exact ite (k.onPower _).coldStart.done (k.onPower _).next
    | resetAsserted => exact (k.onPower _).goDark.next
    | resetReleased straps => exact ite (k.onPower _).coldStart.done (k.onPower _).next
    | powerDown =>
      show goesOn _ (execPowerDown s)
      unfold execPowerDown; split
      · exact k.next
      · exact ite k.offerPowerDown.done k.next
    | postDrainColdStart straps =>
      show goesOn _ (execPostDrainColdStart straps s)
      unfold execPostDrainColdStart; split
      · exact k.next
      · exact ite k.coldStart.done k.next
    | hotelClockTick =>
      have ticked := k.onClock HotelClock.tick clockInRange_tick
      exact ite ticked.minuteWork.done ticked.next
    | deskLineReceived e => exact ite k.lineFeed.done k.next
    | lineDiscardCharacter => exact ite (k.modInbound (f := Inbound.clearPart)).done k.next
    | takeRequest => exact k.takeOldestRequest.done
    | holdInAsserted => exact (k.onLink _).next
    | holdInReleased => exact (k.onLink _).done
    | transmitLineComplete =>
      show goesOn _ (execTransmitLineComplete s)
      unfold execTransmitLineComplete; split
      · exact k.lineSent.done
      · exact k.next
    | identityProgramComplete sound =>
      show goesOn _ (execIdentityProgramComplete sound s)
      unfold execIdentityProgramComplete; split
      · exact k.programCompletes.done
      · exact k.next
    | intentRecordProgrammed => exact ite k.takeReport.done k.next
    | cardInChange present =>
      have level := k.onEnc fun e => { e with cardIn := present }
      show goesOn _ (execCardInChange present s)
      unfold execCardInChange; dsimp only; split
      · exact ite level.cardArrives.done level.done
      · exact level.done
    | cardWaitExpiry =>
      show goesOn _ (execCardWaitExpiry s)
      unfold execCardWaitExpiry; split
      · exact ite k.waitEnds.done k.next
      · exact k.next
    | writeImageAnswer answer =>
      show goesOn _ (execWriteImageAnswer answer s)
      unfold execWriteImageAnswer; split
      · exact k.writeAnswered.done
      · exact k.next
    | readImageAnswer answer =>
      show goesOn _ (execReadImageAnswer answer s)
      unfold execReadImageAnswer; split
      · exact k.readAnswered.done
      · exact k.next
    | headTimeout =>
      show goesOn _ (execHeadTimeout s)
      unfold execHeadTimeout; split
      · exact k.writeAnswered.done
      · exact k.readAnswered.done
      · exact k.next
    | heldOutcomeRetry => exact ite (k.onSignals _).tryOutcome.done k.next
    | cycleBegin i => exact ite (k.modLineRest (f := fun l => { l with periodEnd := none })).betweenCycles.done k.next
    | nodeReply i leg frame =>
      show goesOn _ (execNodeReply i leg frame s)
      unfold execNodeReply; split
      · exact ite k.received.done k.next
      · exact k.next
    | replyTimeout i =>
      show goesOn _ (execReplyTimeout i s)
      unfold execReplyTimeout; split
      · exact k.expired.done
      · exact k.next
    | broadcastSent i =>
      show goesOn _ (execBroadcastSent i s)
      unfold execBroadcastSent; split
      · exact ite k.next k.broadcastEnds.done
      · exact k.next
    | directedFrameSent i =>
      show goesOn _ (execDirectedFrameSent i s)
      unfold execDirectedFrameSent; split
      · exact ite k.modLineRest.done k.next
      · exact k.next
    | latchEnd i a =>
      show goesOn _ (execLatchEnd i a s)
      unfold execLatchEnd; split
      · exact k.next
      · exact ite k.endUnused.done k.next
    | graceEnd i a =>
      show goesOn _ (execGraceEnd i a s)
      unfold execGraceEnd; split
      · exact k.next
      · exact ite k.graceEnds.done k.next
    | chargeWaitRetry =>
      have tried := k.onSignals fun g => { g with minibar := false }
      show goesOn _ (execChargeWaitRetry s)
      unfold execChargeWaitRetry
      refine ite (?_ : goesOn _ (Machine.done _)) k.next
      split
      · exact tried.finaliseAll.done
      · exact (tried.retryWaiting _).done
    | journalProgramComplete sound =>
      show goesOn _ (execJournalProgramComplete sound s)
      unfold execJournalProgramComplete; split
      · exact k.programCompletes.done
      · exact k.next
    | heldOverrunAccept => exact ite (k.onSignals _).acceptHeld.done k.next
    | preErase => exact ite k.onStoreRest.done k.next
    | tableLogProgramComplete sound =>
      show goesOn _ (execTableLogProgramComplete sound s)
      unfold execTableLogProgramComplete; split
      · exact k.programCompletes.done
      · exact k.next
    | waitingSetPlacement =>
      exact ite (foldl (fun _ _ h => h.placeWaiting) _ (k.onSignals _)).done k.next
    | copyForwardComplete sound =>
      show goesOn _ (execCopyForwardComplete sound s)
      unfold execCopyForwardComplete; split
      · exact k.programCompletes.done
      · exact k.next
    | eraseComplete sound =>
      show goesOn _ (execEraseComplete sound s)
      unfold execEraseComplete; split
      · exact k.eraseCompletes.done
      · exact k.next
    | eraseSuspend =>
      show goesOn _ (execEraseSuspend s)
      unfold execEraseSuspend; split
      · exact ite k.next k.onStoreRest.done
      · exact k.next
    | eraseRunLimit =>
      show goesOn _ (execEraseRunLimit s)
      unfold execEraseRunLimit; split
      · exact k.eraseCompletes.done
      · exact k.next
    | programTimeout =>
      show goesOn _ (execProgramTimeout s)
      unfold execProgramTimeout; split
      · exact k.programCompletes.done
      · exact k.next
    | powerLoss => exact (k.onPower _).goDark.next
    | characterReceived c e =>
      exact ite k.next (ite k.lineFeed.done (ite (k.modInbound (f := Inbound.clearPart)).done k.modInbound.done))
    | suspensionTakesEffect =>
      show goesOn _ (execSuspensionTakesEffect s)
      unfold execSuspensionTakesEffect; split
      · exact ite k.onStoreRest.done k.next
      · exact k.next
    | _ => cases hi

end keepsSound

/-! ## The statements about every step -/

/-- A step leaves what is sound so. -/
theorem step_keepsSound {s t : State} (h : step s = .next t) :
    ∃ q, keepsSound (s.onPending fun _ => q) t := by
  unfold step at h; split at h
  · cases h; exact ⟨s.pending, .refl _⟩
  · next c q _ =>
    obtain ⟨u, hu, k⟩ := (keepsSound.refl (s.onPending fun _ => q)).exec c
    rw [hu] at h; cases h
    exact ⟨q, k⟩

/-- Settles O2: each operation of the model keeps the waiting commands, as `keepsSound` says. -/
theorem everyCommandAnswers : Obligations.EveryCommandAnswers := fun c s => by
  obtain ⟨t, ht, k⟩ := (keepsSound.refl s).exec c
  exact ⟨t, ht, k.pending⟩

/-- Settles O5: each operation of the model keeps each table and region in its canonical form. -/
theorem tablesStayCanonical : Obligations.TablesStayCanonical := fun s t hs ht => by
  obtain ⟨q, k⟩ := step_keepsSound ht
  obtain ⟨rooms, nodes, groups, gl, prices, pl, slots, list, lines, tlog, tl, jreg, jl⟩ := hs
  exact k.canonical ⟨rooms, nodes, groups, gl, prices, pl, slots, list, lines, tlog, tl, jreg, jl⟩

/-- Settles O6: each operation of the model keeps the queues within their places. -/
theorem queuesStayWithinPlaces : Obligations.QueuesStayWithinPlaces := fun s t hs ht => by
  obtain ⟨q, k⟩ := step_keepsSound ht
  exact k.withinPlaces ⟨hs.staging, hs.changes, hs.orders⟩

/-- Settles O7: each operation of the model keeps the clock in its range. -/
theorem clockStaysInRange : Obligations.ClockStaysInRange := fun s t hs ht => by
  obtain ⟨q, k⟩ := step_keepsSound ht
  exact k.clock hs

/-- Settles O1. -/
theorem stepTakesTheFrontCommand : Obligations.StepTakesTheFrontCommand := by
  refine ⟨fun c q s => rfl, fun s hs => ?_⟩
  unfold step; rw [hs]

end Sys2Proof.Machine

/-! ## What is read after a change of a part -/

namespace Sys2Proof.Machine

set_option Elab.async false

section
variable (s : State)

@[simp] theorem PerLine.get_set_self {α : Type} (p : PerLine α) (i : LineId) (v : α) : (p.set i v).get i = v := by
  rw [PerLine.get_set, if_pos rfl]

theorem PerLine.get_set_other {α : Type} (p : PerLine α) {i j : LineId} (v : α) (h : j ≠ i) :
    (p.set i v).get j = p.get j := by rw [PerLine.get_set, if_neg h]

/-- Values that agree on every line are the same. -/
theorem PerLine.ext_get {α : Type} {p q : PerLine α} (h : ∀ i, p.get i = q.get i) : p = q := by
  cases p; cases q
  have h1 := h .l1
  have h2 := h .l2
  have h3 := h .l3
  have h4 := h .l4
  simp only [PerLine.get] at h1 h2 h3 h4
  rw [h1, h2, h3, h4]

@[simp] theorem State.line_modLine_self (i : LineId) (f : Line → Line) : (s.modLine i f).line i = f (s.line i) :=
  PerLine.get_set_self _ _ _

theorem State.line_modLine_other {i j : LineId} (f : Line → Line) (h : j ≠ i) : (s.modLine i f).line j = s.line j :=
  PerLine.get_set_other _ _ h

theorem State.line_modLine (i j : LineId) (f : Line → Line) :
    (s.modLine i f).line j = if j = i then f (s.line i) else s.line j := PerLine.get_set _ _ _ _

theorem State.line_congr {s t : State} (h : t.lines = s.lines) (i : LineId) : t.line i = s.line i := by
  unfold State.line; rw [h]

theorem State.node_congr {s t : State} (h : t.nodes = s.nodes) (i : LineId) (a : Nat) : t.node i a = s.node i a := by
  unfold State.node; rw [h]

@[simp] theorem offer_line (b : JBody) (i : LineId) : (offer b s).line i = s.line i := State.line_congr (by simp) i
@[simp] theorem post_line (c : NoticeClass) (d : Detail) (i : LineId) : (post c d s).line i = s.line i := rfl
@[simp] theorem enqueue_line (k : EntryKey) (i : LineId) : (enqueue k s).line i = s.line i := rfl
@[simp] theorem offer_node (b : JBody) (i : LineId) (a : Nat) : (offer b s).node i a = s.node i a :=
  State.node_congr (by simp) i a
@[simp] theorem post_node (c : NoticeClass) (d : Detail) (i : LineId) (a : Nat) : (post c d s).node i a = s.node i a := rfl
@[simp] theorem enqueue_node (k : EntryKey) (i : LineId) (a : Nat) : (enqueue k s).node i a = s.node i a := rfl
@[simp] theorem State.node_modLine (i j : LineId) (f : Line → Line) (a : Nat) : (s.modLine i f).node j a = s.node j a := rfl
@[simp] theorem State.line_modNode (i j : LineId) (a : Nat) (f : Node → Node) : (s.modNode i a f).line j = s.line j :=
  State.line_congr (by simp) j

theorem State.get_modNodeAt (k j : Nat) (f : Node → Node) :
    (s.modNodeAt k f).nodes.get j = if j = k then (s.nodes.get k).map f else s.nodes.get j := by
  unfold State.modNodeAt
  cases hk : s.nodes.get k with
  | none => split <;> simp_all
  | some n =>
    by_cases hj : j = k
    · subst hj; simp
    · simp [hj, FMap.get_put_other]

theorem State.get_modNode (i : LineId) (a j : Nat) (f : Node → Node) :
    (s.modNode i a f).nodes.get j = if j = nodeKey i a then (s.node i a).map f else s.nodes.get j :=
  s.get_modNodeAt _ _ _

@[simp] theorem State.node_modNode_self (i : LineId) (a : Nat) (f : Node → Node) :
    (s.modNode i a f).node i a = (s.node i a).map f := by
  unfold State.node; rw [State.get_modNode, if_pos rfl]; rfl

/-- Two addresses a frame can carry name one node only if they are the same on the same line (R64). -/
theorem nodeKey_inj {i j : LineId} {a b : Nat} (ha : a < 128) (hb : b < 128) (h : nodeKey i a = nodeKey j b) :
    i = j ∧ a = b := by
  unfold nodeKey at h
  have hl : lineNum i = lineNum j := by omega
  refine ⟨?_, by omega⟩
  cases i <;> cases j <;> first | rfl | cases hl

theorem State.node_modNode_other {i j : LineId} {a b : Nat} (f : Node → Node) (ha : a < 128) (hb : b < 128)
    (h : ¬(j = i ∧ b = a)) : (s.modNode i a f).node j b = s.node j b := by
  unfold State.node; rw [State.get_modNode, if_neg fun e => h (nodeKey_inj hb ha e)]

theorem State.get_modRoom (i j : Nat) (f : Room → Room) :
    (s.modRoom i f).rooms.get j = if j = i then (s.rooms.get i).map f else s.rooms.get j := by
  unfold State.modRoom
  cases hi : s.rooms.get i with
  | none => split <;> simp_all
  | some n =>
    by_cases hj : j = i
    · subst hj; simp
    · simp [hj, FMap.get_put_other]

end

end Sys2Proof.Machine

/-!
The lines at work (O8). A line master is settled where it has an exchange outstanding or rests between cycles; the
operations that unsettle a line name it, and `proceed` settles it again. Nodes are only ever taken from the table by
NODE REMOVE, which ends the visits to them.
-/

namespace Sys2Proof.Machine

set_option Elab.async false

/-- A line master stands at work: an exchange is outstanding, or it rests between cycles with nothing queued (R66 to
R68). -/
def Line.settled (l : Line) : Prop :=
  l.running = true → l.exch.isSome = true ∨ (l.cycle = none ∧ l.periodEnd.isSome = true ∧ l.queue = [])

/-- A cycle visits a present node, and holds addresses that name one node only (R64, R68). -/
structure State.visits (s : State) (i : LineId) (c : Cycle) : Prop where
  addr : ∀ v, c.visit = some v → v.addr < 128
  present : ∀ v, c.visit = some v → v.done = false → (s.node i v.addr).isSome = true
  rest : ∀ a ∈ c.rest, a < 128

/-- Every line master but `u` is settled, and every cycle is one that can go on. -/
structure atWork (u : Option LineId) (s : State) : Prop where
  settled : ∀ i, u ≠ some i → (s.line i).settled
  cycles : ∀ i c, (s.line i).cycle = some c → s.visits i c

theorem linesAtWork_iff (s : State) : s.linesAtWork ↔ atWork none s := by
  constructor
  · intro h
    exact ⟨fun i _ => h.settled i, fun i c hc => ⟨(h.addresses i c hc).1, fun v hv => h.visited i c v hc hv,
      (h.addresses i c hc).2⟩⟩
  · intro h
    exact ⟨fun i => h.settled i nofun, fun i c v hc hv => (h.cycles i c hc).present v hv,
      fun i c hc => ⟨(h.cycles i c hc).addr, (h.cycles i c hc).rest⟩⟩

/-- The nodes of `s` are nodes of `t`. -/
def keepsPresent (s t : State) : Prop := ∀ k, (s.nodes.get k).isSome = true → (t.nodes.get k).isSome = true

/-! ## Nodes stay present -/

namespace keepsPresent

variable {r s t : State}

theorem refl (s : State) : keepsPresent s s := fun _ h => h

/-- A state with the same node table. -/
theorem rest (h : keepsPresent r s) (hn : t.nodes = s.nodes := by simp) : keepsPresent r t :=
  fun k hk => by rw [hn]; exact h k hk

theorem offer (h : keepsPresent r s) {b : JBody} : keepsPresent r (offer b s) := h.rest
theorem post (h : keepsPresent r s) {c : NoticeClass} {d : Detail} : keepsPresent r (post c d s) := h.rest
theorem enqueue (h : keepsPresent r s) {k : EntryKey} : keepsPresent r (enqueue k s) := h.rest

theorem foldl {β : Type} {f : State → β → State} (hf : ∀ s b, keepsPresent r s → keepsPresent r (f s b)) (l : List β)
    (h : keepsPresent r s) : keepsPresent r (l.foldl f s) := by
  induction l generalizing s with
  | nil => exact h
  | cons b t ih => exact ih (hf s b h)

theorem modNode (h : keepsPresent r s) {i : LineId} {a : Nat} {f : Node → Node} : keepsPresent r (s.modNode i a f) := by
  intro k hk
  rw [State.get_modNode]
  split
  · next e => have := h k hk; subst e; simpa [State.node] using this
  · exact h k hk

theorem mapVals (h : keepsPresent r s) {f : Nat → Node → Node} : keepsPresent r (s.onNodes fun m => m.mapVals f) := by
  intro k hk
  simpa using h k hk

theorem putAt (h : keepsPresent r s) {key : Nat} {n : Node} : keepsPresent r (s.onNodes fun m => m.put key n) := by
  intro k hk
  by_cases e : k = key
  · subst e; simp
  · simpa [FMap.get_put_other _ _ e] using h k hk

theorem modBar (h : keepsPresent r s) {i : LineId} {a : Nat} {f : BarRec → BarRec} : keepsPresent r (modBar i a f s) :=
  h.modNode

theorem modLink (h : keepsPresent r s) {i : LineId} {a : Nat} {f : NodeLink → NodeLink} :
    keepsPresent r (modLink i a f s) := h.modNode

theorem comeToRest (h : keepsPresent r s) {i : LineId} {a : Nat} : keepsPresent r (comeToRest i a s) := by
  unfold Machine.comeToRest; split
  · exact h
  · exact h.modBar

theorem leaveSlot (h : keepsPresent r s) {i : LineId} {a slot : Nat} : keepsPresent r (leaveSlot i a slot s) :=
  h.modNode.enqueue

theorem finaliseLine (h : keepsPresent r s) {i : LineId} {a room slot : Nat} {l : PendingLine} {t : State}
    (ht : finaliseLine i a room slot l s = some t) : keepsPresent r t := by
  unfold Machine.finaliseLine at ht; split at ht
  · cases ht
    refine leaveSlot ?_
    split
    · exact h.rest
    · exact h.rest
  · cases ht

theorem finaliseLines (h : keepsPresent r s) (l : FMap PendingLine) {i : LineId} {a room : Nat} :
    keepsPresent r (finaliseLines i a room l s).1 := by
  induction l generalizing s with
  | nil => exact h
  | cons x t ih =>
    unfold Machine.finaliseLines; split
    · next hf => exact ih (h.finaliseLine hf)
    · exact h

theorem finaliseBar (h : keepsPresent r s) {i : LineId} {a : Nat} : keepsPresent r (finaliseBar i a s).1 := by
  unfold Machine.finaliseBar; split
  · exact h
  · exact h.finaliseLines _

theorem enterChargeWait (h : keepsPresent r s) {i : LineId} {a room : Nat} :
    keepsPresent r (enterChargeWait i a room s) := h.modBar.post

theorem graceEnds (h : keepsPresent r s) {i : LineId} {a room : Nat} : keepsPresent r (graceEnds i a room s) := by
  unfold Machine.graceEnds; dsimp only; split
  · exact h.modBar.finaliseBar.comeToRest
  · exact h.modBar.finaliseBar.enterChargeWait

theorem enterSettling (h : keepsPresent r s) {i : LineId} {a room : Nat} :
    keepsPresent r (enterSettling i a room s) := by
  unfold Machine.enterSettling; dsimp only; split
  · exact h.modBar.graceEnds
  · exact h.modBar

theorem retryWaiting (h : keepsPresent r s) (l : List (LineId × Nat × Node)) : keepsPresent r (retryWaiting l s) := by
  induction l generalizing s with
  | nil => exact h
  | cons x t ih =>
    unfold Machine.retryWaiting; dsimp only; split
    · exact ih h.finaliseBar.comeToRest
    · exact h.finaliseBar

theorem finaliseAll (h : keepsPresent r s) : keepsPresent r (finaliseAll s) := foldl (fun _ _ h => h.finaliseBar) _ h

theorem drainMinibars (h : keepsPresent r s) : keepsPresent r (drainMinibars s) := finaliseAll h.mapVals

theorem endGuest (h : keepsPresent r s) {i : LineId} {a : Nat} {n : Node} : keepsPresent r (endGuest i a n s) := by
  unfold Machine.endGuest; dsimp only; split
  · exact h.modBar.comeToRest
  · exact h.modBar.enterSettling

theorem endRestock (h : keepsPresent r s) {i : LineId} {a : Nat} {n : Node} : keepsPresent r (endRestock i a n s) := by
  have closed := (h.modNode (i := i) (a := a) (f := fun n =>
    { n with entry := { n.entry with baseline := n.restocked },
             bar := { n.bar with missing := 0, latchEnd := none, opener := none, opened := false } })).comeToRest
    (i := i) (a := a)
  unfold Machine.endRestock; dsimp only; split
  · exact closed.rest
  · exact closed.rest

theorem minibarDoor (h : keepsPresent r s) {i : LineId} {a : Nat} {n : Node} {o : Bool} :
    keepsPresent r (minibarDoor i a n o s) := by
  unfold Machine.minibarDoor; split
  · exact h.modBar
  · exact h.modBar
  · split
    · exact h.endGuest
    · exact h
  · split
    · exact h.endRestock
    · exact h
  · exact h.rest
  · exact h

theorem guestSlot (h : keepsPresent r s) {i : LineId} {a : Nat} {n : Node} {m : SlotSet} {k : Nat} :
    keepsPresent r (guestSlot i a n m k s) := by
  unfold Machine.guestSlot; split
  · exact h
  · split
    · split
      · exact h.modBar
      · exact h
    · split
      · exact h.modBar
      · exact h.rest

theorem settleIfEmpty (h : keepsPresent r s) {i : LineId} {a : Nat} : keepsPresent r (settleIfEmpty i a s) := by
  unfold Machine.settleIfEmpty; split
  · exact h
  · split
    · exact h.modBar.comeToRest
    · exact h

theorem slotEvent (h : keepsPresent r s) {i : LineId} {a : Nat} {n : Node} {p m : SlotSet} :
    keepsPresent r (slotEvent i a n p m s) := by
  have guest : keepsPresent r (Machine.settleIfEmpty i a (takeSlots i a m
      ((allSlots.filter fun k => p.has k != m.has k).foldl (fun x k => Machine.guestSlot i a n m k x) s))) :=
    (foldl (f := fun x k => Machine.guestSlot i a n m k x) (fun _ _ h => h.guestSlot) _ h).modBar.settleIfEmpty
  have tamper : ∀ x y, keepsPresent r (tamperSlots i a n x y (takeSlots i a m s)) :=
    fun _ _ => h.modBar.modBar.offer.post
  unfold Machine.slotEvent; split
  · exact guest
  · exact guest
  · exact h.modBar
  · exact tamper _ _
  · exact tamper _ _
  · exact tamper _ _

theorem slotsReported (h : keepsPresent r s) {i : LineId} {a : Nat} {n : Node} {m : SlotSet} :
    keepsPresent r (slotsReported i a n m s) := by
  unfold Machine.slotsReported; split
  · exact h.modBar
  · exact h.slotEvent

theorem setHold (h : keepsPresent r s) {room : Nat} {hold : Bool} : keepsPresent r (setHold room hold s) := by
  unfold Machine.setHold; dsimp only; split
  · exact h.rest
  · exact (h.rest (t := s.modRoom room fun r => { r with hold := hold })).modBar

theorem putNode (h : keepsPresent r s) {i : LineId} {a : Nat} {e : NodeEntry} : keepsPresent r (putNode i a e s) := by
  unfold Machine.putNode; dsimp only; split
  · exact h.putAt
  · split
    · exact h.putAt
    · next n _ _ => exact (h.rest (t := dropPrivacy n.entry s)).putAt

end keepsPresent

/-! ## Cycles and visits -/

theorem State.visits.mono {s t : State} {i : LineId} {c : Cycle} (h : s.visits i c) (hn : keepsPresent s t) :
    t.visits i c := ⟨h.addr, fun v hv hd => hn _ (h.present v hv hd), h.rest⟩

/-- A cycle whose visit has been changed, but to another address or from over to not. -/
theorem State.visits.map {s : State} {i : LineId} {c : Cycle} (h : s.visits i c) {f : Visit → Visit}
    (ha : ∀ v, (f v).addr = v.addr) (hd : ∀ v, (f v).done = false → v.done = false) :
    s.visits i { c with visit := c.visit.map f } := by
  refine ⟨fun v hv => ?_, fun v hv hv' => ?_, h.rest⟩
  · obtain ⟨w, hw, rfl⟩ := Option.map_eq_some_iff.1 hv
    rw [ha]; exact h.addr w hw
  · obtain ⟨w, hw, rfl⟩ := Option.map_eq_some_iff.1 hv
    rw [ha]; exact h.present w hw (hd w hv')

namespace atWork

variable {u : Option LineId} {i : LineId} {s t : State}

/-- A state with the same line masters, whose nodes are all there. -/
theorem nodes (h : atWork u s) (hn : keepsPresent s t) (hl : t.lines = s.lines := by simp) : atWork u t :=
  ⟨fun i hi => by rw [State.line_congr hl]; exact h.settled i hi,
    fun i c hc => (h.cycles i c (by rw [← State.line_congr hl]; exact hc)).mono hn⟩

/-- A state with the same line masters and nodes. -/
theorem rest (h : atWork u s) (hl : t.lines = s.lines := by simp) (hn : t.nodes = s.nodes := by simp) : atWork u t :=
  h.nodes ((keepsPresent.refl s).rest hn) hl

/-- A line that is to be settled again. -/
theorem unsettle (h : atWork none s) : atWork (some i) s := ⟨fun j _ => h.settled j nofun, h.cycles⟩

/-- The line named is settled too. -/
theorem settle (h : atWork (some i) s) (hi : (s.line i).settled) : atWork none s := by
  refine ⟨fun j _ => ?_, h.cycles⟩
  by_cases e : j = i
  · exact e ▸ hi
  · exact h.settled j fun x => e (Option.some.inj x).symm

theorem modLine (h : atWork (some i) s) {f : Line → Line}
    (hc : ∀ c, (f (s.line i)).cycle = some c → s.visits i c) : atWork (some i) (s.modLine i f) := by
  have hn : keepsPresent s (s.modLine i f) := (keepsPresent.refl s).rest
  refine ⟨fun j hj => ?_, fun j c hj => ?_⟩
  · rw [State.line_modLine_other s f fun e => hj (congrArg some e).symm]; exact h.settled j hj
  · by_cases e : j = i
    · subst e; exact (hc c (by simpa using hj)).mono hn
    · rw [State.line_modLine_other s f e] at hj; exact (h.cycles j c hj).mono hn

/-- A change of a line master that leaves its cycle. -/
theorem modLineRest (h : atWork (some i) s) {f : Line → Line} (hc : ∀ l, (f l).cycle = l.cycle := by exact fun _ => rfl) :
    atWork (some i) (s.modLine i f) := h.modLine fun c e => h.cycles i c (hc _ ▸ e)

/-- A change of a line master that leaves it settled, where it was so, and its cycle. -/
theorem modLineSettled (h : atWork u s) {f : Line → Line} (hs : (s.line i).settled → (f (s.line i)).settled)
    (hc : ∀ c, (f (s.line i)).cycle = some c → s.visits i c) : atWork u (s.modLine i f) := by
  have hn : keepsPresent s (s.modLine i f) := (keepsPresent.refl s).rest
  refine ⟨fun j hj => ?_, fun j c hj => ?_⟩
  · by_cases e : j = i
    · subst e; simpa using hs (h.settled j hj)
    · rw [State.line_modLine_other s f e]; exact h.settled j hj
  · by_cases e : j = i
    · subst e; exact (hc c (by simpa using hj)).mono hn
    · rw [State.line_modLine_other s f e] at hj; exact (h.cycles j c hj).mono hn

theorem modVisit (h : atWork (some i) s) {f : Visit → Visit} (ha : ∀ v, (f v).addr = v.addr)
    (hd : ∀ v, (f v).done = false → v.done = false) : atWork (some i) (modVisit i f s) := by
  refine h.modLine fun c hc => ?_
  obtain ⟨d, hd', rfl⟩ := Option.map_eq_some_iff.1 hc
  exact (h.cycles i d hd').map ha hd

theorem modNode (h : atWork u s) {j : LineId} {a : Nat} {f : Node → Node} : atWork u (s.modNode j a f) :=
  h.nodes (keepsPresent.refl s).modNode

theorem modLink (h : atWork u s) {j : LineId} {a : Nat} {f : NodeLink → NodeLink} : atWork u (modLink j a f s) :=
  h.modNode

theorem modNodesOn (h : atWork u s) {j : LineId} {f : Node → Node} : atWork u (modNodesOn j f s) :=
  h.nodes (keepsPresent.refl s).mapVals

theorem foldl {β : Type} {f : State → β → State} (hf : ∀ s b, atWork u s → atWork u (f s b)) (l : List β)
    (h : atWork u s) : atWork u (l.foldl f s) := by
  induction l generalizing s with
  | nil => exact h
  | cons b t ih => exact ih (hf s b h)

/-! ## Sending -/

theorem sendFrame (h : atWork (some i) s) {k : ExchKind} {g : Leg} {a : Nat} {b : Bool} {f : List Byte} :
    atWork (some i) (sendFrame i k g a b f s) := h.modLineRest

theorem sendTagged (h : atWork (some i) s) {k : ExchKind} {g : Leg} {a : Nat} {b : Bool} {f : List Byte} :
    atWork (some i) (sendTagged i k g a b f s) := h.sendFrame.modLineRest

theorem sendOldest (h : atWork (some i) s) : atWork (some i) (sendOldest i s) := by
  unfold Machine.sendOldest; split
  · exact h
  · split
    · exact h.sendTagged
    · exact h.sendFrame

theorem workVisit (h : atWork (some i) s) {v : Visit} : atWork (some i) (workVisit i v s) := by
  unfold Machine.workVisit; split
  · exact h.sendOldest
  · split
    · exact h
    · split
      · exact ((h.modVisit (f := fun v => { v with modeDue := false }) (fun _ => rfl) fun _ x => x).sendTagged).modLink
      · split
        · exact ((h.modVisit (f := fun v => { v with groupDue := false }) (fun _ => rfl) fun _ x => x).sendTagged).modLink
        · exact h.sendFrame

end atWork

/-! ## A line at liberty sends -/

@[simp] theorem sendFrame_exch (i : LineId) (k : ExchKind) (g : Leg) (a : Nat) (b : Bool) (f : List Byte) (s : State) :
    ((sendFrame i k g a b f s).line i).exch = some ⟨k, g, a, b, true, s.settings.timeout.get i, f, false⟩ := by
  simp [sendFrame]

@[simp] theorem sendTagged_exch (i : LineId) (k : ExchKind) (g : Leg) (a : Nat) (b : Bool) (f : List Byte) (s : State) :
    ((sendTagged i k g a b f s).line i).exch = some ⟨k, g, a, b, true, s.settings.timeout.get i,
      frameBytes a 2 (leBytes 1 (s.line i).tag ++ f), false⟩ := by
  simp [sendTagged]

theorem modLink_line (i j : LineId) (a : Nat) (f : NodeLink → NodeLink) (s : State) : (modLink i a f s).line j = s.line j :=
  State.line_congr (by simp) j

theorem sendOldest_exch {i : LineId} {s : State} (h : (s.line i).queue ≠ []) :
    ((sendOldest i s).line i).exch.isSome = true := by
  unfold sendOldest; split
  · next e => exact absurd e h
  · split <;> simp

theorem sendOldest_none {i : LineId} {s : State} (h : (s.line i).queue = []) : sendOldest i s = s := by
  unfold sendOldest; rw [h]

/-- A visit to a present node sends an order, an owed order or a poll (R68). -/
theorem workVisit_exch {i : LineId} {v : Visit} {s : State} (h : (s.node i v.addr).isSome = true) :
    ((workVisit i v s).line i).exch.isSome = true := by
  obtain ⟨n, hn⟩ := Option.isSome_iff_exists.1 h
  unfold workVisit; split
  · next hq => exact sendOldest_exch (by simpa using hq)
  · rw [hn]; dsimp only
    split
    · simp [sendOwedMode, modLink_line]
    · split
      · simp [sendOwedGroup, modLink_line]
      · simp [sendPoll]

/-- What a line master rests with once it is at liberty and its cycle is over. -/
def sameWaits (l m : Line) : Prop :=
  m.cycle = none ∧ m.exch = l.exch ∧ m.queue = l.queue ∧ m.periodEnd = l.periodEnd ∧ m.running = l.running

theorem locate_line (i : LineId) (s : State) : ∃ c r, (locate i s).line i = { s.line i with cond := c, report := r } := by
  unfold locate; dsimp only; split
  · exact ⟨_, _, State.line_modLine_self _ _ _⟩
  · exact ⟨_, _, by rw [post_line, offer_line, State.line_modLine_self]⟩

theorem completeCycle_waits (i : LineId) (s : State) : sameWaits (s.line i) ((completeCycle i s).line i) := by
  obtain ⟨c, r, h⟩ := locate_line i (s.modLine i fun l => { l with cycle := none, count := satSucc max32 l.count })
  unfold completeCycle; rw [h, State.line_modLine_self]
  exact ⟨rfl, rfl, rfl, rfl, rfl⟩

theorem nextDue_some {s : State} {i : LineId} {l t : List Nat} {a : Nat} {n : Node} (h : s.nextDue i l = some (a, n, t)) :
    s.node i a = some n ∧ a ∈ l ∧ ∀ b ∈ t, b ∈ l := by
  induction l with
  | nil => cases h
  | cons b l ih =>
    unfold State.nextDue at h
    have later := fun h => (ih h).imp id fun x => And.intro (List.mem_cons_of_mem b x.1) fun c hc => List.mem_cons_of_mem b (x.2 c hc)
    split at h
    · next m hm =>
      split at h
      · cases h; exact ⟨hm, List.mem_cons_self, fun c hc => List.mem_cons_of_mem _ hc⟩
      · exact later h
    · exact later h

/-- The next visit sends, or the cycle is complete (R68, R69). -/
theorem nextVisit_sends (i : LineId) (l : List Nat) (s : State) :
    ((nextVisit i l s).line i).exch.isSome = true ∨ sameWaits (s.line i) ((nextVisit i l s).line i) := by
  unfold nextVisit; split
  · exact .inr (completeCycle_waits i s)
  · next a n t hd =>
    refine .inl (workVisit_exch ?_)
    have : (s.modLine i fun l => { l with cycle := some ⟨t, some (.start a n)⟩ }).node i a = s.node i a :=
      State.node_congr (by simp) i a
    rw [show (Visit.start a n).addr = a from rfl, this, (nextDue_some hd).1]; rfl

namespace atWork

variable {u : Option LineId} {i : LineId} {s t : State}

theorem locate (h : atWork (some i) s) : atWork (some i) (locate i s) := by
  unfold Machine.locate; dsimp only; split
  · exact h.modLineRest
  · have said := h.modLineRest (f := fun x =>
      { x with cond := lineCond (s.counted i), report := condReport (lineCond (s.counted i)) (s.counted i) })
    exact said.rest

theorem completeCycle (h : atWork (some i) s) : atWork (some i) (completeCycle i s) :=
  (h.modLine (f := fun l => { l with cycle := none, count := satSucc max32 l.count }) nofun).locate

theorem nextVisit (h : atWork (some i) s) {l : List Nat} (hl : ∀ a ∈ l, a < 128) : atWork (some i) (nextVisit i l s) := by
  unfold Machine.nextVisit; split
  · exact h.completeCycle
  · next a n t hd =>
    obtain ⟨hn, ha, ht⟩ := nextDue_some hd
    refine (h.modLine fun c hc => ?_).workVisit
    cases hc
    refine ⟨fun v hv => ?_, fun v hv _ => ?_, fun b hb => hl b (ht b hb)⟩
    · cases hv; exact hl a ha
    · cases hv; rw [Visit.start, hn]; rfl

theorem visitList_lt (s : State) (i : LineId) (p : Nat) : ∀ a ∈ s.visitList i p, a < 128 := by
  intro a ha
  simp only [State.visitList, List.mem_map, mem_sortBy, List.mem_filter, State.nodesOn] at ha
  obtain ⟨_, ⟨⟨⟨k, n⟩, _, rfl⟩, _⟩, rfl⟩ := ha
  exact Nat.mod_lt _ (by decide)

/-- A cycle begun on a line whose last one is over leaves it settled, but for what is queued (R67). -/
theorem beginCycle (h : atWork (some i) s) :
    atWork (some i) (beginCycle i s) ∧ (((beginCycle i s).line i).exch.isSome = true ∨
      (((beginCycle i s).line i).cycle = none ∧ ((beginCycle i s).line i).periodEnd.isSome = true)) := by
  have begun := h.modLineRest (f := fun l => { l with
    phase := (s.line i).nextPhase, restart := false, periodEnd := some (s.settings.period.get i) })
  have lt := visitList_lt s i (s.line i).nextPhase
  unfold Machine.beginCycle openCycle
  dsimp only; split
  · next hx =>
    refine ⟨begun.modLine fun c hc => ?_, .inl ?_⟩
    · cases hc; exact ⟨nofun, nofun, lt⟩
    · simp only [Bool.and_eq_true] at hx
      simpa using hx.1
  · refine ⟨begun.nextVisit lt, ?_⟩
    rcases nextVisit_sends i (s.visitList i (s.line i).nextPhase) (s.modLine i fun l => { l with
      phase := (s.line i).nextPhase, restart := false, periodEnd := some (s.settings.period.get i) }) with x | x
    · exact .inl x
    · refine .inr ⟨x.1, ?_⟩
      rw [x.2.2.2.1, State.line_modLine_self]; rfl

/-- With no exchange outstanding but within a cycle there is nothing to do between cycles. -/
theorem betweenCycles (h : atWork (some i) s) (hc : (s.line i).cycle.isSome = true → (s.line i).exch.isSome = true) :
    atWork none (betweenCycles i s) := by
  have sent : ∀ t : State, atWork (some i) t → ((t.line i).exch.isSome = true ∨
      ((t.line i).cycle = none ∧ (t.line i).periodEnd.isSome = true)) → atWork none (sendBetween i t) := by
    intro t ht hx
    unfold sendBetween; split
    · next he =>
      simp only [Bool.and_eq_true, Option.isNone_iff_eq_none] at he
      by_cases hq : (t.line i).queue = []
      · rw [sendOldest_none hq]
        exact ht.settle fun _ => .inr ⟨he.2, (hx.resolve_left (by simp [he.1])).2, hq⟩
      · exact ht.sendOldest.settle fun _ => .inl (sendOldest_exch hq)
    · next he =>
      refine ht.settle fun _ => hx.elim .inl fun x => .inl ?_
      simpa [x.1, Option.isNone_iff_eq_none, Option.isSome_iff_ne_none] using he
  unfold Machine.betweenCycles; split
  · exact sent _ h.beginCycle.1 h.beginCycle.2
  · next he =>
    refine sent _ h ?_
    cases hcy : (s.line i).cycle with
    | some c => exact .inl (hc (by rw [hcy]; rfl))
    | none => exact .inr ⟨rfl, by simpa [hcy, Option.isSome_iff_ne_none] using he⟩

/-- A line at liberty goes on, so that it is settled (R68). -/
theorem proceed (h : atWork (some i) s) : atWork none (proceed i s) := by
  unfold Machine.proceed; split
  · next he =>
    refine h.settle fun hr => .inl ?_
    simpa [hr] using he
  · split
    · exact h.sendFrame.settle fun _ => .inl (by simp)
    · split
      · next hc => exact h.betweenCycles (by rw [hc]; nofun)
      · next c hc =>
        have visits := h.cycles i c hc
        have next : atWork none (Machine.betweenCycles i (Machine.nextVisit i c.rest s)) := by
          refine (h.nextVisit visits.rest).betweenCycles fun hs => ?_
          exact (nextVisit_sends i c.rest s).resolve_right fun x => by rw [x.1] at hs; cases hs
        unfold workCycle; split
        · next v hv =>
          split
          · exact next
          · next hd => exact h.workVisit.betweenCycles fun _ => workVisit_exch (visits.present v hv (by simpa using hd))
        · exact next

end atWork

end Sys2Proof.Machine

namespace Sys2Proof.Machine

set_option Elab.async false

namespace atWork

variable {u : Option LineId} {i : LineId} {s t : State}

theorem offer (h : atWork u s) {b : JBody} : atWork u (offer b s) := h.rest
theorem post (h : atWork u s) {c : NoticeClass} {d : Detail} : atWork u (post c d s) := h.rest
theorem enqueue (h : atWork u s) {k : EntryKey} : atWork u (enqueue k s) := h.rest
theorem finish (h : atWork u s) : atWork u (finish s) := h.rest
theorem journalLost (h : atWork u s) {j : LineId} {c : LostCause} {l : List Order} : atWork u (journalLost j c l s) := h.rest

theorem placeOrder (h : atWork (some i) s) {o : Order} : atWork (some i) (placeOrder i o s) := by
  unfold Machine.placeOrder; split
  · exact h.modLineRest
  · exact h

/-! ## Reaching and leaving RUNNING -/

theorem placeStandalone (h : atWork (some i) s) : atWork (some i) (placeStandalone i s) := by
  unfold Machine.placeStandalone; split
  · exact h.placeOrder
  · exact h

theorem startLine (h : atWork none s) : atWork none (startLine i s) := by
  have started : atWork (some i) (s.modLine i Line.starts) := h.unsettle.modLine nofun
  exact started.modNodesOn.placeStandalone.proceed

theorem resetLine (h : atWork none s) : atWork none (resetLine i s) := by
  have emptied : atWork (some i) (s.modLine i fun l =>
      { l with exch := none, cycle := none, queue := [], restart := true, periodEnd := none }) :=
    h.unsettle.modLine nofun
  exact emptied.journalLost.modNodesOn.placeStandalone.proceed

/-- A line that is DISABLED has nothing to do. -/
theorem stops (h : atWork (some i) s) : atWork none (s.modLine i fun l => { l with running := false }) :=
  (h.modLineRest (f := fun l => { l with running := false })).settle (by rw [State.line_modLine_self]; nofun)

theorem stopLine (h : atWork none s) : atWork none (stopLine i s) := by
  have emptied : atWork (some i) (s.modLine i fun l => { l with exch := none, cycle := none, queue := [] }) :=
    h.unsettle.modLine nofun
  exact emptied.journalLost.modNodesOn.stops

theorem endLineDrain (h : atWork none s) : atWork none (endLineDrain i s) := by
  have emptied : atWork (some i) (s.modLine i fun l => { l with exch := none, queue := [] }) := h.unsettle.modLineRest
  exact emptied.journalLost.stops

theorem drainLine (h : atWork none s) : atWork none (drainLine i s) := by
  unfold Machine.drainLine; split
  · exact (h.unsettle.modLine (f := fun l => { l with cycle := none }) nofun).proceed
  · exact h

/-! ## What a reply's event does to its line -/

theorem placeDecision (h : atWork (some i) s) {a x : Nat} {d : Decision} : atWork (some i) (placeDecision i a x d s) := by
  unfold Machine.placeDecision; split
  · exact h.placeOrder
  · exact h

theorem setRelease (h : atWork u s) {j : LineId} {a : Nat} {v : LastRelease} : atWork u (setRelease j a v s) := h.modNode

theorem admitCard (h : atWork (some i) s) {a : Nat} {n : Node} {p : Presentation} :
    atWork (some i) (admitCard i a n p s) := by
  unfold Machine.admitCard; dsimp only
  refine offer ?_
  split
  · exact h.placeDecision.setRelease
  · exact h.placeDecision

theorem doorEvent (h : atWork (some i) s) {a : Nat} {n : Node} {e : NodeEvent} :
    atWork (some i) (doorEvent i a n e s) := by
  unfold Machine.doorEvent; split
  · split
    · exact h.admitCard
    · exact h
  · exact (h.modNode (j := i) (a := a)).offer
  · exact h.modNode
  · exact (h.modNode (j := i) (a := a)).offer.post
  · exact (h.modNode (j := i) (a := a)).offer.post
  · exact h

theorem refuseBar (h : atWork (some i) s) {a : Nat} {n : Node} {p : Presentation} {d : Decision} :
    atWork (some i) (refuseBar i a n p d s) := h.placeDecision.offer

theorem grantBar (h : atWork (some i) s) {a : Nat} {n : Node} {p : Presentation} {f : BarRec → BarRec} {k : JVal}
    {sum : Nat} : atWork (some i) (grantBar i a n p f k sum s) := h.placeDecision.modNode.offer

theorem guestPresents (h : atWork (some i) s) {a : Nat} {n : Node} {p : Presentation} {c : CredRec} :
    atWork (some i) (guestPresents i a n p c s) := by
  unfold Machine.guestPresents; dsimp only; split
  · exact h.grantBar
  · exact h.post.refuseBar
  · exact h.refuseBar

theorem restockPresents (h : atWork (some i) s) {a : Nat} {n : Node} {p : Presentation} {c : CredRec} :
    atWork (some i) (restockPresents i a n p c s) := by
  have finalised : atWork (some i) (finaliseBar i a (modBar i a (fun b => { b with graceEnd := none }) s)).1 :=
    h.nodes (keepsPresent.refl s).modBar.finaliseBar
  unfold Machine.restockPresents; split
  · exact h.refuseBar
  · split
    · dsimp only; split
      · exact finalised.grantBar
      · exact (finalised.nodes (keepsPresent.refl _).enterChargeWait).refuseBar
    · exact h.grantBar

theorem minibarPresents (h : atWork (some i) s) {a : Nat} {n : Node} {p : Presentation} :
    atWork (some i) (minibarPresents i a n p s) := by
  unfold Machine.minibarPresents; split
  · exact h.refuseBar
  · split
    · exact h.guestPresents
    · exact h.restockPresents
    · exact h.restockPresents
    · exact h.refuseBar

theorem barEvent (h : atWork (some i) s) {a : Nat} {n : Node} {e : NodeEvent} :
    atWork (some i) (barEvent i a n e s) := by
  unfold Machine.barEvent; split
  · split
    · exact h.minibarPresents
    · exact h
  · exact h.nodes (keepsPresent.refl s).minibarDoor
  · exact h.nodes (keepsPresent.refl s).slotsReported
  · exact h

theorem handOn (h : atWork (some i) s) {a : Nat} {e : NodeEvent} : atWork (some i) (handOn i a e s) := by
  unfold Machine.handOn; split
  · exact h
  · split
    · exact h
    · split
      · exact h.doorEvent
      · exact h.doorEvent
      · exact h.barEvent

/-! ## The ends of an exchange -/

theorem endExch (h : atWork (some i) s) : atWork (some i) (endExch i s) := h.modLineRest
theorem dropOldest (h : atWork (some i) s) : atWork (some i) (dropOldest i s) := h.modLineRest

theorem clearOwed (h : atWork u s) {j : LineId} {x : Exchange} : atWork u (clearOwed j x s) := by
  unfold Machine.clearOwed; split
  · exact h.modLink
  · exact h.modLink
  · exact h

theorem polled_addr (m : Bool) (v : Visit) : (v.polled m).addr = v.addr := by unfold Visit.polled; split <;> rfl
theorem polled_done (m : Bool) (v : Visit) (h : (v.polled m).done = false) : v.done = false := by
  unfold Visit.polled at h; split at h
  · exact h
  · cases h

theorem answeredBy_addr (a : Nat) (g : Leg) (v : Visit) : (v.answeredBy a g).addr = v.addr := by
  unfold Visit.answeredBy; split <;> rfl
theorem answeredBy_done (a : Nat) (g : Leg) (v : Visit) : (v.answeredBy a g).done = v.done := by
  unfold Visit.answeredBy; split <;> rfl

theorem concluded (h : atWork (some i) s) {x : Exchange} {f : ReplyFrame} : atWork (some i) (concluded i x f s) := by
  unfold Machine.concluded; split
  · exact h.handOn.modVisit (polled_addr _) (polled_done _)
  · exact h.dropOldest
  · exact h.clearOwed

theorem answered (h : atWork u s) {j : LineId} {a : Nat} {g : Leg} {n : Node} {st : NodeStatus} :
    atWork u (answered j a g n st s) := by
  refine h.nodes ?_
  have linked : keepsPresent s (restored j a g n (Machine.modLink j a (NodeLink.answers g) s)) := by
    unfold restored; split
    · exact (keepsPresent.refl s).modLink.offer.post
    · exact (keepsPresent.refl s).modLink
  have stated := linked.modLink (i := j) (a := a) (f := fun l => { l with status := some st })
  unfold Machine.answered recordStatus
  dsimp only
  repeat' split
  all_goals exact stated.rest

theorem replyTaken (h : atWork (some i) s) {x : Exchange} {f : ReplyFrame} : atWork (some i) (replyTaken i x f s) := by
  unfold Machine.replyTaken; dsimp only; split
  · exact h.endExch
  · exact h.endExch
  · exact (h.endExch.answered.modVisit (answeredBy_addr _ _) fun v hv => answeredBy_done _ _ v ▸ hv).concluded

/-- An exchange that has been changed is outstanding still. -/
theorem mapExch (h : atWork u s) {f : Exchange → Exchange} :
    atWork u (s.modLine i fun l => { l with exch := l.exch.map f }) :=
  h.modLineSettled (fun hs hr => (hs hr).imp (fun x => by simpa using x) id) fun c hc => h.cycles i c hc

theorem received (h : atWork none s) {x : Exchange} {f : List Byte} : atWork none (received i x f s) := by
  unfold Machine.received; split
  · split
    · exact h
    · exact h.unsettle.replyTaken.proceed
  · exact h.modLink.mapExch

theorem missed (h : atWork u s) {j : LineId} {a : Nat} : atWork u (missed j a s) := by
  unfold Machine.missed; split
  · exact h
  · dsimp only; split
    · exact h.modLink.offer.post
    · exact h.modLink

theorem failedBoth (h : atWork (some i) s) {x : Exchange} : atWork (some i) (failedBoth i x s) := by
  unfold Machine.failedBoth; dsimp only; split
  · exact h.missed.modVisit (fun _ => rfl) nofun
  · exact h.modVisit (fun _ => rfl) nofun
  · exact h.dropOldest.journalLost
  · exact h

/-- A frame sent leaves its line settled. -/
theorem sent (h : atWork (some i) s) {k : ExchKind} {g : Leg} {a : Nat} {b : Bool} {f : List Byte} :
    atWork none (Machine.sendFrame i k g a b f s) := h.sendFrame.settle fun _ => .inl (by simp)

theorem expired (h : atWork none s) {x : Exchange} : atWork none (expired i x s) := by
  unfold Machine.expired; split
  · exact h.unsettle.endExch.proceed
  · split
    · exact h.unsettle.endExch.failedBoth.proceed
    · split
      · exact h.unsettle.endExch.proceed
      · unfold retry; split
        · exact h.unsettle.sent
        · exact h.unsettle.sendTagged.settle fun _ => .inl (by simp)

theorem broadcastEnds (h : atWork none s) {x : Exchange} : atWork none (broadcastEnds i x s) := by
  unfold Machine.broadcastEnds; split
  · exact h.unsettle.sent
  · exact h.endLineDrain
  · split
    · exact h.unsettle.endExch.proceed
    · exact h.unsettle.sent
  · exact h.unsettle.endExch.dropOldest.proceed
  · exact h

theorem cycleBegins (h : atWork none s) (hr : (s.line i).running = true) :
    atWork none (Machine.betweenCycles i (s.modLine i fun l => { l with periodEnd := none })) := by
  refine (h.unsettle.modLineRest (f := fun l => { l with periodEnd := none })).betweenCycles fun hc => ?_
  rw [State.line_modLine_self] at hc ⊢
  exact (h.settled i nofun hr).resolve_right fun x => by rw [x.1] at hc; cases hc

/-! ## Cold starts and the storm drain -/

/-- Line masters as they start are DISABLED. -/
theorem of_start (h : ∀ i, s.line i = .start) : atWork none s :=
  ⟨fun i _ => by rw [h]; nofun, fun i c hc => by rw [h] at hc; cases hc⟩

theorem volatileStart_line (s : State) (p : PowerState) (rate : LinkRate) (i : LineId) :
    (s.volatileStart p rate).line i = .start := by cases i <;> rfl

theorem scanTables_lines (s : State) : (scanTables s).lines = s.lines := by
  have applied : ∀ (l : List LogRec) (x : State), (l.foldl applyRec x).lines = x.lines := by
    intro l
    induction l with
    | nil => exact fun _ => rfl
    | cons a t ih => exact fun x => (ih _).trans (by simp)
  simp [scanTables, applied]

theorem startWriter_lines (s : State) : (startWriter s).1.lines = s.lines := by
  unfold startWriter
  repeat' split
  all_goals simp

theorem endColdStart (h : atWork none s) : atWork none (endColdStart s) := by
  unfold Machine.endColdStart; split
  · exact foldl (fun _ _ h => h.startLine) _ h
  · exact h

theorem startUp (rate : LinkRate) (s : State) : atWork none (startUp rate s) := by
  unfold Machine.startUp; dsimp only
  refine endColdStart (of_start fun i => ?_)
  rw [← volatileStart_line s .run rate i]
  refine State.line_congr ?_ i
  split <;> simp [scanTables_lines, startWriter_lines]

theorem coldStart (rate : LinkRate) (s : State) : atWork none (coldStart rate s) := by
  unfold Machine.coldStart; dsimp only; split
  · exact of_start fun i => (State.line_congr rfl i).trans (volatileStart_line (s.onStore cutErases) .parked rate i)
  · exact startUp _ _

theorem goDark (s : State) : atWork none (goDark s) := of_start (volatileStart_line _ _ _)

theorem beginDrain (h : atWork none s) {c : DrainCause} : atWork none (beginDrain c s) := by
  have stopped : atWork none (moveLogHead false (((Machine.post .power (.draining c)
      (s.onPower fun p => { p with state := .draining, drain := some ⟨c, false, none, false⟩ })).onStore
        stopReclaimer).onLink fun l => { l with deferred := none })) := h.rest
  have drained := stopped.nodes (keepsPresent.refl _).drainMinibars
  exact foldl (fun _ _ h => h.drainLine) _ (drained.rest (t := drainJob _))

/-! ## The store engine's reports -/

theorem startIfStopped (h : atWork none s) : atWork none (startIfStopped s i) := by
  unfold Machine.startIfStopped; split
  · exact h
  · exact h.startLine

theorem answerDeferred (h : atWork u s) {l : List RLine} : atWork u (answerDeferred l s) := h.rest

theorem commissioned (h : atWork none s) {x : Identity} : atWork none (commissioned x s) := by
  have begun : atWork none (s.onStore fun t => { t with identity := some x }) := h.rest
  have started := foldl (f := Machine.startIfStopped) (fun _ _ h => h.startIfStopped) allLines begun
  exact started.answerDeferred

theorem identityCompletes (h : atWork none s) {n : Nat} {x : Identity} {sound : Bool} :
    atWork none (identityCompletes n x sound s) := by
  unfold Machine.identityCompletes; split
  · exact h.rest
  · split
    · exact (h.rest (t := s.onStore fun t => { t with idPlaces := t.idPlaces.set n (.written x) })).commissioned
    · exact h.rest

theorem programCompletes (h : atWork none s) {p : Program} {sound : Bool} :
    atWork none (programCompletes p sound s) := by
  have free : atWork none (freeEngine s) := h.rest
  unfold Machine.programCompletes; dsimp only; split
  · exact free.rest
  · cases p with
    | journal k x => exact free.rest
    | table k key v => exact free.rest
    | copy k key v => exact free.rest
    | identity n x => exact free.identityCompletes

/-! ## Requests that reach the lines or the nodes -/

theorem sendGroup {x : State × GroupSent} (h : atWork none x.1) {g : Nat} {o : Order} :
    atWork none (sendGroup g o x i).1 := by
  unfold Machine.sendGroup; dsimp only; split
  · exact h
  · split
    · exact h.unsettle.placeOrder.proceed
    · exact h.modNodesOn

theorem sendGroupOrder (h : atWork none s) {g : Nat} : atWork none (sendGroupOrder g s).1 := by
  have each : ∀ (l : List LineId) (x : State × GroupSent), atWork none x.1 →
      atWork none (l.foldl (Machine.sendGroup g ⟨s.groupOrder g, .other, none, g⟩) x).1 := by
    intro l
    induction l with
    | nil => exact fun _ h => h
    | cons i t ih => exact fun x h => ih _ h.sendGroup
  exact each _ _ h

theorem applyNodeSet (h : atWork none s) {a : Nat} {e : NodeEntry} : atWork none (applyNodeSet i a e s) := by
  have put : atWork none (putNode i a e s) := h.nodes (keepsPresent.refl s).putNode
  unfold Machine.applyNodeSet; dsimp only; split
  · refine put.modLineSettled (fun hs hr => (hs hr).imp id fun x => ⟨?_, x.2⟩) fun c hc => ?_
    · simp [Line.unlist, x.1]
    · obtain ⟨d, hd, rfl⟩ := Option.map_eq_some_iff.1 hc
      have v := put.cycles i d hd
      exact ⟨v.addr, v.present, fun b hb => v.rest b (List.mem_of_mem_filter hb)⟩
  · exact put

/-- A node removed leaves no visit that waits on it (R13). -/
theorem removeNode (h : atWork none s) {a : Nat} {n : Node} (ha : a < 128) : atWork none (removeNode i a n s) := by
  have forgotten : atWork none ((s.onNodes fun m => m.del (nodeKey i a)).modLine i (Line.forget a)) := by
    have line : ∀ j, ((s.onNodes fun m => m.del (nodeKey i a)).modLine i (Line.forget a)).line j =
        if j = i then (s.line i).forget a else s.line j := fun j => State.line_modLine _ _ _ _
    have node : ∀ j b, b < 128 → ¬(j = i ∧ b = a) →
        ((s.onNodes fun m => m.del (nodeKey i a)).modLine i (Line.forget a)).node j b = s.node j b := by
      intro j b hb hj
      exact FMap.get_del_other _ fun e => hj (nodeKey_inj hb ha e)
    refine ⟨fun j _ => ?_, fun j c hc => ?_⟩
    · rw [line]; split
      · intro hr
        refine (h.settled i nofun hr).imp (fun x => ?_) fun x => ⟨?_, x.2.1, ?_⟩
        · simpa [Line.forget] using x
        · simp [Line.forget, x.1]
        · simp [Line.forget, x.2.2]
      · exact h.settled j nofun
    · rw [line] at hc
      by_cases e : j = i
      · subst e
        rw [if_pos rfl] at hc
        obtain ⟨d, hd, rfl⟩ := Option.map_eq_some_iff.1 hc
        have v := h.cycles j d hd
        refine ⟨fun x hx => ?_, fun x hx hd' => ?_, v.rest⟩
        · obtain ⟨y, hy, rfl⟩ := Option.map_eq_some_iff.1 hx
          have := v.addr y hy
          split <;> exact this
        · obtain ⟨y, hy, rfl⟩ := Option.map_eq_some_iff.1 hx
          split at hd'
          · cases hd'
          · next hne =>
            rw [if_neg hne, node j y.addr (v.addr y hy) fun x => hne x.2]
            exact v.present y hy hd'
      · rw [if_neg e] at hc
        have v := h.cycles j c hc
        refine ⟨v.addr, fun x hx hd => ?_, v.rest⟩
        rw [node j x.addr (v.addr x hx) fun y => e y.1]
        exact v.present x hx hd
  exact forgotten.rest.journalLost

theorem oweModes (h : atWork u s) : atWork u (oweModes s) := h.nodes (keepsPresent.refl s).mapVals

theorem setClock (h : atWork none s) {m x : Nat} : atWork none (setClock m x s) := by
  have set : atWork none (minuteWork m (Machine.post .clock (.clock s.clock.minute m)
      (Machine.offer (clockStepBody s.clock.minute m)
        (s.onClock fun c => { c with minute := m, second := x, valid := .valid })))) := h.rest
  unfold Machine.setClock; dsimp only; split
  · exact set.oweModes
  · exact set

end atWork

end Sys2Proof.Machine

namespace Sys2Proof.Machine

set_option Elab.async false

namespace atWork

variable {u : Option LineId} {i : LineId} {s t : State} {h : ReqHead}

/-- The states an answer may leave whose line masters and nodes are those it is given on. -/
theorem leaves_rest (k : atWork none s) {lines : List RLine} (hl : t.lines = s.lines := by simp)
    (hn : t.nodes = s.nodes := by simp) : (Answer.reply t lines).leaves (atWork none) := k.rest hl hn

theorem reqSetup (k : atWork none s) (a b c d e f : Arg Nat) (g : Arg Policy) :
    (reqSetup h a b c d e f g s).leaves (atWork none) := by
  refine Answer.leaves_common (Answer.leaves_tableRequest ?_)
  show atWork none _
  split
  · exact k.rest
  · exact k.rest

theorem reqRoomGet (k : atWork none s) (a : Arg Nat) : (reqRoomGet h a s).leaves (atWork none) := by
  refine Answer.leaves_common (Answer.leaves_unless fun _ => ?_)
  dsimp only; split
  · trivial
  · exact k

theorem reqRoomResetIssue (k : atWork none s) (a : Arg Nat) : (reqRoomResetIssue h a s).leaves (atWork none) := by
  refine Answer.leaves_common (Answer.leaves_tableRequest ?_)
  split
  · trivial
  · exact k.leaves_rest

theorem reqRoomLockout (k : atWork none s) (a : Arg Nat) (b : Arg Bool) :
    (reqRoomLockout h a b s).leaves (atWork none) := by
  refine Answer.leaves_common (Answer.leaves_tableRequest ?_)
  split
  · trivial
  · show atWork none _
    split
    · exact k.rest
    · exact k.rest

theorem reqNodeSet (k : atWork none s) (a b : Arg Nat) (c : Arg NodeKind) (d e f : Arg Nat) (g : Arg Bool) :
    (reqNodeSet h a b c d e f g s).leaves (atWork none) :=
  Answer.leaves_common (Answer.leaves_tableRequest (show atWork none _ from k.applyNodeSet.enqueue))

theorem reqNodeGet (k : atWork none s) (a b : Arg Nat) : (reqNodeGet h a b s).leaves (atWork none) := by
  refine Answer.leaves_common (Answer.leaves_unless fun _ => ?_)
  dsimp only; split
  · trivial
  · exact k

theorem reqNodeRemove (k : atWork none s) (a b : Arg Nat) : (reqNodeRemove h a b s).leaves (atWork none) := by
  refine Answer.leaves_common ?_
  unfold tableRequest
  refine Answer.leaves_unless fun hf => Answer.leaves_unless fun _ => Answer.leaves_unless fun _ =>
    Answer.leaves_unless fun _ => Answer.leaves_unless fun _ => ?_
  simp only [badNode, Bool.or_eq_true, not_or, Bool.not_eq_true] at hf
  have := (argNat_of_badReq hf.2).2
  split
  · trivial
  · exact (k.removeNode (by omega)).enqueue

theorem reqStock (k : atWork none s) (a b : Arg Nat) (c : List (Arg Nat)) :
    (reqStock h a b c s).leaves (atWork none) := by
  refine Answer.leaves_common (Answer.leaves_tableRequest ?_)
  split
  · trivial
  · next n _ => exact (k.modNode (f := fun x => { x with entry := n.entry.restock c })).enqueue

theorem groupRequest (k : atWork none s) (a : Arg Nat) (x : ReleaseState) :
    (groupRequest h a x s).leaves (atWork none) := by
  have sent := sendGroupOrder (g := argNat a) (k.rest (t := Machine.enqueue (.group (argNat a))
    (s.onGroups fun m => putGroup m (argNat a) { s.group (argNat a) with release := x })))
  refine Answer.leaves_common (Answer.leaves_tableRequest ?_)
  show atWork none _
  split
  · exact sent
  · exact sent.offer

theorem issueTests (k : atWork none s) (m : IssueMode) (f : IssueFields) :
    (issueTests m f s).leaves (atWork none) := by
  refine Answer.leaves_unless fun _ => Answer.leaves_unless fun _ => Answer.leaves_unless fun _ =>
    Answer.leaves_unless fun _ => ?_
  split
  · trivial
  · refine Answer.leaves_unless fun _ => Answer.leaves_unless fun _ => ?_
    split
    · trivial
    · exact Answer.leaves_unless fun _ => k.leaves_rest

theorem reqIssue (k : atWork none s) (a : Arg IssueMode) (f : IssueFields) :
    (reqIssue h a f s).leaves (atWork none) := by
  refine Answer.leaves_common ?_
  split
  · trivial
  · exact Answer.leaves_unless fun _ => k.issueTests _ _

theorem reqCancel (k : atWork none s) (a : Arg Nat) : (reqCancel h a s).leaves (atWork none) := by
  refine Answer.leaves_common (Answer.leaves_unless fun _ => ?_)
  split
  · trivial
  · exact Answer.leaves_unless fun _ => k.leaves_rest

theorem revokeFound (k : atWork none s) (slot : Nat) (c : CredRec) (why : RevReason) :
    (revokeFound slot c why s).leaves (atWork none) := by
  unfold Machine.revokeFound; split
  · trivial
  · trivial
  · exact k
  · exact Answer.leaves_unless fun _ => k.leaves_rest
  · exact Answer.leaves_unless fun _ => Answer.leaves_unless fun _ => k.leaves_rest

theorem reqRevoke (k : atWork none s) (a : Arg Nat) (b : Arg RevReason) : (reqRevoke h a b s).leaves (atWork none) := by
  refine Answer.leaves_common (Answer.leaves_unless fun _ => ?_)
  split
  · trivial
  · exact k.revokeFound _ _ _

theorem reqCredGet (k : atWork none s) (a b : Arg Nat) : (reqCredGet h a b s).leaves (atWork none) := by
  refine Answer.leaves_common (Answer.leaves_unless fun _ => Answer.leaves_unless fun _ =>
    Answer.leaves_ite (fun _ => ?_) fun _ => ?_)
  · unfold credByNumber; split
    · exact k
    · exact k
    · trivial
  · exact Answer.leaves_unless fun _ => k

theorem reqCardReadLast (k : atWork none s) (a : Arg Bool) : (reqCardReadLast h a s).leaves (atWork none) := by
  refine Answer.leaves_common (Answer.leaves_unless fun _ => ?_)
  split
  · trivial
  · exact k

theorem reqTabGet (k : atWork none s) (a : Arg Nat) : (reqTabGet h a s).leaves (atWork none) := by
  refine Answer.leaves_common (Answer.leaves_unless fun _ => ?_)
  dsimp only; split
  · trivial
  · exact k

theorem reqMinibarHold (k : atWork none s) (a : Arg Nat) (b : Arg Bool) :
    (reqMinibarHold h a b s).leaves (atWork none) := by
  refine Answer.leaves_common (Answer.leaves_unless fun _ => ?_)
  split
  · trivial
  · show atWork none _
    split
    · exact k
    · exact k.nodes (keepsPresent.refl s).setHold

theorem reqDoorUnlock (k : atWork none s) (a b c : Arg Nat) : (reqDoorUnlock h a b c s).leaves (atWork none) := by
  refine Answer.leaves_common (Answer.leaves_unless fun _ => ?_)
  split
  · trivial
  · exact Answer.leaves_unless fun _ => Answer.leaves_unless fun _ => k.unsettle.placeOrder.setRelease.offer.proceed

theorem reqLineEnable (k : atWork none s) (a : Arg Nat) : (reqLineEnable h a s).leaves (atWork none) := by
  refine Answer.leaves_common (Answer.leaves_unless fun _ => Answer.leaves_unless fun _ => ?_)
  show atWork none _
  split
  · exact k
  · exact k.startLine

theorem reqLineDisable (k : atWork none s) (a : Arg Nat) : (reqLineDisable h a s).leaves (atWork none) := by
  refine Answer.leaves_common (Answer.leaves_unless fun _ => ?_)
  show atWork none _
  split
  · exact k.stopLine
  · exact k

/-- A request leaves the lines at work, whatever it answers. -/
theorem verbAnswer (k : atWork none s) {c : Instr} {a : Answer} (ha : verbAnswer c s = some a) :
    a.leaves (atWork none) := by
  have same : ∀ {always : Bool} {h : ReqHead} {l : List RLine},
      (common always h s (.reply s l)).leaves (atWork none) := Answer.leaves_common k
  have read : ∀ {h : ReqHead} {c : Prop} [Decidable c] {e : ErrCode} {always : Bool} {l : List RLine},
      (common always h s (if c then .refuse e else .reply s l)).leaves (atWork none) :=
    Answer.leaves_common (Answer.leaves_unless fun _ => k)
  unfold Machine.verbAnswer at ha
  split at ha <;> cases ha
  case h_1 => exact same
  case h_2 =>
    exact Answer.leaves_common (Answer.leaves_unless fun _ => Answer.leaves_unless fun _ =>
      Answer.leaves_unless fun _ => Answer.leaves_unless fun _ => show atWork none _ from k.rest)
  case h_3 => exact same
  case h_4 => exact Answer.leaves_common (Answer.leaves_unless fun _ => k.setClock)
  case h_5 => exact same
  case h_6 => exact k.reqSetup ..
  case h_7 => exact Answer.leaves_common (Answer.leaves_tableRequest k.leaves_rest)
  case h_8 => exact k.reqRoomGet ..
  case h_9 => exact k.reqRoomResetIssue ..
  case h_10 => exact k.reqRoomLockout ..
  case h_11 => exact k.reqNodeSet ..
  case h_12 => exact k.reqNodeGet ..
  case h_13 => exact k.reqNodeRemove ..
  case h_14 => exact k.reqStock ..
  case h_15 => exact Answer.leaves_common (Answer.leaves_tableRequest k.leaves_rest)
  case h_16 => exact k.groupRequest ..
  case h_17 => exact k.groupRequest ..
  case h_18 => exact k.groupRequest ..
  case h_19 => exact Answer.leaves_common (Answer.leaves_tableRequest k.leaves_rest)
  case h_20 => exact read
  case h_21 => exact k.reqIssue ..
  case h_22 => exact k.reqCancel ..
  case h_23 => exact k.reqRevoke ..
  case h_24 =>
    exact Answer.leaves_common (Answer.leaves_unless fun _ => Answer.leaves_unless fun _ =>
      Answer.leaves_unless fun _ => Answer.leaves_unless fun _ => k.leaves_rest)
  case h_25 => exact k.reqCredGet ..
  case h_26 => exact Answer.leaves_common (Answer.leaves_unless fun _ => k.leaves_rest)
  case h_27 => exact k.reqCardReadLast ..
  case h_28 => exact Answer.leaves_common k.leaves_rest
  case h_29 => exact k.reqTabGet ..
  case h_30 =>
    exact Answer.leaves_common (Answer.leaves_unless fun _ => Answer.leaves_unless fun _ =>
      Answer.leaves_unless fun _ => Answer.leaves_unless fun _ => Answer.leaves_ite (fun _ => k) fun _ => k.leaves_rest)
  case h_31 => exact k.reqMinibarHold ..
  case h_32 => exact read
  case h_33 =>
    exact Answer.leaves_common (Answer.leaves_unless fun _ => Answer.leaves_ite (fun _ => k) fun _ =>
      Answer.leaves_unless fun _ => k.leaves_rest)
  case h_34 => exact k.reqDoorUnlock ..
  case h_35 => exact k.reqLineEnable ..
  case h_36 => exact k.reqLineDisable ..
  case h_37 =>
    exact Answer.leaves_common (Answer.leaves_unless fun _ => Answer.leaves_ite (fun _ => k.resetLine) fun _ => trivial)
  case h_38 => exact Answer.leaves_common (Answer.leaves_tableRequest k.leaves_rest)
  case h_39 => exact read
  case h_40 => exact Answer.leaves_common (Answer.leaves_unless fun _ => k.leaves_rest)
  case h_41 => exact Answer.leaves_common k.beginDrain

theorem answer {a : Answer} (k : atWork none s) (ha : a.leaves (atWork none)) (tag : List (Fin 10)) :
    atWork none (answer tag s a) := by
  have replied : ∀ {t : State} {l : List RLine}, atWork none t → atWork none (placeReply tag l t) := fun k => k.rest
  cases a with
  | reply t l => exact replied ha
  | later t => exact ha
  | refuse e => exact replied k

/-! ## The desk link -/

theorem takeOldestRequest (k : atWork none s) : atWork none (takeOldestRequest s) := by
  unfold Machine.takeOldestRequest; split
  · exact k
  · split
    · have taken : ∀ f, atWork none (modInbound f s) := fun f => k.rest
      unfold runLine; split
      · unfold runRequest; split
        · next a ha =>
          obtain ⟨c, -, hc⟩ := Option.bind_eq_some_iff.1 ha
          exact (taken _).answer ((taken _).verbAnswer hc) _
        · exact k.rest
      · exact taken _
    · exact k

theorem lineFeed (k : atWork none s) {e : Bool} : atWork none (lineFeed e s) :=
  (k.rest (t := endLine (modInbound (Inbound.receive 0x0A e) s))).takeOldestRequest

theorem lineSent (k : atWork none s) : atWork none (lineSent s) := by
  have free : atWork none (s.onLink fun l => { l with tx := none }) := k.rest
  unfold Machine.lineSent; dsimp only; split
  · split
    · unfold slotEmpties; dsimp only; split
      · exact free.rest
      · exact (free.rest (t := State.onLink _ fun l => { l with slot := none })).takeOldestRequest
    · exact free
  · exact free

/-! ## Every command -/

theorem next (k : atWork none s) : goesOn (atWork none) (.next s) := ⟨s, rfl, k⟩

theorem done (k : atWork none s) : goesOn (atWork none) (done s) := ⟨_, rfl, k.finish⟩

theorem ite {c : Prop} [Decidable c] {o o' : Host.Outcome State Fault Refusal} (ho : c → goesOn (atWork none) o)
    (ho' : goesOn (atWork none) o') : goesOn (atWork none) (if c then o else o') := by
  split
  · next hc => exact ho hc
  · exact ho'

theorem request (k : atWork none s) {c : Instr} {h : ReqHead} (hi : requestHead c = some h) :
    goesOn (atWork none) (exec c s) := by
  obtain ⟨a, ha, he⟩ := exec_request hi s
  rw [he]
  exact ite (fun _ => (k.answer (k.verbAnswer ha) _).done) k.next

/-- An event that leaves the line masters and the nodes. -/
theorem doneRest (k : atWork none s) (hl : t.lines = s.lines := by simp) (hn : t.nodes = s.nodes := by simp) :
    goesOn (atWork none) (Machine.done t) := (k.rest hl hn).done

/-- Every command leaves the lines at work. -/
theorem exec (k : atWork none s) (c : Instr) : goesOn (atWork none) (exec c s) := by
  have power : ∀ f, atWork none (s.onPower f) := fun f => k.rest
  cases hi : requestHead c with
  | some h => exact k.request hi
  | none =>
    cases c with
    | powerOn straps lost => exact ite (fun _ => k.next) (ite (fun _ => k.rest.next) (coldStart _ _).done)
    | pfwAsserted => exact ite (fun _ => (power _).beginDrain.done) (power _).next
    | pfwDeasserted straps => exact ite (fun _ => (coldStart _ _).done) (power _).next
    | resetAsserted => exact (goDark _).next
    | resetReleased straps => exact ite (fun _ => (coldStart _ _).done) (power _).next
    | powerDown =>
      show goesOn _ (execPowerDown s)
      unfold execPowerDown; split
      · exact k.next
      · exact ite (fun _ => k.doneRest) k.next
    | postDrainColdStart straps =>
      show goesOn _ (execPostDrainColdStart straps s)
      unfold execPostDrainColdStart; split
      · exact k.next
      · exact ite (fun _ => (coldStart _ _).done) k.next
    | hotelClockTick =>
      have ticked : atWork none (s.onClock HotelClock.tick) := k.rest
      exact ite (fun _ => ticked.doneRest) ticked.next
    | deskLineReceived e => exact ite (fun _ => k.lineFeed.done) k.next
    | lineDiscardCharacter => exact ite (fun _ => k.doneRest) k.next
    | takeRequest => exact k.takeOldestRequest.done
    | holdInAsserted => exact (k.rest (t := s.onLink _)).next
    | holdInReleased => exact k.doneRest
    | transmitLineComplete =>
      show goesOn _ (execTransmitLineComplete s)
      unfold execTransmitLineComplete; split
      · exact k.lineSent.done
      · exact k.next
    | identityProgramComplete sound =>
      show goesOn _ (execIdentityProgramComplete sound s)
      unfold execIdentityProgramComplete; split
      · exact k.programCompletes.done
      · exact k.next
    | intentRecordProgrammed => exact ite (fun _ => k.doneRest) k.next
    | cardInChange present =>
      have level : atWork none (s.onEnc fun e => { e with cardIn := present }) := k.rest
      show goesOn _ (execCardInChange present s)
      unfold execCardInChange; dsimp only; split
      · exact ite (fun _ => level.doneRest) level.done
      · exact level.done
    | cardWaitExpiry =>
      show goesOn _ (execCardWaitExpiry s)
      unfold execCardWaitExpiry; split
      · exact ite (fun _ => k.doneRest) k.next
      · exact k.next
    | writeImageAnswer answer =>
      show goesOn _ (execWriteImageAnswer answer s)
      unfold execWriteImageAnswer; split
      · exact k.doneRest
      · exact k.next
    | readImageAnswer answer =>
      show goesOn _ (execReadImageAnswer answer s)
      unfold execReadImageAnswer; split
      · exact k.doneRest
      · exact k.next
    | headTimeout =>
      show goesOn _ (execHeadTimeout s)
      unfold execHeadTimeout; split
      · exact k.doneRest
      · exact k.doneRest
      · exact k.next
    | heldOutcomeRetry => exact ite (fun _ => k.doneRest) k.next
    | cycleBegin i =>
      refine ite (fun hc => (k.cycleBegins ?_).done) k.next
      simp only [Bool.and_eq_true] at hc
      exact hc.1.2
    | nodeReply i leg frame =>
      show goesOn _ (execNodeReply i leg frame s)
      unfold execNodeReply; split
      · exact ite (fun _ => k.received.done) k.next
      · exact k.next
    | replyTimeout i =>
      show goesOn _ (execReplyTimeout i s)
      unfold execReplyTimeout; split
      · exact k.expired.done
      · exact k.next
    | broadcastSent i =>
      show goesOn _ (execBroadcastSent i s)
      unfold execBroadcastSent; split
      · exact ite (fun _ => k.next) k.broadcastEnds.done
      · exact k.next
    | directedFrameSent i =>
      show goesOn _ (execDirectedFrameSent i s)
      unfold execDirectedFrameSent; split
      · refine ite (fun _ => ?_) k.next
        exact (k.modLineSettled (i := i) (fun _ _ => .inl rfl) fun c hc => k.cycles i c hc).done
      · exact k.next
    | latchEnd i a =>
      show goesOn _ (execLatchEnd i a s)
      unfold execLatchEnd; split
      · exact k.next
      · refine ite (fun _ => ?_) k.next
        have shut := fun f => (keepsPresent.refl s).modBar (i := i) (a := a) (f := f)
        have rested : ∀ {x : State}, keepsPresent s x → x.lines = s.lines →
            goesOn (atWork none) (Machine.done (Machine.proceed i (Machine.placeOrder i (relatch a) x))) :=
          fun hx hl => (k.unsettle.nodes hx hl).placeOrder.proceed.done
        unfold endUnused; dsimp only; split
        · exact rested (shut _).enterSettling (by simp)
        · exact rested (shut _).comeToRest (by simp)
    | graceEnd i a =>
      show goesOn _ (execGraceEnd i a s)
      unfold execGraceEnd; split
      · exact k.next
      · exact ite (fun _ => (k.nodes (keepsPresent.refl s).graceEnds).done) k.next
    | chargeWaitRetry =>
      have tried : atWork none (s.onSignals fun g => { g with minibar := false }) := k.rest
      show goesOn _ (execChargeWaitRetry s)
      unfold execChargeWaitRetry
      refine ite (fun _ => (?_ : goesOn _ (Machine.done _))) k.next
      split
      · exact (tried.nodes (keepsPresent.refl _).finaliseAll).done
      · exact (tried.nodes ((keepsPresent.refl _).retryWaiting _)).done
    | journalProgramComplete sound =>
      show goesOn _ (execJournalProgramComplete sound s)
      unfold execJournalProgramComplete; split
      · exact k.programCompletes.done
      · exact k.next
    | heldOverrunAccept => exact ite (fun _ => k.doneRest) k.next
    | preErase => exact ite (fun _ => k.doneRest) k.next
    | tableLogProgramComplete sound =>
      show goesOn _ (execTableLogProgramComplete sound s)
      unfold execTableLogProgramComplete; split
      · exact k.programCompletes.done
      · exact k.next
    | waitingSetPlacement =>
      have tried : atWork none (s.onSignals fun g => { g with waiting := false }) := k.rest
      exact ite (fun _ => (foldl (fun _ _ h => h.rest) _ tried).done) k.next
    | copyForwardComplete sound =>
      show goesOn _ (execCopyForwardComplete sound s)
      unfold execCopyForwardComplete; split
      · exact k.programCompletes.done
      · exact k.next
    | eraseComplete sound =>
      show goesOn _ (execEraseComplete sound s)
      unfold execEraseComplete; split
      · exact k.doneRest
      · exact k.next
    | eraseSuspend =>
      show goesOn _ (execEraseSuspend s)
      unfold execEraseSuspend; split
      · exact ite (fun _ => k.next) k.doneRest
      · exact k.next
    | eraseRunLimit =>
      show goesOn _ (execEraseRunLimit s)
      unfold execEraseRunLimit; split
      · exact k.doneRest
      · exact k.next
    | programTimeout =>
      show goesOn _ (execProgramTimeout s)
      unfold execProgramTimeout; split
      · exact k.programCompletes.done
      · exact k.next
    | powerLoss => exact (goDark _).next
    | characterReceived c e =>
      exact ite (fun _ => k.next) (ite (fun _ => k.lineFeed.done) (ite (fun _ => k.doneRest) k.doneRest))
    | suspensionTakesEffect =>
      show goesOn _ (execSuspensionTakesEffect s)
      unfold execSuspensionTakesEffect; split
      · exact ite (fun _ => k.doneRest) k.next
      · exact k.next
    | _ => cases hi

end atWork

/-- Settles O8: an operation that takes a line master from its rest or its exchange is followed by `proceed`, which
settles the line (`atWork.proceed`). -/
theorem linesStayAtWork : Obligations.LinesStayAtWork := fun s t hs ht => by
  unfold step at ht; split at ht
  · cases ht; exact hs
  · next c q _ =>
    have k : atWork none (s.onPending fun _ => q) := ((linesAtWork_iff s).1 hs).rest
    obtain ⟨v, hv, h⟩ := k.exec c
    rw [hv] at ht; cases ht
    exact (linesAtWork_iff t).2 h

end Sys2Proof.Machine

/-! ## Requests: what their fields give, and the answers that change nothing -/

namespace Sys2Proof.Machine

set_option Elab.async false

@[simp] theorem argGet_given {α : Type} (v : α) : argGet (.given v) = some v := rfl
@[simp] theorem argGet_absent {α : Type} : argGet (.absent : Arg α) = none := rfl
@[simp] theorem argSent_given {α : Type} (v : α) : argSent (.given v) = true := rfl
@[simp] theorem argSent_absent {α : Type} : argSent (.absent : Arg α) = false := rfl
@[simp] theorem argMissing_given {α : Type} (v : α) : argMissing (.given v) = false := rfl
@[simp] theorem argMissing_absent {α : Type} : argMissing (.absent : Arg α) = true := rfl
@[simp] theorem argMalformed_given {α : Type} (v : α) : argMalformed (.given v) = false := rfl
@[simp] theorem argMalformed_absent {α : Type} : argMalformed (.absent : Arg α) = false := rfl
@[simp] theorem argNat_given (n : Nat) : argNat (.given n) = n := rfl
@[simp] theorem argOr_given {α : Type} (v w : α) : argOr (.given v) w = v := rfl
@[simp] theorem argOr_absent {α : Type} (w : α) : argOr .absent w = w := rfl

theorem argMalformed_eq_false {α : Type} {a : Arg α} (h : a ≠ .malformed) : argMalformed a = false := by
  cases a <;> first | rfl | exact absurd rfl h

@[simp] theorem badReq_given (n lo hi : Nat) : badReq (.given n) lo hi = false ↔ lo ≤ n ∧ n ≤ hi := by
  simp [badReq]

@[simp] theorem namedLine_lineNum (l : LineId) : namedLine (.given (lineNum l)) = l := by cases l <;> rfl

@[simp] theorem badLine_lineNum (l : LineId) : badLine (.given (lineNum l)) = false := by cases l <;> rfl

theorem badNode_eq_false (l : LineId) {a : Nat} (h1 : 1 ≤ a) (h2 : a ≤ 120) :
    badNode (.given (lineNum l)) (.given a) = false := by
  have hl : badReq (.given (lineNum l)) 1 4 = false := badLine_lineNum l
  simp [badNode, hl, h1, h2]

theorem badRoom_eq_false {i : Nat} (h : i ≤ 511) : badRoom (.given i) = false := by simp [badRoom, h]

section
variable {h : ReqHead} {s : State}

/-- A request that is answered on the state it is put to. -/
theorem answers_same (a : accepts h s) {always : Bool} {k : Answer} {lines : List RLine} (hk : k = .reply s lines) :
    ∃ t, desk h.tag s (common always h s k) = .next t ∧ answersOnly h lines [] [] [] s t :=
  ⟨_, desk_reply a hk, answersOnly_refuse h lines s⟩

/-- A request that is refused by its verb. -/
theorem answers_refused (a : accepts h s) {always : Bool} {k : Answer} {e : ErrCode} (hk : k = .refuse e) :
    ∃ t, desk h.tag s (common always h s k) = .next t ∧ answersOnly h [.err e] [] [] [] s t :=
  ⟨_, by rw [desk_common a, hk]; rfl, answersOnly_refuse h _ s⟩

/-- A request that is answered while DRAINING too. -/
theorem answers_always (ht : s.takesRequest = true) (hf : h.badField = false) {k : Answer} {lines : List RLine}
    (hk : k = .reply s lines) :
    ∃ t, desk h.tag s (common true h s k) = .next t ∧ answersOnly h lines [] [] [] s t := by
  refine ⟨finish (placeReply h.tag lines s), ?_, answersOnly_refuse h lines s⟩
  simp [desk, common, done, ht, hf, hk, answer]

end

/-! ## The tests every request meets first (O9) -/

/-- Each verb puts its own tests behind the two every request meets first. -/
theorem verbAnswer_common {i : Instr} {h : ReqHead} (hi : requestHead i = some h) (s : State) :
    ∃ k, verbAnswer i s = some (common (answeredInDrain i) h s k) := by
  cases i <;> first | cases hi; exact ⟨_, rfl⟩ | cases hi

/-- Settles O9, by the place of the common tests in every verb. -/
theorem commonTestsOfRequests : Obligations.CommonTestsOfRequests := by
  intro i h s hi
  obtain ⟨a, ha, he⟩ := exec_request hi s
  obtain ⟨k, hk⟩ := verbAnswer_common hi s
  obtain rfl : a = common (answeredInDrain i) h s k := Option.some.inj (ha.symm.trans hk)
  have refused : ∀ e, s.takesRequest = true → common (answeredInDrain i) h s k = .refuse e →
      ∃ t, exec i s = .next t ∧ answersOnly h [.err e] [] [] [] s t := by
    intro e ht hc
    exact ⟨_, by rw [he, hc, desk, if_pos ht]; rfl, answersOnly_refuse h _ s⟩
  refine ⟨fun ht => ?_, fun ht hd hn => refused _ ht ?_, fun ht hd hf => refused _ ht ?_⟩
  · rw [he, desk, ht]; rfl
  · simp [common, hd, hn]
  · rcases hd with hd | hd <;> simp [common, hd, hf]

/-! ## A refusal changes nothing (O10) -/

/-- An answer that is a reply is no refusal in a reply's form, and one that is deferred leaves the slot as it is. -/
def Answer.speaks (s : State) : Answer → Prop
  | .reply _ l => ∀ e, l ≠ [.err e]
  | .later t => t.link.slot = s.link.slot
  | .refuse _ => True

namespace Answer

variable {s : State} {k : Answer}

theorem speaks_common {always : Bool} {h : ReqHead} (hk : k.speaks s) : (common always h s k).speaks s := by
  unfold common; split
  · trivial
  · split
    · trivial
    · exact hk

theorem speaks_tableRequest {a b c : Bool} {keys : List EntryKey} (hk : k.speaks s) :
    (tableRequest s a b c keys k).speaks s := by
  unfold tableRequest; split
  · trivial
  · split
    · trivial
    · split
      · trivial
      · split
        · trivial
        · split
          · trivial
          · exact hk

theorem speaks_unless {c : Prop} [Decidable c] {e : ErrCode} (hk : k.speaks s) : (if c then .refuse e else k).speaks s := by
  split
  · trivial
  · exact hk

theorem speaks_ite {c : Prop} [Decidable c] {k' : Answer} (hk : k.speaks s) (hk' : k'.speaks s) :
    (if c then k else k').speaks s := by
  split
  · exact hk
  · exact hk'

/-- A reply whose first line is none of a refusal's. -/
theorem speaks_reply {t : State} {x : RLine} {l : List RLine} (hx : ∀ e, x ≠ .err e := by exact nofun) :
    (Answer.reply t (x :: l)).speaks s := fun e he => hx e (List.cons.inj he).1

end Answer

open Answer in
/-- No verb replies with an error line: what is refused is answered by a refusal. -/
theorem verbAnswer_speaks {i : Instr} {s : State} {a : Answer} (ha : verbAnswer i s = some a) : a.speaks s := by
  unfold verbAnswer at ha
  split at ha <;> cases ha <;> refine speaks_common ?_
  case h_2 => exact speaks_unless (speaks_unless (speaks_unless (speaks_unless rfl)))
  case h_4 => exact speaks_unless speaks_reply
  case h_8 =>
    refine speaks_unless ?_
    dsimp only; split
    · trivial
    · exact speaks_reply
  case h_9 =>
    refine speaks_tableRequest ?_
    split
    · trivial
    · exact speaks_reply
  case h_10 =>
    refine speaks_tableRequest ?_
    split
    · trivial
    · exact speaks_reply
  case h_12 =>
    refine speaks_unless ?_
    dsimp only; split
    · trivial
    · exact speaks_reply
  case h_13 =>
    refine speaks_tableRequest ?_
    split
    · trivial
    · exact speaks_reply
  case h_14 =>
    refine speaks_tableRequest ?_
    split
    · trivial
    · exact speaks_reply
  case h_21 =>
    split
    · trivial
    · refine speaks_unless (speaks_unless (speaks_unless (speaks_unless (speaks_unless ?_))))
      split
      · trivial
      · refine speaks_unless (speaks_unless ?_)
        split
        · trivial
        · exact speaks_unless speaks_reply
  case h_22 =>
    refine speaks_unless ?_
    split
    · trivial
    · exact speaks_unless speaks_reply
  case h_23 =>
    refine speaks_unless ?_
    split
    · trivial
    · unfold revokeFound; split
      · trivial
      · trivial
      · exact speaks_reply
      · exact speaks_unless speaks_reply
      · exact speaks_unless (speaks_unless speaks_reply)
  case h_24 => exact speaks_unless (speaks_unless (speaks_unless (speaks_unless speaks_reply)))
  case h_25 =>
    refine speaks_unless (speaks_unless (speaks_ite ?_ (speaks_unless speaks_reply)))
    unfold credByNumber; split
    · exact speaks_reply
    · exact speaks_reply
    · trivial
  case h_26 => exact speaks_unless speaks_reply
  case h_27 =>
    refine speaks_unless ?_
    split
    · trivial
    · exact speaks_reply
  case h_29 =>
    refine speaks_unless ?_
    dsimp only; split
    · trivial
    · exact speaks_reply
  case h_30 =>
    exact speaks_unless (speaks_unless (speaks_unless (speaks_unless (speaks_ite speaks_reply speaks_reply))))
  case h_31 =>
    refine speaks_unless ?_
    split
    · trivial
    · exact speaks_reply
  case h_33 => exact speaks_unless (speaks_ite speaks_reply (speaks_unless speaks_reply))
  case h_34 =>
    refine speaks_unless ?_
    split
    · trivial
    · exact speaks_unless (speaks_unless speaks_reply)
  case h_35 => exact speaks_unless (speaks_unless speaks_reply)
  case h_36 => exact speaks_unless speaks_reply
  case h_37 => exact speaks_unless (speaks_ite speaks_reply trivial)
  case h_20 | h_32 | h_39 | h_40 => exact speaks_unless speaks_reply
  case h_6 | h_7 | h_11 | h_15 | h_16 | h_17 | h_18 | h_19 | h_38 => exact speaks_tableRequest speaks_reply
  all_goals exact speaks_reply

/-- A slot that was empty is so when the step has ended. -/
theorem finish_slot_none {s : State} (h : s.link.slot = none) : (finish s).link.slot = none := by
  simpa [h] using (finish_ends s).slot

/-- What the slot holds when the step has ended is what was placed in it. -/
theorem replied_finish {h : ReqHead} {lines : List RLine} {tag : List (Fin 10)} {l : List RLine} {s : State}
    (hr : replied h lines (finish (placeReply tag l s))) : lines = l := by
  obtain ⟨n, hn⟩ := hr
  have := (finish_ends (placeReply tag l s)).slot
  rw [hn, placeReply_slot] at this
  simpa using (Prod.mk.inj (Option.some.inj this)).2

/-- Settles O10: a verb refuses before it changes anything (`Answer.refuse` leaves the state it is given on), and no other
answer looks like a refusal. -/
theorem refusalsChangeNothing : Obligations.RefusalsChangeNothing := by
  intro i h s t e hi ht hx hr
  obtain ⟨a, ha, he⟩ := exec_request hi s
  have speaks := verbAnswer_speaks ha
  rw [he, desk, if_pos ht, done] at hx
  cases hx
  cases a with
  | reply u l => exact absurd (replied_finish hr).symm (speaks e)
  | later u =>
    obtain ⟨n, hn⟩ := hr
    have hs : s.link.slot = none := by
      simp only [State.takesRequest, Bool.and_eq_true, Option.isNone_iff_eq_none] at ht
      exact ht.1.2
    rw [answer, finish_slot_none (speaks.trans hs)] at hn
    cases hn
  | refuse c =>
    obtain rfl : e = c := by simpa using replied_finish hr
    exact answersOnly_refuse h _ s

end Sys2Proof.Machine

namespace Sys2Proof.Machine

set_option Elab.async false

/-! ## The part right after reset (O3, O4) -/

theorem reset_line (i : LineId) : State.reset.line i = .start := by cases i <;> rfl

/-- Settles O3, by reading `State.reset`. -/
theorem resetValues : Obligations.ResetValues := by
  refine ⟨rfl, rfl, rfl, fun _ => rfl, fun _ _ => rfl, fun _ => rfl, fun _ => rfl, fun _ => rfl, rfl, rfl, rfl, rfl,
    fun i => ?_, rfl, rfl, rfl, rfl, rfl, rfl, fun c => ?_, rfl⟩
  · rw [reset_line]; exact ⟨rfl, rfl, rfl⟩
  · cases c <;> rfl

/-- Settles O4: the tables of a new part are empty and its line masters DISABLED. -/
theorem resetIsSound : Obligations.ResetIsSound := by
  have tables : State.reset.canonical := by
    constructor <;> first | exact List.Pairwise.nil | exact fun _ h => nomatch h
  refine ⟨tables, ⟨?_, ?_, fun i => ?_⟩, ⟨by decide, by decide⟩, (linesAtWork_iff _).2 (.of_start reset_line)⟩
  · decide
  · decide
  · rw [reset_line]; decide

/-! ## Requests that read (O11 to O14) -/

/-- Settles O11. -/
theorem clockPriceAndIdentityReads : Obligations.ClockPriceAndIdentityReads := by
  intro h s a
  refine ⟨answers_same a rfl, fun i h1 h2 => answers_same a ?_, answers_same a rfl⟩
  rw [(badReq_given i 1 127).2 ⟨h1, h2⟩]; rfl

/-- Settles O12: each read answers by the lookup of its room or its node. -/
theorem roomTabAndNodeReads : Obligations.RoomTabAndNodeReads := by
  intro h s a
  refine ⟨fun i r hi hr => ⟨answers_same a ?_, answers_same a ?_⟩,
    fun i hi hr => ⟨answers_refused a ?_, answers_refused a ?_⟩,
    fun l b n h1 h2 hn => answers_same a ?_, fun l b h1 h2 hn => answers_refused a ?_⟩
  · simp [badRoom_eq_false hi, hr]
  · simp [badRoom_eq_false hi, hr]
  · simp [badRoom_eq_false hi, hr]
  · simp [badRoom_eq_false hi, hr]
  · simp [badNode_eq_false l h1 h2, hn]
  · simp [badNode_eq_false l h1 h2, hn]

/-- The GUEST credentials that name a room. -/
theorem roomOf_eq_some (r : CredRec) (i : Nat) : r.roomOf = some i ↔ r.kind = .guest ∧ r.room = i := by
  unfold CredRec.roomOf; split <;> simp_all

/-- Settles O13: CRED GET answers by the first of the key table and the list that holds the number. -/
theorem credentialReads : Obligations.CredentialReads := by
  intro h s a
  refine ⟨fun n h1 h2 => ?_, fun i r hi hr => answers_same a ?_, ?_⟩
  · have byNumber : (if argSent (.given n) = argSent (.absent : Arg Nat) then Answer.refuse .field
        else if badOpt (.given n) 1 max32 || badOpt .absent 0 511 then .refuse .field
        else if argSent (.given n) then credByNumber (argNat (.given n)) s
        else credByRoom .absent s) = credByNumber n s := by
      have inRange : badOpt (.given n) 1 max32 = false := (badReq_given n 1 max32).2 ⟨h1, h2⟩
      have noRoom : badOpt .absent 0 511 = false := rfl
      rw [inRange, noRoom]; rfl
    cases hc : s.findCred n with
    | some e => exact answers_same a (byNumber.trans (by simp [credByNumber, hc, State.credLine]))
    | none =>
      cases hl : s.listEntry n with
      | some x =>
        obtain ⟨place, seq, x⟩ := x
        exact answers_same a (byNumber.trans (by simp [credByNumber, hc, hl, entryLine, shown]))
      | none => exact answers_refused a (byNumber.trans (by simp [credByNumber, hc, hl]))
  · have inRange : badOpt (.given i) 0 511 = false := (badReq_given i 0 511).2 ⟨Nat.zero_le i, hi⟩
    have noNumber : badOpt .absent 1 max32 = false := rfl
    simp [inRange, noNumber, credByRoom, State.noRoom, hr, roomOf_eq_some]
    exact fun _ _ _ _ _ => rfl
  · cases hl : s.enc.lastRead with
    | some r => exact answers_same a (by simp [hl])
    | none => exact answers_refused a (by simp [hl])

/-- Settles O14. -/
theorem statusAndLineReads : Obligations.StatusAndLineReads := by
  intro h s ht hf
  refine ⟨answers_always ht hf rfl, fun hd i => answers_same ⟨ht, hd, hf⟩ ?_⟩
  simp only [badLine_lineNum, namedLine_lineNum]
  rfl

/-! ## NOTICES (O33) -/

/-- An entry to which occurrences may have been posted: enabled as it was, and as it was where it is not (R178). -/
def Notice.mayOccur (n m : Notice) : Prop := m.enabled = n.enabled ∧ (n.enabled = false → m = n)

theorem Notice.mayOccur_refl (n : Notice) : n.mayOccur n := ⟨rfl, fun _ => rfl⟩

theorem Notice.mayOccur_trans {n m k : Notice} (h : n.mayOccur m) (g : m.mayOccur k) : n.mayOccur k :=
  ⟨g.1.trans h.1, fun hn => (g.2 (h.1.trans hn)).trans (h.2 hn)⟩

theorem Notice.mayOccur_occur (n : Notice) (d : Detail) : n.mayOccur (n.occur d) := by
  unfold Notice.occur; split
  · next h => exact ⟨rfl, fun hn => by rw [h] at hn; cases hn⟩
  · exact n.mayOccur_refl

/-- The STORE entry of a state. -/
def State.storeNotice (s : State) : Notice := s.link.notices.get .store

theorem post_store_notice (d : Detail) (s : State) : s.storeNotice.mayOccur (post .store d s).storeNotice := by
  have : (post .store d s).storeNotice = s.storeNotice.occur d := by
    simp [State.storeNotice, post]
  rw [this]; exact Notice.mayOccur_occur _ _

theorem stall_notice (s : State) : s.storeNotice.mayOccur (stall s).storeNotice := by
  unfold stall; split
  · exact Notice.mayOccur_refl _
  · exact post_store_notice _ (s.onStore _)

theorem countErased_notice (s : State) : s.storeNotice.mayOccur (countErased s).storeNotice := by
  unfold countErased; split
  · exact Notice.mayOccur_refl _
  · split
    · exact Notice.mayOccur_refl _
    · exact stall_notice s

theorem takeLast_notice (b : Bool) (k : Nat) (s : State) : s.storeNotice.mayOccur (takeLast b k s).storeNotice := by
  have held : (if s.store.hasReclaim && !s.draining then holdWriter s else s).storeNotice = s.storeNotice := by
    split <;> rfl
  unfold takeLast; dsimp only
  generalize (if s.store.hasReclaim && !s.draining then holdWriter s else s) = u at held ⊢
  split
  · rw [held]; exact Notice.mayOccur_refl _
  · rw [← held]; exact countErased_notice (u.onStore fun t => { t with head := k })

theorem moveLogHead_notice (b : Bool) (s : State) : s.storeNotice.mayOccur (moveLogHead b s).storeNotice := by
  unfold moveLogHead; split
  · exact Notice.mayOccur_refl _
  · split
    · exact stall_notice s
    · exact takeLast_notice b _ s
    · exact countErased_notice (s.onStore _)

theorem pumpEngine_notice (s : State) : s.storeNotice.mayOccur (pumpEngine s).storeNotice := by
  unfold pumpEngine; split
  · exact Notice.mayOccur_refl _
  · split
    · exact Notice.mayOccur_refl _
    · unfold orderSuspension; split <;> exact Notice.mayOccur_refl _
    · split
      · unfold serve
        split <;> split
        · exact Notice.mayOccur_refl _
        · exact Notice.mayOccur_refl _
        · exact Notice.mayOccur_refl _
        · exact Notice.mayOccur_refl _
        · exact Notice.mayOccur_refl _
        · exact Notice.mayOccur_refl _
        · exact Notice.mayOccur_refl _
        · exact moveLogHead_notice true s
      · unfold resume; split <;> exact Notice.mayOccur_refl _

/-- With a reply in the slot no notice is begun as the step ends. -/
theorem finish_storeNotice {s : State} (h : s.link.slot.isSome = true) :
    s.storeNotice.mayOccur (finish s).storeNotice := by
  have r := (pumpEngine_posts s).rest
  have slot : (pumpEngine s).link.slot = s.link.slot := by rw [← r]
  have kept : (finish s).storeNotice = (pumpEngine s).storeNotice := by
    unfold State.storeNotice finish
    rw [(pumpTx_keeps (pumpEngine s)).notices (slot ▸ h)]
  rw [kept]; exact pumpEngine_notice s

/-- The entries of the table that NOTICES leaves. -/
theorem noticeArgs_get (v : NoticeClass → Arg Bool) (t : Notices) (c : NoticeClass) :
    ((⟨v .alarm, v .power, v .store, v .line, v .issue, v .journal, v .minibar, v .clock⟩ : NoticeArgs).apply t).get c =
      (t.get c).enable (v c) := by cases c <;> rfl

theorem Notice.enable_eq (a : Arg Bool) (n : Notice) : n.enable a = match a with
    | .given true => { n with enabled := true }
    | .given false => if n.enabled = true then ⟨false, false, 0, none⟩ else n
    | _ => n := by
  rcases a with _ | _ | b
  · rfl
  · rfl
  · cases b <;> rfl

/-- Settles O33: each class by its own value (`Notice.enable_eq`); what the engine takes up may post to STORE alone. -/
theorem noticesAreSet : Obligations.NoticesAreSet := by
  intro h s v a hv
  let args : NoticeArgs := ⟨v .alarm, v .power, v .store, v .line, v .issue, v .journal, v .minibar, v .clock⟩
  let u := s.onLink fun l => { l with notices := args.apply s.link.notices }
  have good : args.bad = false := by
    simp [args, NoticeArgs.bad, argMalformed_eq_false (hv _)]
  have entry : ∀ c, u.link.notices.get c = (s.link.notices.get c).enable (v c) := fun c => noticeArgs_get v _ c
  have other : ∀ c, c ≠ .store →
      (finish (placeReply h.tag [.notices u.link.notices.enabledMarks u.link.notices.pendingMarks] u)).link.notices.get c =
        (s.link.notices.get c).enable (v c) :=
    fun c hc => ((finish_ends _).notices rfl c hc).trans (entry c)
  have store := finish_storeNotice (s := placeReply h.tag
    [.notices u.link.notices.enabledMarks u.link.notices.pendingMarks] u) rfl
  have storeEntry : (placeReply h.tag [.notices u.link.notices.enabledMarks u.link.notices.pendingMarks] u).storeNotice =
      (s.link.notices.get .store).enable (v .store) := entry .store
  rw [storeEntry] at store
  refine ⟨_, desk_reply a (u := u) (by rw [if_neg (by simp [good, args])]), fun c hc => ?_, fun hf he => ?_, fun ht => ?_, ?_⟩
  · exact (other c hc).trans (Notice.enable_eq _ _)
  · rw [hf, Notice.enable_eq] at store
    simp only [he, if_true] at store
    have := store.2 rfl
    exact ⟨congrArg Notice.enabled this, congrArg Notice.pending this⟩
  · rw [ht] at store; exact store.1
  · have lines : [RLine.notices u.link.notices.enabledMarks u.link.notices.pendingMarks] =
        [.notices (allClasses.map fun c => match v c with
          | .given b => b
          | _ => (s.link.notices.get c).enabled)
        (allClasses.map fun c => if v c = .given false ∧ (s.link.notices.get c).enabled = true then false
          else (s.link.notices.get c).pending)] := by
      refine congrArg₂ (fun x y => [RLine.notices x y]) (List.map_congr_left fun c _ => ?_)
        (List.map_congr_left fun c _ => ?_)
      · rw [entry, Notice.enable_eq]
        rcases hc : v c with _ | _ | b
        · rfl
        · exact absurd hc (hv c)
        · cases b
          · dsimp only; split <;> simp_all
          · rfl
      · rw [entry, Notice.enable_eq]
        rcases hc : v c with _ | _ | b
        · simp
        · exact absurd hc (hv c)
        · cases b
          · simp only [true_and]; split <;> rfl
          · simp
    have answered : answersOnly h [RLine.notices u.link.notices.enabledMarks u.link.notices.pendingMarks] [] [] allClasses s
        (finish (placeReply h.tag [.notices u.link.notices.enabledMarks u.link.notices.pendingMarks] u)) :=
      answersOnly_reply (keepsCells_of_store rfl) (queuesOnly_of_store _ rfl)
        ⟨rfl, fun c hc => absurd (by cases c <;> decide) hc⟩ fun p hp => by cases p <;> first | rfl | simp at hp
    exact lines.subst (motive := fun l => answersOnly h l [] [] allClasses s _) answered

/-! ## The amount of a line (O45) -/

/-- Settles O45: the discount is at most half the price, and each stage is rounded to the nearest. -/
theorem theAmountOfALine : Obligations.TheAmountOfALine := by
  rintro p dis d n t rfl rfl rfl hdis
  have hd : (p.price * dis + 5000) / 10000 ≤ p.price := by
    have : p.price * dis ≤ p.price * 5000 := Nat.mul_le_mul_left _ hdis
    omega
  refine ⟨rfl, hd, fun h0 => ?_, fun hp ht => ?_⟩
  · simp [lineAmount, h0]
  · have hn : p.price - (p.price * dis + 5000) / 10000 ≤ 65535 := by omega
    have := Nat.mul_le_mul hn ht
    unfold lineAmount
    dsimp only
    omega

end Sys2Proof.Machine

/-! ## What the operations of a command change before its step ends

`alters` is the frame of `answersOnly` and of `changesOnly` before the store engine and the transmitter take up what
the step leaves them; each operation of the model has a lemma that carries it on. -/

namespace Sys2Proof.Machine

set_option Elab.async false

/-- Nothing has changed but these table entries' places, these parts of the state and these notice classes; the store
engine and the transmitter have not taken anything up yet. -/
structure alters (keys : List EntryKey) (parts : List Part) (classes : List NoticeClass) (s u : State) : Prop where
  cells : keepsCells s u
  changes : queuesOnly keys s u
  link : s.link.posts classes u.link
  rest : keepsBut (.store :: .link :: parts) s u

section
variable {K : List EntryKey} {P : List Part} {C : List NoticeClass} {s t u : State}

theorem keepsBut_trans {l : List Part} (h : keepsBut l s t) (g : keepsBut l t u) : keepsBut l s u :=
  fun p hp => same_trans (h p hp) (g p hp)

theorem keepsBut_refl (l : List Part) (s : State) : keepsBut l s s := fun p _ => by cases p <;> rfl

namespace alters

theorem refl (K : List EntryKey) (P : List Part) (C : List NoticeClass) (s : State) : alters K P C s s :=
  ⟨keepsCells_refl s, queuesOnly_of_store K rfl, Link.posts_refl _ _, keepsBut_refl _ s⟩

theorem trans (h : alters K P C s t) (g : alters K P C t u) : alters K P C s u :=
  ⟨keepsCells_trans h.cells g.cells, queuesOnly_trans h.changes g.changes, Link.posts_trans h.link g.link,
    keepsBut_trans h.rest g.rest⟩

theorem mono {K' : List EntryKey} {P' : List Part} {C' : List NoticeClass} (h : alters K P C s t) (hK : K ⊆ K')
    (hP : P ⊆ P') (hC : C ⊆ C') : alters K' P' C' s t :=
  ⟨h.cells, fun k hk => h.changes k fun hm => hk (hK hm), Link.posts_mono h.link hC,
    fun p hp => h.rest p fun hm => hp (by simp only [List.mem_cons] at hm ⊢; exact hm.imp id (Or.imp id (@hP _)))⟩

/-- An operation that touches neither the store nor the link. -/
theorem inner (h : alters K P C s t) (hs : u.store = t.store) (hl : u.link = t.link)
    (hr : keepsBut (.store :: .link :: P) t u) : alters K P C s u :=
  h.trans ⟨keepsCells_of_store hs, queuesOnly_of_store K hs, hl ▸ Link.posts_refl _ _, hr⟩

theorem onClock (h : alters K P C s t) (f : HotelClock → HotelClock) (hp : Part.clock ∈ P := by simp) :
    alters K P C s (t.onClock f) :=
  h.inner rfl rfl fun p hm => by cases p <;> first | rfl | exact absurd (by simp [hp]) hm

theorem onRooms (h : alters K P C s t) (f : FMap Room → FMap Room) (hp : Part.rooms ∈ P := by simp) :
    alters K P C s (t.onRooms f) :=
  h.inner rfl rfl fun p hm => by cases p <;> first | rfl | exact absurd (by simp [hp]) hm

theorem onNodes (h : alters K P C s t) (f : FMap Node → FMap Node) (hp : Part.nodes ∈ P := by simp) :
    alters K P C s (t.onNodes f) :=
  h.inner rfl rfl fun p hm => by cases p <;> first | rfl | exact absurd (by simp [hp]) hm

theorem onGroups (h : alters K P C s t) (f : FMap GroupEntry → FMap GroupEntry) (hp : Part.groups ∈ P := by simp) :
    alters K P C s (t.onGroups f) :=
  h.inner rfl rfl fun p hm => by cases p <;> first | rfl | exact absurd (by simp [hp]) hm

theorem onPrices (h : alters K P C s t) (f : FMap PriceEntry → FMap PriceEntry) (hp : Part.prices ∈ P := by simp) :
    alters K P C s (t.onPrices f) :=
  h.inner rfl rfl fun p hm => by cases p <;> first | rfl | exact absurd (by simp [hp]) hm

theorem onCred (h : alters K P C s t) (f : CredUnit → CredUnit) (hp : Part.cred ∈ P := by simp) :
    alters K P C s (t.onCred f) :=
  h.inner rfl rfl fun p hm => by cases p <;> first | rfl | exact absurd (by simp [hp]) hm

theorem onEnc (h : alters K P C s t) (f : Encoder → Encoder) (hp : Part.enc ∈ P := by simp) :
    alters K P C s (t.onEnc f) :=
  h.inner rfl rfl fun p hm => by cases p <;> first | rfl | exact absurd (by simp [hp]) hm

theorem onLines (h : alters K P C s t) (f : PerLine Line → PerLine Line) (hp : Part.lines ∈ P := by simp) :
    alters K P C s (t.onLines f) :=
  h.inner rfl rfl fun p hm => by cases p <;> first | rfl | exact absurd (by simp [hp]) hm

theorem onJournal (h : alters K P C s t) (f : Journal → Journal) (hp : Part.journal ∈ P := by simp) :
    alters K P C s (t.onJournal f) :=
  h.inner rfl rfl fun p hm => by cases p <;> first | rfl | exact absurd (by simp [hp]) hm

theorem onPower (h : alters K P C s t) (f : PowerUnit → PowerUnit) (hp : Part.power ∈ P := by simp) :
    alters K P C s (t.onPower f) :=
  h.inner rfl rfl fun p hm => by cases p <;> first | rfl | exact absurd (by simp [hp]) hm

theorem onSignals (h : alters K P C s t) (f : Signals → Signals) (hp : Part.signals ∈ P := by simp) :
    alters K P C s (t.onSignals f) :=
  h.inner rfl rfl fun p hm => by cases p <;> first | rfl | exact absurd (by simp [hp]) hm

theorem modRoom (h : alters K P C s t) (i : Nat) (f : Room → Room) (hp : Part.rooms ∈ P := by simp) :
    alters K P C s (t.modRoom i f) := by
  unfold State.modRoom; split
  · exact h
  · exact h.onRooms _ hp

theorem modNodeAt (h : alters K P C s t) (key : Nat) (f : Node → Node) (hp : Part.nodes ∈ P := by simp) :
    alters K P C s (t.modNodeAt key f) := by
  unfold State.modNodeAt; split
  · exact h
  · exact h.onNodes _ hp

theorem modNode (h : alters K P C s t) (l : LineId) (a : Nat) (f : Node → Node) (hp : Part.nodes ∈ P := by simp) :
    alters K P C s (t.modNode l a f) := h.modNodeAt _ f hp

theorem modLine (h : alters K P C s t) (i : LineId) (f : Line → Line) (hp : Part.lines ∈ P := by simp) :
    alters K P C s (t.modLine i f) := h.onLines _ hp

theorem post (h : alters K P C s t) (c : NoticeClass) (d : Detail) (hc : c ∈ C := by simp) :
    alters K P C s (post c d t) :=
  h.trans ⟨keepsCells_of_store rfl, queuesOnly_of_store K rfl, post_posts hc d t,
    fun p hm => by cases p <;> first | rfl | exact absurd (by simp) hm⟩

theorem enqueue (h : alters K P C s t) (k : EntryKey) (hk : k ∈ K := by simp) : alters K P C s (enqueue k t) :=
  h.trans ⟨keepsCells_enqueue k t, queuesOnly_enqueue hk t, by simp [Link.posts_refl],
    fun p hm => by cases p <;> first | rfl | exact absurd (by simp) hm⟩

theorem enqueueAll (h : alters K P C s t) {keys : List EntryKey} (hk : ∀ k ∈ keys, k ∈ K) :
    alters K P C s (keys.foldl (fun x k => Machine.enqueue k x) t) := by
  induction keys generalizing t with
  | nil => exact h
  | cons k ks ih =>
    exact ih (h.enqueue k (hk k (by simp))) fun j hj => hk j (by simp [hj])

theorem acceptRec (h : alters K P C s t) (b : JBody) (hp : Part.journal ∈ P := by simp)
    (hc : NoticeClass.journal ∈ C := by simp) : alters K P C s (acceptRec b t) :=
  h.trans ⟨keepsCells_of_store (by simp), queuesOnly_of_store K (by simp),
    Link.posts_mono (acceptRec_posts b t) (by simpa using hc),
    fun p hm => by cases p <;> first | (simp [Part.same]; done) | exact absurd (by simp [hp]) hm⟩

theorem offer (h : alters K P C s t) (b : JBody) (hp : Part.journal ∈ P := by simp)
    (hc : NoticeClass.journal ∈ C := by simp) : alters K P C s (offer b t) :=
  h.trans ⟨keepsCells_of_store (by simp), queuesOnly_of_store K (by simp),
    Link.posts_mono (offer_posts b t) (by simpa using hc),
    fun p hm => by cases p <;> first | (simp [Part.same]; done) | exact absurd (by simp [hp]) hm⟩

theorem offerAll (h : alters K P C s t) (bodies : List JBody) (hp : Part.journal ∈ P := by simp)
    (hc : NoticeClass.journal ∈ C := by simp) : alters K P C s (bodies.foldl (fun x b => Machine.offer b x) t) := by
  induction bodies generalizing t with
  | nil => exact h
  | cons b bs ih => exact ih (h.offer b hp hc)

theorem putRoom (h : alters K P C s t) (i : Nat) (e : RoomEntry) (hp : Part.rooms ∈ P := by simp) :
    alters K P C s (putRoom i e t) := h.onRooms _ hp

theorem placeOrder (h : alters K P C s t) (i : LineId) (o : Order) (hp : Part.lines ∈ P := by simp) :
    alters K P C s (placeOrder i o t) := by
  unfold Machine.placeOrder; split
  · exact h.modLine _ _ hp
  · exact h

/-- An answer made on a state with this frame. -/
theorem answersOnly (h : alters K P C s u) (r : ReqHead) (lines : List RLine) :
    answersOnly r lines K P C s (finish (placeReply r.tag lines u)) :=
  answersOnly_reply h.cells h.changes h.link h.rest

/-- An event that leaves a state with this frame. -/
theorem changesOnly (h : alters K P C s u) : changesOnly K P C s (finish u) :=
  changesOnly_finish h.cells h.changes h.link h.rest

end alters

end

/-! ## Reading the state a step leaves -/

section
variable (s : State)

@[simp] theorem finish_line (i : LineId) : (finish s).line i = s.line i := State.line_congr (by simp) i
@[simp] theorem finish_node (i : LineId) (a : Nat) : (finish s).node i a = s.node i a := State.node_congr (by simp) i a
@[simp] theorem finish_group (g : Nat) : (finish s).group g = s.group g := by simp [State.group]
@[simp] theorem finish_price (i : Nat) : (finish s).price i = s.price i := by simp [State.price]
@[simp] theorem enqueue_group (k : EntryKey) (g : Nat) : (enqueue k s).group g = s.group g := rfl
@[simp] theorem enqueue_price (k : EntryKey) (i : Nat) : (enqueue k s).price i = s.price i := rfl

variable (tag : List (Fin 10)) (lines : List RLine)

@[simp] theorem placeReply_line (i : LineId) : (placeReply tag lines s).line i = s.line i := rfl
@[simp] theorem placeReply_node (i : LineId) (a : Nat) : (placeReply tag lines s).node i a = s.node i a := rfl
@[simp] theorem placeReply_group (g : Nat) : (placeReply tag lines s).group g = s.group g := rfl
@[simp] theorem placeReply_price (i : Nat) : (placeReply tag lines s).price i = s.price i := rfl

end

section
variable {s u : State}

/-- The contents of a table entry depend on the tables, the credential unit, the settings and the journal alone. -/
theorem entryVal_congr {s t : State} (hrooms : t.rooms = s.rooms) (hnodes : t.nodes = s.nodes) (hgroups : t.groups = s.groups)
    (hprices : t.prices = s.prices) (hcred : t.cred = s.cred) (hsettings : t.settings = s.settings)
    (hjournal : t.journal = s.journal) (k : EntryKey) : t.entryVal k = s.entryVal k := by
  cases k <;> simp [State.entryVal, State.node, State.group, State.price, *]

theorem enqueue_part (k : EntryKey) {p : Part} (h : p ≠ .store) : p.same u (enqueue k u) := by
  cases p <;> first | exact absurd rfl h | rfl

/-- An entry just queued has its place. -/
theorem placed_enqueue {k : EntryKey} (h : u.store.roomFor k) : placed [k] (enqueue k u) := by
  intro j hj
  rw [List.mem_singleton] at hj
  subst hj
  rw [enqueue_contents_self h, entryVal_enqueue]

/-- Entries just queued have their places. -/
theorem placed_enqueueAll {keys : List EntryKey} (h : u.store.canQueue keys 0 = true) :
    placed keys (keys.foldl (fun x k => enqueue k x) u) := by
  have kept : ∀ (l : List EntryKey) (v : State) k, (l.foldl (fun x k => enqueue k x) v).entryVal k = v.entryVal k := by
    intro l
    induction l with
    | nil => exact fun _ _ => rfl
    | cons j l ih => exact fun v k => (ih _ k).trans (entryVal_enqueue j k v)
  intro k hk
  rw [kept]; exact foldl_enqueue_placed h k hk

/-- Entries keep their places while the table change queue and their contents stand. -/
theorem placed_congr {keys : List EntryKey} {w : State} (h : placed keys u) (hs : w.store = u.store)
    (hv : ∀ k ∈ keys, w.entryVal k = u.entryVal k) : placed keys w :=
  fun k hk => by rw [hs, hv k hk]; exact h k hk

/-- The journal unit gives the contents of no entry but its own. -/
theorem entryVal_offer {k : EntryKey} (b : JBody) (hk : k ≠ .journalState) : (offer b u).entryVal k = u.entryVal k := by
  cases k <;> first | exact absurd rfl hk | simp [State.entryVal, State.node, State.group, State.price]

/-- What is journaled by no record. -/
theorem journaled_nil (h : u.journal = s.journal) : journaled [] s u := h

/-- What is journaled by one record. -/
theorem journaled_one {b : JBody} {t : State} (ht : u.journal = (offer b t).journal) (hj : t.journal = s.journal)
    (hc : t.clock = u.clock) : journaled [b] s u := ht.trans (offer_congr b hj hc)

@[simp] theorem post_notice_self (c : NoticeClass) (d : Detail) (s : State) :
    (post c d s).link.notices.get c = (s.link.notices.get c).occur d := Notices.get_set_self _ _ _

theorem post_notice_other {c e : NoticeClass} (d : Detail) (s : State) (h : e ≠ c) :
    (post c d s).link.notices.get e = s.link.notices.get e := Notices.get_set_other _ _ h

/-- An offered record leaves every class but JOURNAL. -/
theorem offer_notice {c : NoticeClass} (b : JBody) (s : State) (h : c ≠ .journal) :
    (offer b s).link.notices.get c = s.link.notices.get c := (offer_posts b s).notices c (by simpa using h)

theorem acceptRec_notice {c : NoticeClass} (b : JBody) (s : State) (h : c ≠ .journal) :
    (acceptRec b s).link.notices.get c = s.link.notices.get c := (acceptRec_posts b s).notices c (by simpa using h)

end

/-! ## Requests that set an entry of the site tables (O18 to O20) -/

section
variable {s : State}

theorem State.group_putGroup (g j : Nat) (e : GroupEntry) :
    (s.onGroups fun m => putGroup m g e).group j = if j = g then e else s.group j := by
  simp only [State.group, State.onGroups_groups, putGroup]
  by_cases h : j = g
  · subst h; rw [FMap.get_set_self, if_pos rfl]; split <;> simp_all
  · rw [FMap.get_set_other _ _ h, if_neg h]

theorem State.price_putPrice (i j : Nat) (e : PriceEntry) :
    (s.onPrices fun m => putPrice m i e).price j = if j = i then e else s.price j := by
  simp only [State.price, State.onPrices_prices, putPrice]
  by_cases h : j = i
  · subst h; rw [FMap.get_set_self, if_pos rfl]; split <;> simp_all
  · rw [FMap.get_set_other _ _ h, if_neg h]

theorem putRoom_get (i j : Nat) (e : RoomEntry) : (putRoom i e s).rooms.get j =
    if j = i then some ⟨e, ((s.rooms.get i).map Room.privacy).getD false, ((s.rooms.get i).map Room.hold).getD false⟩
    else s.rooms.get j := by
  simp only [putRoom, State.onRooms_rooms]
  by_cases h : j = i
  · subst h; rw [FMap.get_put_self, if_pos rfl]; cases s.rooms.get j <;> rfl
  · rw [FMap.get_put_other _ _ h, if_neg h]

/-- An entry set in a defined room keeps the room's volatile state. -/
theorem putRoom_get_self {i : Nat} {r : Room} (hr : s.rooms.get i = some r) (e : RoomEntry) :
    (putRoom i e s).rooms.get i = some { r with entry := e } := by
  simp [putRoom_get, hr]

theorem putRoom_get_other {i j : Nat} (e : RoomEntry) (h : j ≠ i) : (putRoom i e s).rooms.get j = s.rooms.get j := by
  simp [putRoom_get, h]

theorem argSent_of_ne {α : Type} {a : Arg α} (h : a ≠ .absent) : argSent a = true := by
  cases a with
  | absent => exact absurd rfl h
  | malformed | given => rfl

theorem labelTaken_eq_false {i : Nat} {label : Arg Nat}
    (h : ∀ e ∈ s.rooms, e.1 ≠ i → label ≠ .given e.2.entry.label) : s.labelTaken i label = false := by
  cases label with
  | absent | malformed => rfl
  | given l =>
    simp only [State.labelTaken, argGet_given, List.any_eq_false, Bool.and_eq_true, decide_eq_true_eq, not_and]
    exact fun e he hi hl => h e he hi (by rw [hl])

theorem noRoom_eq_false {i : Nat} {r : Room} (h : s.rooms.get i = some r) : s.noRoom (.given i) = false := by
  simp [State.noRoom, h]

theorem roomHeld_eq_false {i : Nat} (h : ∀ e ∈ s.cred.slots, e.2.kind = .guest → e.2.room = i →
    e.2.state ≠ .active ∧ e.2.state ≠ .pending) : s.roomHeld i = false := by
  simp only [State.roomHeld, List.any_eq_false, CredRec.activeGuest, CredRec.pendingGuest]
  intro e he
  have := h e he
  simp only [Bool.or_eq_true, Bool.and_eq_true, decide_eq_true_eq, not_or, not_and]
  grind

end

/-- Settles O18. -/
theorem roomSetTakesEffect : Obligations.RoomSetTakesEffect := by
  intro h s i label access limit discount old a hi hlabel haccess hlimit hdiscount hold hfree hro hq
  have entry : ((s.rooms.get i).map Room.entry).getD (.new 0) = old := by
    rcases hold with ⟨r, hr, rfl⟩ | ⟨hr, _, rfl⟩ <;> rw [hr] <;> rfl
  have named : s.rooms.get i = none → argMissing label = false := by
    rcases hold with ⟨r, hr, _⟩ | ⟨hr, hl, _⟩
    · simp [hr]
    · rcases label with _ | _ | l
      · exact absurd rfl hl
      · simp [badOpt] at hlabel
      · simp
  refine ⟨_, setRoom label access limit discount old, desk_reply a
    (u := enqueue (.room i) (putRoom i (setRoom label access limit discount old) s))
    ((tableRequest_ok ?_ rfl (labelTaken_eq_false hfree) hro hq).trans ?_), rfl, ?_, fun j hj => ?_,
    placed_finish (placed_enqueue (canQueue_roomFor hq (by simp))), (((alters.refl _ _ _ s).putRoom _ _).enqueue _).answersOnly h _⟩
  · simp [badRoom_eq_false hi, hlabel, haccess, argMalformed_eq_false hlimit, argMalformed_eq_false hdiscount]; exact named
  · rw [← entry]; rfl
  · simp [putRoom_get]
  · simp [putRoom_get, hj]

/-- Settles O19. -/
theorem issueNumberAndLockoutOfARoom : Obligations.IssueNumberAndLockoutOfARoom := by
  refine ⟨fun h s i r a hi hr hheld hro hq => ?_, fun h s i v r a hi hr hro hq => ?_⟩
  · refine ⟨_, desk_reply a (u := enqueue (.room i) (putRoom i { r.entry with issue := 0 } s))
      ((tableRequest_ok (badRoom_eq_false hi) (noRoom_eq_false hr) (roomHeld_eq_false hheld) hro hq).trans ?_), ?_,
      fun j hj => ?_, placed_finish (placed_enqueue (canQueue_roomFor hq (by simp))),
      (((alters.refl _ _ _ s).putRoom _ _).enqueue _).answersOnly h _⟩
    · simp [hr]
    · simp [putRoom_get_self hr]
    · simp [putRoom_get_other _ hj]
  · let s1 := enqueue (.room i) (putRoom i { r.entry with lockout := v } s)
    have queued : placed [.room i] s1 := placed_enqueue (canQueue_roomFor hq (by simp))
    have altered : alters [.room i] [.rooms, .journal] [.journal] s s1 :=
      ((alters.refl _ _ _ s).putRoom _ _).enqueue _
    refine ⟨_, desk_reply a (u := if v = r.entry.lockout then s1 else offer (s.lockoutBody i v r.entry.issue) s1)
      (lines := [.lockout v]) ((tableRequest_ok (by simp [badRoom_eq_false hi]) (noRoom_eq_false hr) rfl hro hq).trans ?_), ?_⟩
    · simp [hr]; rfl
    by_cases hv : v = r.entry.lockout
    · simp only [if_pos hv]
      refine ⟨?_, fun j hj => ?_, journaled_nil ?_, placed_finish queued, altered.answersOnly h _⟩
      · simp [s1, putRoom_get_self hr]
      · simp [s1, putRoom_get_other _ hj]
      · simp [s1]
    · simp only [if_neg hv]
      refine ⟨?_, fun j hj => ?_, journaled_one (t := s1) ?_ ?_ ?_, placed_finish ?_,
        (altered.offer _).answersOnly h _⟩
      · simp [s1, putRoom_get_self hr]
      · simp [s1, putRoom_get_other _ hj]
      · simp [State.lockoutBody]
      · simp [s1]
      · simp [s1]
      · exact placed_congr queued (by simp) fun k hk => entryVal_offer _ (by simp at hk; simp [hk])

/-- Settles O20. -/
theorem pricesAndGroupsAreSet : Obligations.PricesAndGroupsAreSet := by
  refine ⟨fun h s i price tax a h1 h2 hprice htax hsent hro hq => ?_, fun h s g v a hg hro hfree hq => ?_⟩
  · let e : PriceEntry := ⟨argOr price (s.price i).price, argClamp tax 0 3000 (s.price i).tax⟩
    have set : ∀ j, (finish (placeReply h.tag [.price i e] (enqueue (.price i) (s.onPrices fun m => putPrice m i e)))).price j =
        if j = i then e else s.price j := by
      intro j; simp [State.price_putPrice]
    have self := (set i).trans (if_pos rfl)
    refine ⟨_, desk_reply a (u := enqueue (.price i) (s.onPrices fun m => putPrice m i e)) (lines := [.price i e])
      ((tableRequest_ok ?_ rfl rfl hro hq).trans rfl), self, fun j hj => (set j).trans (if_neg hj),
      placed_finish (placed_enqueue (canQueue_roomFor hq (by simp))), ?_⟩
    · have sent : (argSent price || argSent tax) = true := by
        rcases hsent with hs | hs
        · simp [argSent_of_ne hs]
        · simp [argSent_of_ne hs]
      rw [(badReq_given i 1 127).2 ⟨h1, h2⟩, hprice, argMalformed_eq_false htax, sent]; rfl
    · rw [self]; exact (((alters.refl _ _ _ s).onPrices _).enqueue _).answersOnly h _
  · let e : GroupEntry := if v = (s.group g).offline then s.group g else ⟨v, .normal⟩
    have set : ∀ j, (finish (placeReply h.tag [.group g e] (enqueue (.group g) (s.onGroups fun m => putGroup m g e)))).group j =
        if j = g then e else s.group j := by
      intro j; simp [State.group_putGroup]
    have self := (set g).trans (if_pos rfl)
    refine ⟨_, desk_reply a (u := enqueue (.group g) (s.onGroups fun m => putGroup m g e)) (lines := [.group g e])
      ((tableRequest_ok ?_ rfl ?_ hro hq).trans rfl), self, fun j hj => (set j).trans (if_neg hj),
      placed_finish (placed_enqueue (canQueue_roomFor hq (by simp))), ?_⟩
    · simp [badGroup, hg]
    · simp only [argOr_given, argNat_given, Bool.and_eq_false_imp, List.any_eq_false]
      exact fun hv x hx hd => hfree x hx hv (of_decide_eq_true hd)
    · rw [self]; exact (((alters.refl _ _ _ s).onGroups _).enqueue _).answersOnly h _

end Sys2Proof.Machine

/-! ## Tables read by their members -/

namespace Sys2Proof.FMap

/-- A table in canonical form reads, at a key it lists, what it lists there. -/
theorem get_of_mem {α : Type} {m : FMap α} (h : m.wf) {k : Nat} {v : α} (hm : (k, v) ∈ m) : get m k = some v := by
  induction m with
  | nil => cases hm
  | cons e t ih =>
    obtain ⟨i, w⟩ := e
    obtain ⟨hlt, ht⟩ := List.pairwise_cons.1 h
    rcases List.mem_cons.1 hm with he | hm
    · obtain ⟨rfl, rfl⟩ := Prod.mk.inj he
      simp [get]
    · have : i < k := hlt _ hm
      rw [get, if_neg (by omega)]
      exact ih ht hm

end Sys2Proof.FMap

/-! ## The journal's requests, the hotel clock and the read job (O15, O16, O29, O48) -/

namespace Sys2Proof.Machine

set_option Elab.async false

/-! ### JREAD and JRELEASE -/

/-- What JREAD may return: each record from the sequence asked on, stored where it is not above the newest programmed. -/
theorem mem_readable {s : State} {start : Nat} {e : JRec × Bool} (h : e ∈ s.readable start) :
    start ≤ e.1.seq ∧ (e.2 = true ↔ e.1.seq ≤ s.journal.newest) := by
  simp only [State.readable, List.mem_append, List.mem_map, mem_sortBy, List.mem_filter, Bool.and_eq_true,
    decide_eq_true_eq] at h
  rcases h with ⟨r, ⟨_, h1, h2⟩, rfl⟩ | ⟨r, ⟨_, h1, h2⟩, rfl⟩
  · exact ⟨h1, by simpa using h2⟩
  · exact ⟨h1, by simpa using h2⟩

/-- What raising the collected mark comes to. -/
theorem releaseTo_journal (m : Nat) (s : State) : (releaseTo m s).journal = { s.journal with
    mark := m
    writer := if s.journal.writer = .full ∧ reclaimable m s.spareSec = true then .waitingSpare else s.journal.writer } := by
  have spare : (enqueue .journalState (s.onJournal fun j => { j with mark := m })).spareSec = s.spareSec := by
    simp [State.spareSec, Store.jsec]
  have writer : (enqueue .journalState (s.onJournal fun j => { j with mark := m })).journal.writer = s.journal.writer := by
    simp
  unfold releaseTo
  dsimp only
  rw [spare, writer]
  split <;> simp

theorem releaseTo_store (m : Nat) (s : State) :
    (releaseTo m s).store = (enqueue .journalState (s.onJournal fun j => { j with mark := m })).store := by
  unfold releaseTo; dsimp only; split <;> rfl

theorem alters.releaseTo {K : List EntryKey} {P : List Part} {C : List NoticeClass} {s t : State} (h : alters K P C s t)
    (m : Nat) (hk : EntryKey.journalState ∈ K := by simp) (hp : Part.journal ∈ P := by simp) :
    alters K P C s (releaseTo m t) := by
  have queued := (h.onJournal (fun j => { j with mark := m }) hp).enqueue .journalState hk
  unfold Machine.releaseTo; dsimp only; split
  · exact queued.onJournal _ hp
  · exact queued

/-- Settles O15: a record of the readable list by `mem_readable`, the raised mark by `releaseTo_journal`. -/
theorem journalRequests : Obligations.JournalRequests := by
  refine ⟨fun h s q n ht hf h1 h2 hn => ?_, fun h s q a hq hm => ?_, fun h s q a hq hm hroom => ?_⟩
  · refine ⟨(s.readable (max q s.journal.oldestRetained)).take (min 16 n), s.journal.oldestRetained, rfl, rfl, ?_, ?_,
      fun e he => ?_, answers_always ht hf ?_⟩
    · exact (List.length_take_le _ _).trans (Nat.min_le_left _ _)
    · exact (List.length_take_le _ _).trans (Nat.min_le_right _ _)
    · have := mem_readable (List.mem_of_mem_take he)
      exact ⟨(le_max_left _ _).trans this.1, (le_max_right _ _).trans this.1, this.2⟩
    · rw [(badReq_given q 1 max32).2 ⟨h1, h2⟩, argMissing_given, argNat_given, argNat_given,
        decide_eq_false (show n ≠ 0 by omega)]
      rfl
  · refine answers_same a ?_
    rw [(badReq_given q 0 max32).2 ⟨Nat.zero_le q, hq⟩]
    simp [hm]
  · have journal := releaseTo_journal (min q s.journal.newest) s
    refine ⟨_, desk_reply a (u := releaseTo (min q s.journal.newest) s)
      (lines := [.jrelease (min q s.journal.newest) (s.journal.newest - min q s.journal.newest)]) ?_, ?_, ?_,
      ((alters.refl _ _ _ s).releaseTo _).answersOnly h _⟩
    · rw [(badReq_given q 0 max32).2 ⟨Nat.zero_le q, hq⟩]
      simp [Nat.not_le.2 hm, hroom, journal, Journal.uncollected]
    · simpa using journal
    · refine placed_finish (placed_congr (placed_enqueue ?_) (releaseTo_store _ s) fun k hk => ?_)
      · exact canQueue_roomFor (t := s.store) hroom (by simp)
      · obtain rfl := List.mem_singleton.1 hk
        simp [State.entryVal, journal, Journal.oldestRetained]

/-! ### The expiry pass and the retirement (R36, R41) -/

@[simp] theorem expiryPass_list (m : Nat) (s : State) : (expiryPass m s).cred.list = s.cred.list := rfl

/-- Entries queued in turn leave the credential unit. -/
theorem enqueueAll_cred {α : Type} (f : α → EntryKey) (l : List α) (s : State) :
    (l.foldl (fun x i => enqueue (f i) x) s).cred = s.cred := by
  induction l generalizing s with
  | nil => rfl
  | cons i l ih => exact ih _

theorem expiryPass_expiredPlaces (m n : Nat) (s : State) :
    (expiryPass n s).cred.expiredPlaces m = s.cred.expiredPlaces m := rfl

/-- The credential unit after the work of a minute. -/
theorem minuteWork_cred (m : Nat) (s : State) : (minuteWork m s).cred = { s.cred with
    slots := s.cred.slots.mapVals fun _ r =>
      if r.state = .active && endBy m (s.expiry r) then { r with state := .lapsed } else r
    list := s.cred.list.mapVals fun i p => if i ∈ s.cred.expiredPlaces m then { p with entry := none } else p } := by
  unfold minuteWork retireEntries
  dsimp only
  rw [enqueueAll_cred EntryKey.listPlace, expiryPass_expiredPlaces]
  rfl

theorem minuteWork_slot (m : Nat) (s : State) (k : Nat) : (minuteWork m s).cred.slots.get k = (s.cred.slots.get k).map
    fun r => if r.state = .active ∧ endBy m (s.expiry r) = true then { r with state := .lapsed } else r := by
  rw [minuteWork_cred]; simp

theorem foldl_map_enqueue (l : List Nat) (s : State) :
    l.foldl (fun x i => enqueue (.listPlace i) x) s = (l.map EntryKey.listPlace).foldl (fun x k => enqueue k x) s := by
  rw [List.foldl_map]

theorem alters.minuteWork {K : List EntryKey} {P : List Part} {C : List NoticeClass} {s t : State} (h : alters K P C s t)
    (m : Nat) (hk : ∀ i ∈ t.cred.expiredPlaces m, EntryKey.listPlace i ∈ K) (hp : Part.cred ∈ P := by simp) :
    alters K P C s (minuteWork m t) := by
  unfold Machine.minuteWork retireEntries
  dsimp only
  rw [expiryPass_expiredPlaces, foldl_map_enqueue]
  refine ((h.onCred _ hp).onCred _ hp).enqueueAll fun k hm => ?_
  obtain ⟨i, hi, rfl⟩ := List.mem_map.1 hm
  exact hk i hi

/-- The places of the retired entries. -/
theorem minuteWork_placed {m : Nat} {s : State}
    (h : s.store.canQueue ((s.cred.expiredPlaces m).map .listPlace) 0 = true) :
    placed ((s.cred.expiredPlaces m).map .listPlace) (minuteWork m s) := by
  unfold minuteWork retireEntries
  dsimp only
  rw [expiryPass_expiredPlaces, foldl_map_enqueue]
  exact placed_enqueueAll h

@[simp] theorem minuteWork_journal (m : Nat) (s : State) : (minuteWork m s).journal = s.journal := by simp
@[simp] theorem minuteWork_nodes (m : Nat) (s : State) : (minuteWork m s).nodes = s.nodes := by simp

/-! ### CLOCK SET -/

theorem alters.oweModes {K : List EntryKey} {P : List Part} {C : List NoticeClass} {s t : State} (h : alters K P C s t)
    (hp : Part.nodes ∈ P := by simp) : alters K P C s (oweModes t) := h.onNodes _ hp

/-- CLOCK SET before the mode orders are owed. -/
def clockWasSet (m sec : Nat) (s : State) : State :=
  minuteWork m (post .clock (.clock s.clock.minute m) (offer (clockStepBody s.clock.minute m)
    (s.onClock fun c => { c with minute := m, second := sec, valid := .valid })))

theorem setClock_eq (m sec : Nat) (s : State) :
    setClock m sec s = if s.clock.valid = .invalid then oweModes (clockWasSet m sec s) else clockWasSet m sec s := rfl

/-- Whatever the owed modes leave alone is as `clockWasSet` has it. -/
theorem setClock_part (m sec : Nat) (s : State) {p : Part} (h : p ≠ .nodes) : p.same (clockWasSet m sec s) (setClock m sec s) := by
  rw [setClock_eq]; split
  · cases p <;> first | exact absurd rfl h | rfl
  · cases p <;> rfl

/-- Settles O16. -/
theorem clockSetTakesEffect : Obligations.ClockSetTakesEffect := by
  intro h s m sec a hm hsec
  let s1 := offer (clockStepBody s.clock.minute m) (s.onClock fun c => { c with minute := m, second := sec, valid := .valid })
  have cred : (setClock m sec s).cred = (clockWasSet m sec s).cred := setClock_part m sec s (p := .cred) (by simp)
  have clock : (setClock m sec s).clock = { s.clock with minute := m, second := sec, valid := .valid } := by
    rw [show (setClock m sec s).clock = _ from setClock_part m sec s (p := .clock) (by simp)]
    simp [clockWasSet]
  have journal : (setClock m sec s).journal = s1.journal := by
    rw [show (setClock m sec s).journal = _ from setClock_part m sec s (p := .journal) (by simp)]
    simp [clockWasSet, s1]
  have notices : (setClock m sec s).link.notices.get .clock = (s.link.notices.get .clock).occur (.clock s.clock.minute m) := by
    rw [show (setClock m sec s).link = _ from setClock_part m sec s (p := .link) (by simp)]
    simp [clockWasSet, offer_notice]
  have base : (post .clock (.clock s.clock.minute m) s1).cred = s.cred := by simp [s1]
  have expiry : (post .clock (.clock s.clock.minute m) s1).expiry = s.expiry := by
    funext r; simp [State.expiry, s1]
  have altered : alters ((s.cred.expiredPlaces m).map .listPlace) [.clock, .nodes, .cred, .journal] [.journal, .clock] s
      (setClock m sec s) := by
    have set : alters ((s.cred.expiredPlaces m).map .listPlace) [.clock, .nodes, .cred, .journal] [.journal, .clock] s
        (clockWasSet m sec s) :=
      ((((alters.refl _ _ _ s).onClock _).offer _).post _ _).minuteWork m fun i hi => by
        simpa [base, s1] using hi
    rw [setClock_eq]; split
    · exact set.oweModes
    · exact set
  refine ⟨_, desk_reply a (u := setClock m sec s) (lines := [.clockSet m sec .valid]) ?_, ?_, ?_, ?_, fun k => ?_, fun i => ?_, ?_,
    ?_, fun l x hx => ?_, fun hroom => ?_, altered.answersOnly h _⟩
  · rw [(badReq_given m 0 maxMinute).2 ⟨Nat.zero_le m, hm⟩, (badReq_given sec 0 59).2 ⟨Nat.zero_le sec, hsec⟩]; rfl
  · simp [clock]
  · refine journaled_one (t := s.onClock fun c => { c with minute := m, second := sec, valid := .valid }) ?_ rfl ?_
    · simpa [s1, clockStepBody] using journal
    · simp [clock]
  · exact posted_finish (by simp) notices
  · simp only [finish_frame, placeReply_frame, cred]
    rw [clockWasSet, minuteWork_slot, expiry, base]
  · simp only [finish_frame, placeReply_frame, cred]
    rw [clockWasSet, minuteWork_cred, base]; simp
  · simp only [finish_frame, placeReply_frame, cred]
    rw [clockWasSet, minuteWork_cred, base]
  · simp only [finish_frame, placeReply_frame, cred]
    rw [clockWasSet, minuteWork_cred, base]
  · have nodes : (clockWasSet m sec s).nodes = s.nodes := by simp [clockWasSet]
    have lines : (clockWasSet m sec s).lines = s.lines := by simp [clockWasSet]
    simp only [State.node, finish_frame, placeReply_frame, setClock_eq]
    by_cases hv : s.clock.valid = .invalid
    · simp [hv, oweModes, nodes, State.line_congr lines, keyLine_nodeKey l hx, NodeLink.oweMode]
    · simp [hv, nodes]
  · have queued := minuteWork_placed (m := m) (s := post .clock (.clock s.clock.minute m) s1)
    rw [base] at queued
    refine placed_finish (placed_congr (queued ?_) (setClock_part m sec s (p := .store) (by simp)) fun k hk => ?_)
    · simpa [s1] using hroom
    · obtain ⟨i, _, rfl⟩ := List.mem_map.1 hk
      exact congrArg (fun c => EntryVal.listPlace (c.list.get i)) cred

/-! ### The tick of the hotel clock -/

/-- An entry whose place is among the expired is one whose expiry has come. -/
theorem mem_expiredPlaces {c : CredUnit} (hwf : c.list.wf) {m i : Nat} {p : ListPlace} (hp : c.list.get i = some p) :
    i ∈ c.expiredPlaces m ↔ ∃ e, p.entry = some e ∧ endBy m e.expiry = true := by
  simp only [CredUnit.expiredPlaces, CredUnit.entries, List.mem_map, List.mem_filter, List.mem_filterMap,
    Option.map_eq_some_iff]
  constructor
  · rintro ⟨_, ⟨⟨x, hx, e, he, rfl⟩, hend⟩, rfl⟩
    have := FMap.get_of_mem hwf hx
    rw [this] at hp
    obtain rfl := Option.some.inj hp
    exact ⟨e, he, hend⟩
  · rintro ⟨e, he, hend⟩
    exact ⟨(i, p.seq, e), ⟨⟨(i, p), FMap.mem_of_get hp, e, he, rfl⟩, hend⟩, rfl⟩

/-- The list after the retirement against a minute. -/
theorem minuteWork_place {s : State} (hwf : s.cred.list.wf) (m k : Nat) : (minuteWork m s).cred.list.get k =
    (s.cred.list.get k).map fun p => { p with entry := p.entry.filter fun e => !endBy m e.expiry } := by
  rw [minuteWork_cred]
  simp only [FMap.get_mapVals]
  cases hp : s.cred.list.get k with
  | none => rfl
  | some p =>
    obtain ⟨q, entry⟩ := p
    simp only [Option.map_some, mem_expiredPlaces hwf hp]
    cases entry with
    | none => simp
    | some e => by_cases hend : endBy m e.expiry = true <;> simp [hend, Option.filter]

/-- Settles O48: a tick that moves no minute, or meets a part not at work, moves the clock alone. -/
theorem theClockTicks : Obligations.TheClockTicks := by
  intro s
  have minute : (s.onClock HotelClock.tick).clock = (if 4294967294 ≤ s.clock.minute
      then { s.clock with minute := 4294967294, second := 59 }
      else if s.clock.second < 59 then { s.clock with second := s.clock.second + 1 }
      else { s.clock with
        minute := s.clock.minute + 1, second := if s.clock.minute + 1 = 4294967294 then 59 else 0 }) := rfl
  by_cases hwork : (s.onClock HotelClock.tick).clock.minute ≠ s.clock.minute ∧ s.clock.valid = .valid ∧ s.working = true
  · have clock : (finish (minuteWork (s.onClock HotelClock.tick).clock.minute (s.onClock HotelClock.tick))).clock =
        (s.onClock HotelClock.tick).clock := by simp
    refine ⟨_, if_pos hwork, by rw [clock, minute], fun h => ?_, fun _ _ _ hwf => ?_⟩
    · rw [clock] at h
      obtain ⟨h1, h2, h3⟩ := hwork
      rcases h with h | h | h
      · exact absurd h h1
      · rw [h2] at h; cases h
      · rw [h3] at h; cases h
    · rw [clock]
      refine ⟨fun k => ?_, fun k => ?_, ?_, ?_,
        (((alters.refl _ _ _ s).onClock _).minuteWork _ fun i hi => List.mem_map_of_mem hi).changesOnly⟩
      · simp only [finish_frame]; exact minuteWork_slot _ _ k
      · simp only [finish_frame]; exact minuteWork_place (s := s.onClock HotelClock.tick) hwf _ k
      · simp only [finish_frame, minuteWork_cred, State.onClock_cred]
      · simp only [finish_frame, minuteWork_cred, State.onClock_cred]
  · refine ⟨_, if_neg hwork, minute, fun _ => rfl, fun h1 h2 h3 => absurd ⟨h1, h2, h3⟩ hwork⟩

end Sys2Proof.Machine

/-! ## The revocation list's answer and the revocation of a credential (R33, R37 to R41) -/

namespace Sys2Proof.Machine

set_option Elab.async false

/-! ### Records offered in turn -/

section
variable {s t u : State}

theorem offerAll_clock (bodies : List JBody) (s : State) : (bodies.foldl (fun x b => offer b x) s).clock = s.clock := by
  induction bodies generalizing s with
  | nil => rfl
  | cons b bs ih => rw [List.foldl_cons, ih]; simp

/-- What records offered in turn come to depends on the journal unit and the clock alone. -/
theorem offerAll_congr (bodies : List JBody) (h : s.journal = t.journal) (g : s.clock = t.clock) :
    (bodies.foldl (fun x b => offer b x) s).journal = (bodies.foldl (fun x b => offer b x) t).journal := by
  induction bodies generalizing s t with
  | nil => exact h
  | cons b bs ih => exact ih (offer_congr b h g) (by simpa using g)

/-- What is journaled by records offered in turn. -/
theorem journaled_all {bodies : List JBody} {w : State} (ht : u.journal = (bodies.foldl (fun x b => offer b x) w).journal)
    (hj : w.journal = s.journal) (hc : w.clock = u.clock) : journaled bodies s u :=
  ht.trans (offerAll_congr bodies hj hc)

/-- One more record offered behind others. -/
theorem offer_offerAll {bodies : List JBody} {b : JBody} {w : State}
    (hj : u.journal = (bodies.foldl (fun x b => offer b x) w).journal) (hc : u.clock = w.clock) :
    (offer b u).journal = ((bodies ++ [b]).foldl (fun x b => offer b x) w).journal := by
  rw [List.foldl_append]
  exact offer_congr b hj (by rw [offerAll_clock, hc])

/-- Records offered in turn leave every class but JOURNAL. -/
theorem offerAll_notice {c : NoticeClass} (bodies : List JBody) (s : State) (h : c ≠ .journal) :
    (bodies.foldl (fun x b => offer b x) s).link.notices.get c = s.link.notices.get c := by
  induction bodies generalizing s with
  | nil => rfl
  | cons b bs ih => rw [List.foldl_cons, ih, offer_notice b s h]

end

/-! ### Entries queued in turn -/

/-- Entries queued in turn change the store alone. -/
theorem enqueueAll_part (keys : List EntryKey) (t : State) {p : Part} (h : p ≠ .store) :
    p.same t (keys.foldl (fun x k => enqueue k x) t) := by
  induction keys generalizing t with
  | nil => cases p <;> rfl
  | cons k ks ih => exact same_trans (enqueue_part k h) (ih (enqueue k t))

theorem canQueue_mono {t : Store} {keys ks : List EntryKey} {n : Nat} (h : t.canQueue keys n = true) (hs : ks ⊆ keys) :
    t.canQueue ks n = true := by
  rw [canQueue_iff] at h ⊢
  have sub : (ks.dedup.filter fun k => !t.hasPlace k) ⊆ keys.dedup.filter fun k => !t.hasPlace k := by
    intro k hk
    simp only [List.mem_filter, List.mem_dedup] at hk ⊢
    exact ⟨hs hk.1, hk.2⟩
  have := (((List.nodup_dedup ks).filter _).subperm sub).length_le
  omega

/-- A queue that can take all of some entries can take them after any of them has been queued. -/
theorem canQueue_enqueueAll {keys ks : List EntryKey} {n : Nat} {s : State} (h : s.store.canQueue keys n = true)
    (hs : ks ⊆ keys) : (ks.foldl (fun x k => enqueue k x) s).store.canQueue keys n = true := by
  induction ks generalizing s with
  | nil => exact h
  | cons k ks ih =>
    obtain ⟨hk, hs⟩ := List.cons_subset.1 hs
    exact ih (canQueue_enqueue h hk fun _ hj => hj) hs

/-- Entries queued in turn leave the places of the others. -/
theorem enqueueAll_contents_other {keys : List EntryKey} {k : EntryKey} (s : State) (h : k ∉ keys) :
    (keys.foldl (fun x k => enqueue k x) s).store.contents k = s.store.contents k := by
  induction keys generalizing s with
  | nil => rfl
  | cons j ks ih =>
    rw [List.foldl_cons, ih _ fun hm => h (List.mem_cons_of_mem _ hm), enqueue_contents_other s fun e => h (by simp [e])]

/-! ### The answer of the revocation list -/

theorem endEarlier_asymm {a b : EndMinute} (h : endEarlier a b = true) : endEarlier b a = false := by
  cases a <;> cases b <;> simp_all [endEarlier]; omega

theorem endEarlier_irrefl (a : EndMinute) : endEarlier a a = false := by cases a <;> simp [endEarlier]

theorem goesFirst_asymm {a b : Nat × Nat × RevEntry} (h : goesFirst a b = true) : goesFirst b a = false := by
  unfold goesFirst at h ⊢
  simp only [Bool.or_eq_true, Bool.and_eq_true, decide_eq_true_eq] at h
  rcases h with h | ⟨h, hs⟩
  · have hne : b.2.2.expiry ≠ a.2.2.expiry := fun e => by rw [e, endEarlier_irrefl] at h; cases h
    simp [endEarlier_asymm h, hne]
  · rw [h, endEarlier_irrefl]
    simp [Nat.le_of_lt hs]

theorem goesFirst_of {a b : Nat × Nat × RevEntry} (h : endEarlier a.2.2.expiry b.2.2.expiry = true ∨
    (a.2.2.expiry = b.2.2.expiry ∧ a.2.1 < b.2.1)) : goesFirst a b = true := by
  simpa [goesFirst] using h

/-- An entry that goes before every other of a list is the first to go. -/
theorem firstToGo_eq_some {l : List (Nat × Nat × RevEntry)} {e : Nat × Nat × RevEntry} (he : e ∈ l)
    (hf : ∀ y ∈ l, y ≠ e → goesFirst e y = true) : firstToGo l = some e := by
  have fold : ∀ (t : List (Nat × Nat × RevEntry)) m, e = m ∨ e ∈ t → (∀ y ∈ m :: t, y ≠ e → goesFirst e y = true) →
      t.foldl (fun m x => if goesFirst x m then x else m) m = e := by
    intro t
    induction t with
    | nil =>
      intro m he _
      rcases he with rfl | he
      · rfl
      · cases he
    | cons x t ih =>
      intro m he hf
      rw [List.foldl_cons]
      by_cases hm : m = e
      · subst hm
        by_cases hx : x = m
        · subst hx
          rw [ite_self]
          exact ih x (.inl rfl) fun y hy => hf y (List.mem_cons_of_mem _ hy)
        · rw [goesFirst_asymm (hf x (by simp) hx)]
          exact ih m (.inl rfl) fun y hy => hf y (by simp only [List.mem_cons] at hy ⊢; tauto)
      · by_cases hx : x = e
        · subst hx
          rw [hf m (by simp) hm, if_pos rfl]
          exact ih x (.inl rfl) fun y hy => hf y (by simp only [List.mem_cons] at hy ⊢; tauto)
        · have het : e ∈ t := by
            rcases he with he | he
            · exact absurd he.symm hm
            · rcases List.mem_cons.1 he with he | he
              · exact absurd he.symm hx
              · exact he
          split
          · exact ih x (.inr het) fun y hy => hf y (List.mem_cons_of_mem _ hy)
          · exact ih m (.inr het) fun y hy => hf y (by simp only [List.mem_cons] at hy ⊢; tauto)
  cases l with
  | nil => cases he
  | cons m t => exact congrArg some (fold t m (List.mem_cons.1 he) hf)

theorem emptyPlace_eq_some {c : CredUnit} {i : Nat} (hi : i < 256) (hfree : ∀ e ∈ c.entries, e.1 ≠ i)
    (hbelow : ∀ k, k < i → ∃ e ∈ c.entries, e.1 = k) : c.emptyPlace = some i := by
  unfold CredUnit.emptyPlace
  rw [List.find?_range_eq_some]
  refine ⟨?_, List.mem_range.2 hi, fun k hk => ?_⟩
  · simpa using hfree
  · obtain ⟨e, he, rfl⟩ := hbelow k hk
    simp only [Bool.not_not, List.any_eq_true, decide_eq_true_eq]
    exact ⟨e, he, rfl⟩

theorem emptyPlace_eq_none {c : CredUnit} (h : ∀ i, i < 256 → ∃ e ∈ c.entries, e.1 = i) : c.emptyPlace = none := by
  unfold CredUnit.emptyPlace
  rw [List.find?_eq_none]
  intro i hi
  obtain ⟨e, he, rfl⟩ := h i (List.mem_range.1 hi)
  simp only [Bool.not_eq_true', Bool.not_eq_false, List.any_eq_true, decide_eq_true_eq]
  exact ⟨e, he, rfl⟩

/-- What a verdict on a record comes to. -/
def Listing.ofVerdict (s : State) (r : CredRec) (why : RevReason) : ListVerdict → Listing
  | .notEntered => .same s
  | .enters i => .entered s r why i none
  | .displaces i q old => .entered s r why i (some (old.number, q, old.expiry))
  | .leftOut => .leftOut s r

/-- The list answers as the model's verdict has it. -/
theorem lists_eq {s : State} {r : CredRec} {why : RevReason} {x : Listing} (h : lists s r why x) :
    x = .ofVerdict s r why (s.verdict r) := by
  unfold lists at h
  unfold State.verdict CredUnit.verdict
  split at h
  · next hn => rw [if_pos hn, h]; rfl
  next hn =>
  rw [if_neg hn]
  split at h
  · next hc => rw [if_pos hc, h]; rfl
  next hc =>
  rw [if_neg hc]
  rcases h with ⟨i, hi, hfree, hbelow, rfl⟩ | ⟨hfull, e, he, hfirst, rfl⟩
  · rw [emptyPlace_eq_some hi hfree hbelow]; rfl
  · rw [emptyPlace_eq_none hfull]
    dsimp only
    rw [firstToGo_eq_some he fun y hy hne => goesFirst_of (hfirst y hy hne)]
    dsimp only
    split <;> rfl

section
variable (s : State) (r : CredRec) (why : RevReason) (v : ListVerdict)

@[simp] theorem Listing.ofVerdict_place : (Listing.ofVerdict s r why v).place = v.place := by cases v <;> rfl

@[simp] theorem Listing.ofVerdict_keys : (Listing.ofVerdict s r why v).keys = v.keys := by
  simp [Listing.keys, ListVerdict.keys]

@[simp] theorem Listing.ofVerdict_seq : (Listing.ofVerdict s r why v).seq = v.seqGiven s.cred.revCount := by
  cases v <;> rfl

theorem Listing.ofVerdict_displaces : ((Listing.ofVerdict s r why v).place.isSome &&
    (Listing.ofVerdict s r why v).out.isSome) = v.displacesOne := by cases v <;> rfl

end

/-! ### A verdict carried out, and a credential revoked -/

section
variable {s t : State} {r : CredRec} {why : RevReason}

/-- What a verdict carried out does, by the listing it comes to. -/
theorem applyVerdict_cred (v : ListVerdict) (ht : t.cred.list = s.cred.list) (hc : t.cred.revCount = s.cred.revCount) :
    (applyVerdict v (s.newEntry r why) t).cred = { t.cred with
      list := (Listing.ofVerdict s r why v).list, revCount := (Listing.ofVerdict s r why v).count } := by
  cases v <;> simp [applyVerdict, enterAt, reportDisplaced, Listing.ofVerdict, Listing.same, Listing.entered,
    Listing.leftOut, State.newEntry, ← ht, ← hc]

theorem applyVerdict_journal (v : ListVerdict) : (applyVerdict v (s.newEntry r why) t).journal =
    ((Listing.ofVerdict s r why v).records.foldl (fun x b => offer b x) t).journal := by
  cases v with
  | notEntered | enters => rfl
  | displaces i q old => exact offer_congr _ rfl rfl
  | leftOut => rfl

theorem applyVerdict_alarm (v : ListVerdict) : (applyVerdict v (s.newEntry r why) t).link.notices.get .alarm =
    ((Listing.ofVerdict s r why v).out.toList.map fun o => Detail.displaced o.1).foldl Notice.occur
      (t.link.notices.get .alarm) := by
  cases v with
  | notEntered | enters => rfl
  | displaces i q old =>
    simp [applyVerdict, reportDisplaced, Listing.ofVerdict, Listing.entered, offer_notice, enterAt]
  | leftOut =>
    simp [applyVerdict, reportDisplaced, Listing.ofVerdict, Listing.leftOut, offer_notice, State.newEntry]

theorem applyVerdict_notice {c : NoticeClass} (v : ListVerdict) (e : RevEntry) (h : c ≠ .journal) (h' : c ≠ .alarm) :
    (applyVerdict v e t).link.notices.get c = t.link.notices.get c := by
  cases v with
  | notEntered | enters => rfl
  | displaces i q old => simp [applyVerdict, reportDisplaced, post_notice_other _ _ h', offer_notice _ _ h, enterAt]
  | leftOut => simp [applyVerdict, reportDisplaced, post_notice_other _ _ h', offer_notice _ _ h]

theorem applyVerdict_store (v : ListVerdict) (e : RevEntry) : (applyVerdict v e t).store = t.store := by
  cases v <;> simp [applyVerdict, enterAt, reportDisplaced]

theorem alters.applyVerdict {K : List EntryKey} {P : List Part} {C : List NoticeClass} (h : alters K P C s t)
    (v : ListVerdict) (e : RevEntry) (hp : Part.cred ∈ P := by simp) (hj : Part.journal ∈ P := by simp)
    (hc : NoticeClass.journal ∈ C := by simp) (ha : NoticeClass.alarm ∈ C := by simp) :
    alters K P C s (applyVerdict v e t) := by
  cases v with
  | notEntered => exact h
  | enters i => exact h.onCred (fun c => { c with list := c.list.put i ⟨c.revCount + 1, some e⟩, revCount := c.revCount + 1 }) hp
  | displaces => exact ((h.onCred _ hp).offer _ hj hc).post _ _ ha
  | leftOut => exact (h.offer _ hj hc).post _ _ ha

/-- The slot's record revoked and its verdict carried out, before the entries are queued. -/
def revokedIn (slot : Nat) (why : RevReason) (s : State) (r : CredRec) : State :=
  applyVerdict (s.verdict r) (s.newEntry r why) (s.onCred fun c => { c with slots := c.slots.put slot (s.revokedRec r why) })

theorem revokeCred_eq {slot : Nat} (hr : s.cred.slots.get slot = some r) : revokeCred slot why s =
    ((.cred slot :: (s.verdict r).keys).foldl (fun x k => enqueue k x) (revokedIn slot why s r)) := by
  unfold revokeCred; rw [hr]; rfl

end

section
variable {s : State} {slot : Nat} {r : CredRec} {why : RevReason} (hr : s.cred.slots.get slot = some r)
include hr

theorem revokeCred_cred : (revokeCred slot why s).cred = { s.cred with
    slots := s.cred.slots.put slot (s.revokedRec r why)
    list := (Listing.ofVerdict s r why (s.verdict r)).list
    revCount := (Listing.ofVerdict s r why (s.verdict r)).count } := by
  rw [revokeCred_eq hr]
  exact (enqueueAll_part _ _ (p := .cred) (by simp)).trans (applyVerdict_cred _ rfl rfl)

theorem revokeCred_journal : (revokeCred slot why s).journal =
    ((Listing.ofVerdict s r why (s.verdict r)).records.foldl (fun x b => offer b x) s).journal := by
  rw [revokeCred_eq hr]
  exact (enqueueAll_part _ _ (p := .journal) (by simp)).trans
    ((applyVerdict_journal _).trans (offerAll_congr _ rfl rfl))

theorem revokeCred_alarm : (revokeCred slot why s).link.notices.get .alarm =
    ((Listing.ofVerdict s r why (s.verdict r)).out.toList.map fun o => Detail.displaced o.1).foldl Notice.occur
      (s.link.notices.get .alarm) := by
  rw [revokeCred_eq hr, show (List.foldl _ _ _ : State).link = _ from enqueueAll_part _ _ (p := .link) (by simp)]
  exact applyVerdict_alarm _

theorem revokeCred_notice {c : NoticeClass} (h : c ≠ .journal) (h' : c ≠ .alarm) :
    (revokeCred slot why s).link.notices.get c = s.link.notices.get c := by
  rw [revokeCred_eq hr, show (List.foldl _ _ _ : State).link = _ from enqueueAll_part _ _ (p := .link) (by simp)]
  exact applyVerdict_notice _ _ h h'

theorem revokeCred_placed {keys : List EntryKey} (hq : s.store.canQueue keys 0 = true)
    (hk : .cred slot :: (s.verdict r).keys ⊆ keys) :
    placed (.cred slot :: (s.verdict r).keys) (revokeCred slot why s) := by
  rw [revokeCred_eq hr]
  refine placed_enqueueAll (canQueue_mono ?_ hk)
  rwa [revokedIn, applyVerdict_store]

theorem revokeCred_canQueue {keys : List EntryKey} {n : Nat} (hq : s.store.canQueue keys n = true)
    (hk : .cred slot :: (s.verdict r).keys ⊆ keys) : (revokeCred slot why s).store.canQueue keys n = true := by
  rw [revokeCred_eq hr]
  refine canQueue_enqueueAll ?_ hk
  rwa [revokedIn, applyVerdict_store]

end

theorem alters.revokeCred {K : List EntryKey} {P : List Part} {C : List NoticeClass} {s t : State} {r : CredRec} {slot : Nat}
    (h : alters K P C s t) (why : RevReason) (hr : t.cred.slots.get slot = some r)
    (hk : ∀ k ∈ EntryKey.cred slot :: (t.verdict r).keys, k ∈ K) (hp : Part.cred ∈ P := by simp)
    (hj : Part.journal ∈ P := by simp) (hc : NoticeClass.journal ∈ C := by simp) (ha : NoticeClass.alarm ∈ C := by simp) :
    alters K P C s (revokeCred slot why t) := by
  rw [revokeCred_eq hr]
  exact ((h.onCred _ hp).applyVerdict _ _ hp hj hc ha).enqueueAll hk

end Sys2Proof.Machine

/-! ## An issue outcome applied (R30 to R32, R56, R57) -/

namespace Sys2Proof.Machine

set_option Elab.async false

/-! ### The state of a credential record changed -/

section
variable {s : State}

theorem setCredState_get (slot : Nat) (st : CredState) (k : Nat) : (setCredState slot st s).cred.slots.get k =
    (s.cred.slots.get k).map fun q => if k = slot then { q with state := st } else q := by
  unfold setCredState
  cases hs : s.cred.slots.get slot with
  | none =>
    by_cases hk : k = slot
    · subst hk; simp [hs]
    · simp [hs, hk]
  | some r =>
    by_cases hk : k = slot
    · subst hk; simp [hs]
    · simp [hs, hk, FMap.get_put_other]

/-- The state of a record changed changes the key table alone. -/
theorem setCredState_rest (slot : Nat) (st : CredState) :
    { (setCredState slot st s).cred with slots := s.cred.slots } = s.cred := by
  unfold setCredState; simp only [State.onCred_cred]; split <;> rfl

theorem alters.setCredState {K : List EntryKey} {P : List Part} {C : List NoticeClass} {t : State} (h : alters K P C s t)
    (slot : Nat) (st : CredState) (hp : Part.cred ∈ P := by simp) : alters K P C s (setCredState slot st t) := h.onCred _ hp

theorem setCredStates_get (l : List Nat) (st : CredState) (k : Nat) :
    (l.foldl (fun x i => setCredState i st x) s).cred.slots.get k =
      (s.cred.slots.get k).map fun q => if k ∈ l then { q with state := st } else q := by
  induction l generalizing s with
  | nil => simp
  | cons i l ih =>
    rw [List.foldl_cons, ih, setCredState_get]
    cases s.cred.slots.get k with
    | none => rfl
    | some q => by_cases hi : k = i <;> by_cases hl : k ∈ l <;> simp [hi, hl]

theorem setCredStates_rest (l : List Nat) (st : CredState) :
    { (l.foldl (fun x i => setCredState i st x) s).cred with slots := s.cred.slots } = s.cred := by
  induction l generalizing s with
  | nil => rfl
  | cons i l ih =>
    have h1 := ih (s := setCredState i st s)
    have h2 := setCredState_rest (s := s) i st
    rw [List.foldl_cons]
    generalize (List.foldl _ _ l : State).cred = c at h1 ⊢
    rw [← h2, ← h1]

/-- Records changed in turn change the credential unit alone. -/
theorem setCredStates_part (l : List Nat) (st : CredState) {p : Part} (h : p ≠ .cred) :
    p.same s (l.foldl (fun x i => setCredState i st x) s) := by
  induction l generalizing s with
  | nil => cases p <;> rfl
  | cons i l ih =>
    refine same_trans ?_ (ih (s := setCredState i st s))
    cases p <;> first | exact absurd rfl h | rfl

/-- The other ACTIVE GUEST credentials of a room, by their slots. -/
theorem mem_othersOf (hwf : s.cred.slots.wf) {slot room k : Nat} {q : CredRec} (hq : s.cred.slots.get k = some q)
    (hk : k ≠ slot) : k ∈ s.othersOf slot room ↔ q.kind = .guest ∧ q.state = .active ∧ q.room = room := by
  simp only [State.othersOf, State.activeGuests, CredRec.activeGuest, List.mem_map, List.mem_filter, Bool.and_eq_true,
    decide_eq_true_eq]
  constructor
  · rintro ⟨e, ⟨⟨he, ⟨h1, h2⟩, h3⟩, _⟩, rfl⟩
    have := FMap.get_of_mem hwf he
    obtain rfl := Option.some.inj (this.symm.trans hq)
    exact ⟨h1, h2, h3⟩
  · rintro ⟨h1, h2, h3⟩
    exact ⟨(k, q), ⟨⟨FMap.mem_of_get hq, ⟨h1, h2⟩, h3⟩, hk⟩, rfl⟩

theorem not_mem_othersOf (slot room : Nat) : slot ∉ s.othersOf slot room := by
  simp [State.othersOf]

end

/-! ### The success of an issue -/

/-- The table entries a success changes, but for a list place (R30). -/
def State.successKeys (s : State) (j : Job) (r : CredRec) : List EntryKey :=
  if j.mode = .newStay then [.cred j.slot, .room r.room] ++ (s.othersOf j.slot r.room).map .cred else [.cred j.slot]

/-- The tables as a NEW_STAY's success leaves them, before its tab is settled. -/
def stayTables (slot : Nat) (r : CredRec) (s : State) : State :=
  (s.othersOf slot r.room).foldl (fun x k => setCredState k .superseded x)
    ((setCredState slot .active s).modRoom r.room fun x => { x with entry := { x.entry with issue := r.issue } })

/-- The state after a success, before its entries are queued. -/
def succeeded (j : Job) (r : CredRec) (s : State) : State :=
  if j.mode = .newStay then
    if s.tab r.room = 0 then stayTables j.slot r s
    else settle r.room (s.tab r.room) r.issue .newStay (stayTables j.slot r s)
  else setCredState j.slot .active s

theorem applySuccess_eq (j : Job) (r : CredRec) (s : State) :
    applySuccess j r s = (s.successKeys j r).foldl (fun x k => enqueue k x) (succeeded j r s) := by
  unfold applySuccess State.successKeys succeeded
  split
  · rw [List.foldl_append, List.foldl_map]; rfl
  · rfl

section
variable {s : State} {j : Job} {r : CredRec}

theorem stayTables_rooms (slot i : Nat) : (stayTables slot r s).rooms.get i = (s.rooms.get i).map fun y =>
    if i = r.room then { y with entry := { y.entry with issue := r.issue } } else y := by
  have h : (stayTables slot r s).rooms = _ := setCredStates_part _ _ (p := .rooms) (by simp)
  rw [h, State.get_modRoom]
  simp only [setCredState_frame]
  by_cases hi : i = r.room
  · subst hi; simp
  · simp [hi]

theorem stayTables_cred (slot : Nat) : (stayTables slot r s).cred =
    ((s.othersOf slot r.room).foldl (fun x k => setCredState k .superseded x) (setCredState slot .active s)).cred := by
  have step : ∀ (l : List Nat) (u v : State), u.cred = v.cred →
      (l.foldl (fun x k => setCredState k .superseded x) u).cred = (l.foldl (fun x k => setCredState k .superseded x) v).cred := by
    intro l
    induction l with
    | nil => exact fun _ _ h => h
    | cons k l ih => exact fun u v h => ih _ _ (by simp only [setCredState, State.onCred_cred, h])
  exact step _ _ _ (by simp)

theorem stayTables_part (slot : Nat) {p : Part} (h : p ≠ .cred) (h' : p ≠ .rooms) : p.same s (stayTables slot r s) := by
  refine same_trans ?_ (setCredStates_part _ _ h)
  cases p <;> first | exact absurd rfl h | exact absurd rfl h' | simp [Part.same]

/-- A success leaves every part but the tables and the journal. -/
theorem succeeded_store : (succeeded j r s).store = s.store := by
  unfold succeeded; split
  · split
    · exact stayTables_part _ (p := .store) (by simp) (by simp)
    · rw [show (settle _ _ _ _ _).store = _ from (by simp : _ = (stayTables j.slot r s).store)]
      exact stayTables_part _ (p := .store) (by simp) (by simp)
  · simp

theorem succeeded_cred : (succeeded j r s).cred = if j.mode = .newStay then (stayTables j.slot r s).cred
    else (setCredState j.slot .active s).cred := by
  unfold succeeded; split
  · split
    · rfl
    · simp
  · rfl

/-- What a success leaves of the credential unit but for the key table. -/
theorem succeeded_rest : { (succeeded j r s).cred with slots := s.cred.slots } = s.cred := by
  rw [succeeded_cred]; split
  · rw [stayTables_cred]
    have h1 := setCredStates_rest (s := setCredState j.slot .active s) (s.othersOf j.slot r.room) .superseded
    have h2 := setCredState_rest (s := s) j.slot .active
    generalize (List.foldl _ _ _ : State).cred = c at h1 ⊢
    rw [← h2, ← h1]
  · exact setCredState_rest _ _

theorem succeeded_slot (hr : s.cred.slots.get j.slot = some r) :
    (succeeded j r s).cred.slots.get j.slot = some { r with state := .active } := by
  rw [succeeded_cred]; split
  · rw [stayTables_cred, setCredStates_get, setCredState_get, hr]
    simp [not_mem_othersOf]
  · rw [setCredState_get, hr]; simp

theorem succeeded_others (hwf : s.cred.slots.wf) {k : Nat} (hk : k ≠ j.slot) :
    (succeeded j r s).cred.slots.get k = (s.cred.slots.get k).map fun q =>
      if j.mode = .newStay ∧ q.kind = .guest ∧ q.state = .active ∧ q.room = r.room then { q with state := .superseded }
      else q := by
  rw [succeeded_cred]
  by_cases hm : j.mode = .newStay
  · rw [if_pos hm, stayTables_cred, setCredStates_get, setCredState_get]
    cases hq : s.cred.slots.get k with
    | none => rfl
    | some q => simp [hk, hm, mem_othersOf hwf hq hk]
  · rw [if_neg hm, setCredState_get]
    simp [hk, hm]

theorem succeeded_rooms (i : Nat) : (succeeded j r s).rooms.get i = (s.rooms.get i).map fun y =>
    if j.mode = .newStay ∧ i = r.room then { y with entry := { y.entry with issue := r.issue, tab := 0 } } else y := by
  unfold succeeded
  by_cases hm : j.mode = .newStay
  · rw [if_pos hm]
    by_cases ht : s.tab r.room = 0
    · rw [if_pos ht, stayTables_rooms]
      by_cases hi : i = r.room
      · subst hi
        cases hy : s.rooms.get r.room with
        | none => rfl
        | some y =>
          have : y.entry.tab = 0 := by simpa [State.tab, hy] using ht
          simp [hm, ← this]
      · simp [hi]
    · rw [if_neg ht, settle, State.get_modRoom]
      simp only [acceptRec_frame, stayTables_rooms]
      by_cases hi : i = r.room
      · subst hi; simp [hm]
        cases s.rooms.get r.room <;> rfl
      · simp [hi]
  · rw [if_neg hm]
    simp [hm]

theorem succeeded_clock : (succeeded j r s).clock = s.clock := by
  unfold succeeded; split
  · split
    · exact stayTables_part _ (p := .clock) (by simp) (by simp)
    · rw [show (settle _ _ _ _ _).clock = _ from (by simp : _ = (stayTables j.slot r s).clock)]
      exact stayTables_part _ (p := .clock) (by simp) (by simp)
  · simp

theorem succeeded_journal : (succeeded j r s).journal = (if j.mode = .newStay ∧ s.tab r.room ≠ 0 then
    acceptRec ⟨.settle, none, none, some r.room, .num (s.tab r.room), .num r.issue, .settle .newStay⟩ s else s).journal := by
  have journal : (stayTables j.slot r s).journal = s.journal := stayTables_part _ (p := .journal) (by simp) (by simp)
  have clock : (stayTables j.slot r s).clock = s.clock := stayTables_part _ (p := .clock) (by simp) (by simp)
  unfold succeeded
  by_cases hm : j.mode = .newStay
  · by_cases ht : s.tab r.room = 0
    · simp [hm, ht, journal]
    · rw [if_pos hm, if_neg ht, if_pos ⟨hm, ht⟩, settle]
      simp only [State.modRoom_frame]
      exact acceptRec_congr _ journal clock
  · simp [hm]

theorem alters.stayTables {K : List EntryKey} {P : List Part} {C : List NoticeClass} {t : State} (h : alters K P C s t)
    (slot : Nat) (hc : Part.cred ∈ P := by simp) (hr : Part.rooms ∈ P := by simp) : alters K P C s (stayTables slot r t) := by
  have supersede : ∀ (l : List Nat) (u : State), alters K P C s u →
      alters K P C s (l.foldl (fun x k => Machine.setCredState k .superseded x) u) := by
    intro l
    induction l with
    | nil => exact fun _ h => h
    | cons k l ih => exact fun u h => ih _ (h.setCredState k _ hc)
  exact supersede _ _ ((h.setCredState _ _ hc).modRoom _ _ hr)

theorem alters.succeeded {K : List EntryKey} {P : List Part} {C : List NoticeClass} {t : State} (h : alters K P C s t)
    (hc : Part.cred ∈ P := by simp) (hr : Part.rooms ∈ P := by simp) (hj : Part.journal ∈ P := by simp)
    (hn : NoticeClass.journal ∈ C := by simp) : alters K P C s (succeeded j r t) := by
  unfold Machine.succeeded; split
  · split
    · exact h.stayTables _ hc hr
    · exact ((h.stayTables _ hc hr).acceptRec _ hj hn).modRoom _ _ hr
  · exact h.setCredState _ _ hc

theorem succeeded_notice {c : NoticeClass} (h : c ≠ .journal) :
    (succeeded j r s).link.notices.get c = s.link.notices.get c :=
  ((alters.refl [] [.cred, .rooms, .journal] [.journal] s).succeeded).link.notices c (by simpa using h)

/-- The list answers a success's credential as it would have done before it. -/
theorem reach_succeeded : (succeeded j r s).reach r = s.reach r := by
  have groups : (succeeded j r s).groups = s.groups :=
    ((alters.refl [] [.cred, .rooms, .journal] [.journal] s).succeeded (j := j) (r := r)).rest .groups (by simp)
  unfold State.reach State.credGroups State.offlineGroups
  rw [groups]
  cases r.kind with
  | guest =>
    dsimp only
    rw [succeeded_rooms]
    cases s.rooms.get r.room with
    | none => rfl
    | some y => dsimp only [Option.map_some]; split <;> rfl
  | staff | restock | master => rfl

end

/-! ### An outcome applied -/

section
variable {s : State} {j : Job} {r : CredRec}

/-- A record's state says nothing of what the list answers. -/
theorem verdict_state (s : State) (r : CredRec) (st : CredState) : s.verdict { r with state := st } = s.verdict r := rfl

theorem ofVerdict_state (s : State) (r : CredRec) (st : CredState) (why : RevReason) (v : ListVerdict) :
    Listing.ofVerdict s { r with state := st } why v = .ofVerdict s r why v := by cases v <;> rfl

/-- The list answers alike where its entries, the clock, the checkout grace and the reach stand. -/
theorem verdict_congr {s t : State} (hlist : t.cred.list = s.cred.list) (hcount : t.cred.revCount = s.cred.revCount)
    (hclock : t.clock = s.clock) (hsettings : t.settings = s.settings) (hreach : t.reach r = s.reach r) :
    t.verdict r = s.verdict r := by
  unfold State.verdict CredUnit.verdict CredUnit.onList CredUnit.emptyPlace CredUnit.entries State.expiry
  rw [hlist, hcount, hclock, hsettings, hreach]

theorem ofVerdict_congr {s t : State} (hlist : t.cred.list = s.cred.list) (hcount : t.cred.revCount = s.cred.revCount)
    (hclock : t.clock = s.clock) (hsettings : t.settings = s.settings) (hreach : t.reach r = s.reach r)
    (why : RevReason) (v : ListVerdict) : Listing.ofVerdict t r why v = .ofVerdict s r why v := by
  cases v <;> simp [Listing.ofVerdict, Listing.same, Listing.entered, Listing.leftOut, State.expiry, hlist, hcount, hclock,
    hsettings, hreach]

/-- The credential unit's list after a success. -/
theorem applySuccess_cred : (applySuccess j r s).cred = (succeeded j r s).cred := by
  rw [applySuccess_eq]; exact enqueueAll_part _ _ (p := .cred) (by simp)

theorem applySuccess_list : (applySuccess j r s).cred.list = s.cred.list ∧
    (applySuccess j r s).cred.revCount = s.cred.revCount ∧ (applySuccess j r s).cred.serial = s.cred.serial := by
  rw [applySuccess_cred]
  have h := succeeded_rest (s := s) (j := j) (r := r)
  have list := congrArg CredUnit.list h
  have count := congrArg CredUnit.revCount h
  have serial := congrArg CredUnit.serial h
  exact ⟨list, count, serial⟩

theorem applySuccess_rooms : (applySuccess j r s).rooms = (succeeded j r s).rooms := by
  rw [applySuccess_eq]; exact enqueueAll_part _ _ (p := .rooms) (by simp)

theorem applySuccess_journal : (applySuccess j r s).journal = (succeeded j r s).journal := by
  rw [applySuccess_eq]; exact enqueueAll_part _ _ (p := .journal) (by simp)

theorem applySuccess_notice {c : NoticeClass} (h : c ≠ .journal) :
    (applySuccess j r s).link.notices.get c = s.link.notices.get c := by
  rw [applySuccess_eq, show (List.foldl _ _ _ : State).link = _ from enqueueAll_part _ _ (p := .link) (by simp)]
  exact succeeded_notice h

theorem applySuccess_reach : (applySuccess j r s).reach r = s.reach r := by
  rw [← reach_succeeded (s := s) (j := j)]
  have rooms := applySuccess_rooms (s := s) (j := j) (r := r)
  have groups : (applySuccess j r s).groups = (succeeded j r s).groups := by
    rw [applySuccess_eq]; exact enqueueAll_part _ _ (p := .groups) (by simp)
  unfold State.reach State.credGroups State.offlineGroups
  rw [rooms, groups]

theorem applySuccess_verdict : (applySuccess j r s).verdict r = s.verdict r :=
  verdict_congr applySuccess_list.1 applySuccess_list.2.1 (by simp) (by simp) applySuccess_reach

theorem applySuccess_ofVerdict (why : RevReason) (v : ListVerdict) :
    Listing.ofVerdict (applySuccess j r s) r why v = .ofVerdict s r why v :=
  ofVerdict_congr applySuccess_list.1 applySuccess_list.2.1 (by simp) (by simp) applySuccess_reach why v

theorem applySuccess_slot (hr : s.cred.slots.get j.slot = some r) :
    (applySuccess j r s).cred.slots.get j.slot = some { r with state := .active } := by
  rw [applySuccess_cred]; exact succeeded_slot hr

theorem applySuccess_placed {keys : List EntryKey} (hq : s.store.canQueue keys 0 = true) (hk : s.successKeys j r ⊆ keys) :
    placed (s.successKeys j r) (applySuccess j r s) := by
  rw [applySuccess_eq]
  exact placed_enqueueAll (canQueue_mono (by rwa [succeeded_store]) hk)

theorem applySuccess_canQueue {keys : List EntryKey} (hq : s.store.canQueue keys 0 = true) (hk : s.successKeys j r ⊆ keys) :
    (applySuccess j r s).store.canQueue keys 0 = true := by
  rw [applySuccess_eq]
  exact canQueue_enqueueAll (by rwa [succeeded_store]) hk

theorem alters.applySuccess {K : List EntryKey} {P : List Part} {C : List NoticeClass} {t : State} (h : alters K P C s t)
    (hk : ∀ k ∈ t.successKeys j r, k ∈ K) (hc : Part.cred ∈ P := by simp) (hr : Part.rooms ∈ P := by simp)
    (hj : Part.journal ∈ P := by simp) (hn : NoticeClass.journal ∈ C := by simp) : alters K P C s (applySuccess j r t) := by
  rw [applySuccess_eq]
  exact (h.succeeded hc hr hj hn).enqueueAll hk

/-- The key of a slot is among the keys of its success. -/
theorem cred_mem_successKeys : EntryKey.cred j.slot ∈ s.successKeys j r := by
  unfold State.successKeys; split <;> simp

/-- The end of a job: the encoder controller and the ISSUE class alone. -/
theorem alters.jobEnds {K : List EntryKey} {P : List Part} {C : List NoticeClass} {t : State} (h : alters K P C s t)
    (j : Job) (o : JobOutcome) (he : Part.enc ∈ P := by simp) (hi : NoticeClass.issue ∈ C := by simp) :
    alters K P C s (jobEnds j o t) := (h.post _ _ hi).onEnc _ he

theorem jobEnds_enc (j : Job) (o : JobOutcome) (s : State) : (jobEnds j o s).enc = { s.enc with job := none, headOp := none } :=
  rfl

theorem jobEnds_issue (j : Job) (o : JobOutcome) (s : State) : (jobEnds j o s).link.notices.get .issue =
    (s.link.notices.get .issue).occur (.issueEnd j.number o j.cause) := post_notice_self .issue _ s

theorem jobEnds_notice {c : NoticeClass} (j : Job) (o : JobOutcome) (s : State) (h : c ≠ .issue) :
    (jobEnds j o s).link.notices.get c = s.link.notices.get c := post_notice_other _ s h

end

end Sys2Proof.Machine

/-! ## An issue job's outcome reported: what `outcomeApplied` and `outcomeReported` say of it (R30 to R33, R55 to R57) -/

namespace Sys2Proof.Machine

set_option Elab.async false

section
variable {s : State} {j : Job} {r : CredRec}

theorem outcomeKeys_success : s.outcomeKeys j .success r =
    s.successKeys j r ++ if j.after.isSome then (s.verdict r).keys else [] := by
  unfold State.outcomeKeys State.successKeys
  simp

theorem outcomeKeys_aborted : s.outcomeKeys j .aborted r = .cred j.slot :: (s.verdict r).keys := by
  simp [State.outcomeKeys]

theorem outcomeKeys_released : s.outcomeKeys j .released r = [.cred j.slot] := by
  simp [State.outcomeKeys]

theorem verdictKeys_ne_journalState {v : ListVerdict} {k : EntryKey} (hk : k ∈ v.keys) : k ≠ .journalState := by
  obtain ⟨i, _, rfl⟩ := List.mem_map.1 hk
  simp

/-- An outcome changes no journal-state entry. -/
theorem outcomeKeys_ne_journalState {o : JobOutcome} {k : EntryKey} (hk : k ∈ s.outcomeKeys j o r) : k ≠ .journalState := by
  have success : ∀ {k}, k ∈ s.successKeys j r → k ≠ .journalState := by
    intro k hk
    unfold State.successKeys at hk
    split at hk
    · simp only [List.cons_append, List.nil_append, List.mem_cons, List.mem_map] at hk
      rcases hk with rfl | rfl | ⟨i, _, rfl⟩ <;> simp
    · obtain rfl := List.mem_singleton.1 hk
      simp
  cases o with
  | success =>
    rw [outcomeKeys_success, List.mem_append] at hk
    rcases hk with hk | hk
    · exact success hk
    · split at hk
      · exact verdictKeys_ne_journalState hk
      · cases hk
  | aborted =>
    rw [outcomeKeys_aborted] at hk
    rcases List.mem_cons.1 hk with rfl | hk
    · simp
    · exact verdictKeys_ne_journalState hk
  | released =>
    rw [outcomeKeys_released] at hk
    obtain rfl := List.mem_singleton.1 hk
    simp

theorem canQueue_of_outcomeFits {o : JobOutcome} (h : s.outcomeFits j o r = true) :
    s.store.canQueue (s.outcomeKeys j o r) 0 = true := by
  simp only [State.outcomeFits, Bool.and_eq_true] at h
  exact h.1

/-- Places stand through a record offered and the job's end. -/
theorem placed_jobEnds {keys : List EntryKey} {u : State} (h : placed keys u) (hk : ∀ k ∈ keys, k ≠ .journalState)
    (b : JBody) (o : JobOutcome) : placed keys (finish (jobEnds j o (offer b u))) :=
  placed_end (placed_congr (u := offer b u) (placed_congr h (by simp) fun k hm => entryVal_offer b (hk k hm)) rfl
    fun k _ => by cases k <;> rfl)

/-! ### Released -/

/-- A released outcome frees the slot (R32). -/
theorem applyOutcome_released (fits : s.outcomeFits j .released r = true) :
    outcomeApplied j .released j.cause r s (finish (applyOutcome j .released r s)) := by
  have queue := canQueue_of_outcomeFits fits
  have altered : alters (s.outcomeKeys j .released r) [.rooms, .cred, .enc, .journal] [.alarm, .issue, .journal] s
      (applyOutcome j .released r s) :=
    ((((alters.refl _ _ _ s).onCred _).enqueue _ (by simp [outcomeKeys_released])).offer _).jobEnds _ _
  have body : issueFailedBody j r .released = failedRecord r j.cause .freed := by
    unfold issueFailedBody failedRecord; cases j.cause <;> rfl
  refine ⟨?_, posted_finish (by simp) ?_, ?_, altered.changesOnly, ?_, ?_, journaled_one (t := applyReleased j.slot s) ?_ ?_ ?_⟩
  · simp [applyOutcome, jobEnds_enc, applyReleased]
  · simp [applyOutcome, jobEnds_issue, applyReleased, offer_notice]
  · refine placed_jobEnds ?_ (fun k => outcomeKeys_ne_journalState) _ _
    rw [outcomeKeys_released] at queue ⊢
    exact placed_enqueue (canQueue_roomFor (t := s.store) queue (by simp))
  · simp [applyOutcome, applyReleased]
  · simp [applyOutcome, applyReleased]
  · simp [applyOutcome, body]
  · simp [applyReleased]
  · simp [applyOutcome]

/-! ### Aborted -/

/-- An aborted outcome revokes the record and offers it to the list (R32, R33). -/
theorem applyOutcome_aborted (hr : s.cred.slots.get j.slot = some r) (fits : s.outcomeFits j .aborted r = true) :
    outcomeApplied j .aborted j.cause r s (finish (applyOutcome j .aborted r s)) := by
  have queue := canQueue_of_outcomeFits fits
  have altered : alters (s.outcomeKeys j .aborted r) [.rooms, .cred, .enc, .journal] [.alarm, .issue, .journal] s
      (applyOutcome j .aborted r s) :=
    ((((alters.refl _ _ _ s).revokeCred _ hr fun k hk => by rwa [outcomeKeys_aborted])).offer _).jobEnds _ _
  have body : issueFailedBody j r .aborted = failedRecord r j.cause .aborted := by
    unfold issueFailedBody failedRecord; cases j.cause <;> rfl
  refine ⟨?_, posted_finish (by simp) ?_, ?_, altered.changesOnly, ?_, fun x hx => ?_⟩
  · simp [applyOutcome, jobEnds_enc]
  · rw [applyOutcome, jobEnds_issue, offer_notice _ _ (by simp), revokeCred_notice hr (by simp) (by simp)]
  · refine placed_jobEnds ?_ (fun k => outcomeKeys_ne_journalState) _ _
    rw [outcomeKeys_aborted] at queue ⊢
    exact revokeCred_placed hr queue fun _ h => h
  · simp [applyOutcome]
  · obtain rfl := lists_eq hx
    refine ⟨?_, journaled_all ?_ rfl (by simp [applyOutcome]), fun o ho => posted_finish (by simp) ?_⟩
    · simp only [applyOutcome, finish_frame, jobEnds_frame, offer_frame]
      exact revokeCred_cred hr
    · simp only [applyOutcome, finish_frame, jobEnds_frame, body]
      exact offer_offerAll (revokeCred_journal hr) (by simp)
    · rw [applyOutcome, jobEnds_notice _ _ _ (by simp), offer_notice _ _ (by simp), revokeCred_alarm hr, ho]
      rfl

/-! ### Success -/

/-- The state of a success, and of the revocation that follows it, before its records are offered. -/
def successState (j : Job) (r : CredRec) (s : State) : State :=
  match j.after with
  | none => applySuccess j r s
  | some why => revokeCred j.slot why (applySuccess j r s)

/-- The listing a success comes to. -/
def Listing.ofSuccess (s : State) (j : Job) (r : CredRec) : Listing :=
  match j.after with
  | none => .same s
  | some why => .ofVerdict s r why (s.verdict r)

theorem successState_rooms : (successState j r s).rooms = (succeeded j r s).rooms := by
  unfold successState
  cases j.after with
  | none => exact applySuccess_rooms
  | some why => simp [applySuccess_rooms]

section
variable (hr : s.cred.slots.get j.slot = some r)
include hr

theorem successState_cred : (successState j r s).cred = { (succeeded j r s).cred with
    slots := match j.after with
      | none => (succeeded j r s).cred.slots
      | some why => (succeeded j r s).cred.slots.put j.slot (s.revokedRec r why)
    list := (Listing.ofSuccess s j r).list, revCount := (Listing.ofSuccess s j r).count } := by
  have list := applySuccess_list (s := s) (j := j) (r := r)
  rw [applySuccess_cred] at list
  unfold successState Listing.ofSuccess
  cases j.after with
  | none =>
    dsimp only
    rw [applySuccess_cred]
    unfold Listing.same
    rw [← list.1, ← list.2.1]
  | some why =>
    dsimp only
    rw [revokeCred_cred (applySuccess_slot hr), applySuccess_cred, ofVerdict_state, verdict_state, applySuccess_verdict,
      applySuccess_ofVerdict]
    have revoked : (applySuccess j r s).revokedRec { r with state := .active } why = s.revokedRec r why := by
      simp [State.revokedRec]
    rw [revoked]

theorem successState_journal : (successState j r s).journal =
    ((Listing.ofSuccess s j r).records.foldl (fun x b => offer b x) (succeeded j r s)).journal := by
  unfold successState Listing.ofSuccess
  cases j.after with
  | none => exact applySuccess_journal
  | some why =>
    dsimp only
    rw [revokeCred_journal (applySuccess_slot hr), ofVerdict_state, verdict_state, applySuccess_verdict,
      applySuccess_ofVerdict]
    exact offerAll_congr _ applySuccess_journal (by rw [succeeded_clock]; simp)

theorem successState_alarm : (successState j r s).link.notices.get .alarm =
    ((Listing.ofSuccess s j r).out.toList.map fun o => Detail.displaced o.1).foldl Notice.occur
      (s.link.notices.get .alarm) := by
  unfold successState Listing.ofSuccess
  cases j.after with
  | none => exact applySuccess_notice (by simp)
  | some why =>
    dsimp only
    rw [revokeCred_alarm (applySuccess_slot hr), ofVerdict_state, verdict_state, applySuccess_verdict,
      applySuccess_ofVerdict, applySuccess_notice (by simp)]

theorem successState_issue : (successState j r s).link.notices.get .issue = s.link.notices.get .issue := by
  unfold successState
  cases j.after with
  | none => exact applySuccess_notice (by simp)
  | some why =>
    dsimp only
    rw [revokeCred_notice (applySuccess_slot hr) (by simp) (by simp), applySuccess_notice (by simp)]

theorem successState_placed (hq : s.store.canQueue (s.outcomeKeys j .success r) 0 = true) :
    placed (s.outcomeKeys j .success r) (successState j r s) := by
  have success := applySuccess_placed (s := s) (j := j) (r := r) hq (by rw [outcomeKeys_success]; exact List.subset_append_left _ _)
  rw [outcomeKeys_success] at hq ⊢
  unfold successState
  cases ha : j.after with
  | none => simpa [ha] using success
  | some why =>
    have slot := applySuccess_slot (s := s) (j := j) hr
    rw [ha] at hq
    have revoked := revokeCred_placed (why := why) slot
      (applySuccess_canQueue (j := j) (r := r) hq (List.subset_append_left _ _)) (by
        rw [verdict_state, applySuccess_verdict]
        exact List.cons_subset.2 ⟨by simp [cred_mem_successKeys], by simp⟩)
    rw [verdict_state, applySuccess_verdict] at revoked
    intro k hk
    simp only [Option.isSome_some, if_true, List.mem_append] at hk
    by_cases hm : k ∈ EntryKey.cred j.slot :: (s.verdict r).keys
    · exact revoked k hm
    · have hs : k ∈ s.successKeys j r := hk.resolve_right fun h => hm (List.mem_cons_of_mem _ h)
      have val : (revokeCred j.slot why (applySuccess j r s)).entryVal k = (applySuccess j r s).entryVal k := by
        have hne : k ≠ .cred j.slot := fun e => hm (by simp [e])
        unfold State.successKeys at hs
        split at hs
        · simp only [List.cons_append, List.nil_append, List.mem_cons, List.mem_map] at hs
          rcases hs with rfl | rfl | ⟨i, _, rfl⟩
          · exact absurd rfl hne
          · simp [State.entryVal]
          · have hi : i ≠ j.slot := fun e => hne (by rw [e])
            simp [State.entryVal, revokeCred_cred slot, FMap.get_put_other _ _ hi]
        · exact absurd (List.mem_singleton.1 hs) hne
      dsimp only
      rw [val, revokeCred_eq slot, enqueueAll_contents_other _ (by rwa [verdict_state, applySuccess_verdict]), revokedIn,
        applyVerdict_store]
      exact success k hs

end

theorem alters.successState {K : List EntryKey} {P : List Part} {C : List NoticeClass}
    (hr : s.cred.slots.get j.slot = some r) (hk : ∀ k ∈ s.outcomeKeys j .success r, k ∈ K) (hc : Part.cred ∈ P := by simp)
    (hro : Part.rooms ∈ P := by simp) (hj : Part.journal ∈ P := by simp) (hn : NoticeClass.journal ∈ C := by simp)
    (ha : NoticeClass.alarm ∈ C := by simp) : alters K P C s (successState j r s) := by
  rw [outcomeKeys_success] at hk
  have success : alters K P C s (Machine.applySuccess j r s) :=
    (alters.refl K P C s).applySuccess (fun k h => hk k (List.mem_append_left _ h)) hc hro hj hn
  unfold Machine.successState
  cases hs : j.after with
  | none => exact success
  | some why =>
    rw [hs] at hk
    refine success.revokeCred why (applySuccess_slot hr) (fun k h => ?_) hc hj hn ha
    rw [verdict_state, applySuccess_verdict] at h
    rcases List.mem_cons.1 h with rfl | h
    · exact hk _ (List.mem_append_left _ cred_mem_successKeys)
    · exact hk _ (List.mem_append_right _ h)

/-- The records of a success, behind those of the state it is made of. -/
def offerSuccess (j : Job) (r : CredRec) (seq : Nat) (s : State) : State :=
  match j.after with
  | none => offer (issuedBody j r) s
  | some why => offer (revokedBody r why seq) (offer (issuedBody j r) s)

theorem applyOutcome_success (j : Job) (r : CredRec) (s : State) : applyOutcome j .success r s =
    jobEnds j .success (offerSuccess j r (Listing.ofSuccess s j r).seq (successState j r s)) := by
  unfold applyOutcome offerSuccess successState Listing.ofSuccess
  cases j.after with
  | none => rfl
  | some why => simp [applySuccess_verdict, applySuccess_list]

theorem alters.offerSuccess {K : List EntryKey} {P : List Part} {C : List NoticeClass} {t : State} (h : alters K P C s t)
    (seq : Nat) (hj : Part.journal ∈ P := by simp) (hn : NoticeClass.journal ∈ C := by simp) :
    alters K P C s (offerSuccess j r seq t) := by
  unfold Machine.offerSuccess
  cases j.after with
  | none => exact h.offer _ hj hn
  | some why => exact (h.offer _ hj hn).offer _ hj hn

/-- The records of a success change the journal unit and the JOURNAL class alone. -/
theorem offerSuccess_part (seq : Nat) (t : State) {p : Part} (h : p ≠ .journal) (h' : p ≠ .link) :
    p.same t (offerSuccess j r seq t) := by
  unfold offerSuccess
  cases j.after <;> cases p <;> first | exact absurd rfl h | exact absurd rfl h' | simp [Part.same]

theorem offerSuccess_journal (x : Listing) {t u : State} (hj : t.journal = (x.records.foldl (fun y b => offer b y) u).journal)
    (hc : t.clock = u.clock) : (offerSuccess j r x.seq t).journal =
      ((successRecords j r x).foldl (fun y b => offer b y) u).journal := by
  have issued := offer_offerAll (b := issuedBody j r) hj hc
  unfold offerSuccess successRecords
  cases j.after with
  | none => exact issued
  | some why =>
    refine (offer_offerAll issued (by simpa using hc)).trans ?_
    rw [List.append_assoc]; rfl

/-- A success makes the record ACTIVE, or REVOKED where a revocation follows it, and a NEW_STAY's gives its room its
issue number, settles its tab and supersedes its other ACTIVE GUEST credentials (R31). -/
theorem applyOutcome_succeeds (hr : s.cred.slots.get j.slot = some r) (fits : s.outcomeFits j .success r = true) :
    outcomeApplied j .success j.cause r s (finish (applyOutcome j .success r s)) := by
  have queue := canQueue_of_outcomeFits fits
  rw [applyOutcome_success]
  have altered : alters (s.outcomeKeys j .success r) [.rooms, .cred, .enc, .journal] [.alarm, .issue, .journal] s
      (jobEnds j .success (offerSuccess j r (Listing.ofSuccess s j r).seq (successState j r s))) :=
    ((alters.successState hr fun _ h => h).offerSuccess _).jobEnds _ _
  have enc : (offerSuccess j r (Listing.ofSuccess s j r).seq (successState j r s)).enc = s.enc :=
    ((alters.successState (P := [.cred, .rooms, .journal]) (C := [.journal, .alarm]) hr fun _ h => h).offerSuccess _).rest
      .enc (by simp)
  have clock : (successState j r s).clock = (succeeded j r s).clock := by
    rw [succeeded_clock]
    exact (alters.successState (P := [.cred, .rooms, .journal]) (C := [.journal, .alarm]) hr fun _ h => h).rest .clock (by simp)
  have cred : (offerSuccess j r (Listing.ofSuccess s j r).seq (successState j r s)).cred = (successState j r s).cred :=
    offerSuccess_part _ _ (p := .cred) (by simp) (by simp)
  have rooms : (offerSuccess j r (Listing.ofSuccess s j r).seq (successState j r s)).rooms = (successState j r s).rooms :=
    offerSuccess_part _ _ (p := .rooms) (by simp) (by simp)
  have notice : ∀ c, c ≠ .journal → (offerSuccess j r (Listing.ofSuccess s j r).seq (successState j r s)).link.notices.get c =
      (successState j r s).link.notices.get c := fun c hc =>
    ((alters.refl [] [.journal] [.journal] _).offerSuccess _).link.notices c (by simpa using hc)
  refine ⟨?_, posted_finish (by simp) ?_, ?_, altered.changesOnly, fun hwf x hx => ?_⟩
  · simp [jobEnds_enc, enc]
  · rw [jobEnds_issue, notice _ (by simp), successState_issue hr]
  · have offered : placed (s.outcomeKeys j .success r)
        (offerSuccess j r (Listing.ofSuccess s j r).seq (successState j r s)) := by
      have offer_placed : ∀ (b : JBody) (u : State), placed (s.outcomeKeys j .success r) u →
          placed (s.outcomeKeys j .success r) (offer b u) := fun b u h =>
        placed_congr h (by simp) fun k hk => entryVal_offer b (outcomeKeys_ne_journalState hk)
      unfold offerSuccess
      cases j.after with
      | none => exact offer_placed _ _ (successState_placed hr queue)
      | some why => exact offer_placed _ _ (offer_placed _ _ (successState_placed hr queue))
    exact placed_end (placed_congr offered rfl fun k _ => by cases k <;> rfl)
  obtain rfl : x = .ofSuccess s j r := by
    unfold Listing.ofSuccess
    cases ha : j.after with
    | none => rw [ha] at hx; exact hx
    | some why => rw [ha] at hx; exact lists_eq hx
  have unit := (show (finish (jobEnds j .success (offerSuccess j r _ (successState j r s)))).cred = _ by
    simp only [finish_frame, jobEnds_frame]; exact cred).trans (successState_cred hr)
  have serial := congrArg CredUnit.serial (succeeded_rest (s := s) (j := j) (r := r))
  refine ⟨?_, fun k hk => ?_, ?_, ?_, ?_, fun i => ?_, ?_, fun o ho => posted_finish (by simp) ?_⟩
  · rw [unit]
    cases j.after with
    | none => exact succeeded_slot hr
    | some why => exact FMap.get_put_self _ _ _
  · rw [unit]
    cases j.after with
    | none => exact succeeded_others hwf hk
    | some why => exact (FMap.get_put_other _ _ hk).trans (succeeded_others hwf hk)
  · rw [unit]
  · rw [unit]
  · rw [unit]; exact serial
  · simp only [finish_frame, jobEnds_frame]
    rw [rooms, successState_rooms, succeeded_rooms]
  · simp only [finish_frame, jobEnds_frame]
    rw [offerSuccess_journal _ (successState_journal hr) clock]
    refine offerAll_congr _ succeeded_journal ?_
    rw [succeeded_clock]; split <;> simp
  · rw [jobEnds_notice _ _ _ (by simp), notice _ (by simp), successState_alarm hr, ho]
    rfl

/-- An outcome that fits is applied. -/
theorem applyOutcome_applied (o : JobOutcome) (hr : s.cred.slots.get j.slot = some r) (fits : s.outcomeFits j o r = true) :
    outcomeApplied j o j.cause r s (finish (applyOutcome j o r s)) := by
  cases o with
  | released => exact applyOutcome_released fits
  | aborted => exact applyOutcome_aborted hr fits
  | success => exact applyOutcome_succeeds hr fits

/-! ### An outcome reported -/

/-- A job that has reported an outcome (R55). -/
def Job.reports (o : JobOutcome) (cause : Option JobCause) (j : Job) : Job :=
  { j with outcome := some o, cause := cause, cardWait := none, headEnd := none }

/-- The encoder controller of a job that has reported an outcome. -/
def reporting (o : JobOutcome) (cause : Option JobCause) (s : State) : State :=
  s.onEnc fun e => { e with headOp := none, job := e.job.map (Job.reports o cause) }

theorem reportOutcome_eq (o : JobOutcome) (cause : Option JobCause) (s : State) :
    reportOutcome o cause s = tryOutcome (reporting o cause s) := rfl

/-- What has changed after a change of the encoder controller has changed before it, with the encoder controller. -/
theorem changesOnly_enc {K : List EntryKey} {P : List Part} {C : List NoticeClass} {f : Encoder → Encoder} {t : State}
    (h : changesOnly K P C (s.onEnc f) t) (he : Part.enc ∈ P := by simp) : changesOnly K P C s t := by
  obtain ⟨⟨c1, c2, c3, c4, c5, c6⟩, changes, ⟨l1, l2, l3, l4, l5, l6, l7⟩, slot, notices, rest⟩ := h
  refine ⟨⟨c1, c2, c3, c4, c5, c6⟩, changes, ⟨l1, l2, l3, l4, l5, l6, l7⟩, slot, notices, fun p hp => ?_⟩
  have := rest p hp
  cases p <;> first | exact this | exact absurd (by simp [he]) hp

/-- An applied outcome speaks of the encoder controller's reading level and last result alone. -/
theorem outcomeApplied_reporting {o : JobOutcome} {cause : Option JobCause} {t : State}
    (h : outcomeApplied (j.reports o cause) o cause r (reporting o cause s) t) : outcomeApplied j o cause r s t := by
  obtain ⟨enc, posted, placed, changes, applied⟩ := h
  have journaled : ∀ {bodies : List JBody}, journaled bodies (reporting o cause s) t → journaled bodies s t :=
    fun h => h.trans (offerAll_congr _ rfl rfl)
  refine ⟨enc, posted, placed, changesOnly_enc changes, ?_⟩
  · cases o with
    | released => exact ⟨applied.1, applied.2.1, journaled applied.2.2⟩
    | aborted =>
      refine ⟨applied.1, fun x hx => ?_⟩
      obtain ⟨cred, records, posts⟩ := applied.2 x hx
      exact ⟨cred, journaled records, posts⟩
    | success =>
      refine fun hwf x hx => ?_
      obtain ⟨slot, others, list, count, serial, rooms, journal, alarm⟩ := applied hwf x hx
      let body : JBody := ⟨.settle, none, none, some r.room, .num (s.tab r.room), .num r.issue, .settle .newStay⟩
      have settled : ∀ (c : Prop) [Decidable c], (if c then acceptRec body (reporting .success cause s)
          else reporting .success cause s).journal = (if c then acceptRec body s else s).journal ∧
          (if c then acceptRec body (reporting .success cause s) else reporting .success cause s).clock =
            (if c then acceptRec body s else s).clock := by
        intro c _
        by_cases hc : c
        · simp only [if_pos hc]
          exact ⟨acceptRec_congr _ rfl rfl, by simp [reporting]⟩
        · simp only [if_neg hc]
          exact ⟨rfl, rfl⟩
      exact ⟨slot, others, list, count, serial, rooms, journal.trans (offerAll_congr _ (settled _).1 (settled _).2), alarm⟩

/-- A reported outcome is applied where it fits, and otherwise held in the job. -/
theorem reportOutcome_cases (o : JobOutcome) (cause : Option JobCause) (hj : s.enc.job = some j)
    (hr : s.cred.slots.get j.slot = some r) : reportOutcome o cause s =
      if s.outcomeFits j o r then applyOutcome (j.reports o cause) o r (reporting o cause s) else reporting o cause s := by
  have job : (reporting o cause s).enc.job = some (j.reports o cause) := by simp [reporting, hj]
  rw [reportOutcome_eq]
  unfold tryOutcome
  rw [job]
  dsimp only [Job.reports]
  rw [show (reporting o cause s).cred.slots.get j.slot = some r from hr]
  rfl

/-- The report of an issue job's outcome: applied with every place it needs, and otherwise held (R30). -/
theorem reportOutcome_reported (o : JobOutcome) (cause : Option JobCause) (hj : s.enc.job = some j)
    (hr : s.cred.slots.get j.slot = some r) : outcomeReported j o cause r s (finish (reportOutcome o cause s)) := by
  refine ⟨fun fits => ?_, fun fits => ?_⟩
  · rw [reportOutcome_cases o cause hj hr, if_pos fits]
    exact outcomeApplied_reporting (applyOutcome_applied (s := reporting o cause s) (j := j.reports o cause) o hr fits)
  · rw [reportOutcome_cases o cause hj hr, if_neg (by simp [fits])]
    exact ⟨by simp [reporting, hj, Job.reports], ((alters.refl _ _ _ s).onEnc _).changesOnly⟩

end

end Sys2Proof.Machine

/-! ## The course of the encoder job (O29, O36 to O39) -/

namespace Sys2Proof.Machine

set_option Elab.async false

section
variable {s : State} {j : Job}

/-! ### What the operations at the head do to the encoder controller -/

theorem sendWrite_enc (hj : s.enc.job = some j) (i : Job) : (sendWrite i s).enc = { s.enc with
    headOp := some (.write (i.image.getD []))
    job := some { j with state := .writing, writeStarted := true, cardWait := none, headEnd := some 400 } } := by
  simp [sendWrite, sendHead, modJob, hj, HeadOp.timeout, Config.writeTimeout]

theorem sendRead_enc (hj : s.enc.job = some j) (st : JobState) : (sendRead st s).enc = { s.enc with
    headOp := some .read, job := some { j with state := st, cardWait := none, headEnd := some 200 } } := by
  simp [sendRead, sendHead, modJob, hj, HeadOp.timeout, Config.readTimeout]

theorem enterVoiding_enc (hj : s.enc.job = some j) (n : Nat) (cause : JobCause) : (enterVoiding n cause s).enc = { s.enc with
    headOp := some (.write (s.voidImage n))
    job := some { j with state := .voiding, cause := some cause, headEnd := some 400 } } := by
  simp [enterVoiding, sendHead, modJob, hj, HeadOp.timeout, Config.writeTimeout]

theorem endRead_enc (r : ReadResult) : (endRead r s).enc = { s.enc with job := none, headOp := none, lastRead := some r } := by
  simp [endRead]

section
variable {K : List EntryKey} {P : List Part} {C : List NoticeClass} {t : State} (h : alters K P C s t)
include h

theorem alters.modJob (f : Job → Job) (he : Part.enc ∈ P := by simp) : alters K P C s (modJob f t) := h.onEnc _ he

theorem alters.sendHead (op : HeadOp) (he : Part.enc ∈ P := by simp) : alters K P C s (sendHead op t) := h.onEnc _ he

theorem alters.sendWrite (i : Job) (he : Part.enc ∈ P := by simp) : alters K P C s (sendWrite i t) :=
  (h.modJob _ he).sendHead _ he

theorem alters.sendRead (st : JobState) (he : Part.enc ∈ P := by simp) : alters K P C s (sendRead st t) :=
  (h.modJob _ he).sendHead _ he

theorem alters.enterVoiding (n : Nat) (c : JobCause) (he : Part.enc ∈ P := by simp) : alters K P C s (enterVoiding n c t) :=
  (h.modJob _ he).sendHead _ he

theorem alters.endRead (r : ReadResult) (he : Part.enc ∈ P := by simp) (hi : NoticeClass.issue ∈ C := by simp) :
    alters K P C s (endRead r t) := (h.post _ _ hi).onEnc _ he

end

/-- The end of a READ job: its result kept and posted (R63). -/
theorem endRead_ends (f : Encoder → Encoder) (hf : ∀ e, { f e with job := none, headOp := none, lastRead := e.lastRead } =
    { e with job := none, headOp := none }) (r : ReadResult) :
    (finish (endRead r (s.onEnc f))).enc = { s.enc with job := none, headOp := none, lastRead := some r } ∧
    posted .issue (.readEnd r) s (finish (endRead r (s.onEnc f))) ∧
    changesOnly [] [.enc] [.issue] s (finish (endRead r (s.onEnc f))) := by
  refine ⟨?_, posted_finish (by simp) (post_notice_self .issue _ (s.onEnc f)),
    (((alters.refl _ _ _ s).onEnc f).endRead r).changesOnly⟩
  have := congrArg (fun e : Encoder => { e with lastRead := some r }) (hf s.enc)
  simpa [endRead_enc] using this

/-- The end of an operation at the head says nothing that a report does not say again. -/
theorem reportOutcome_endOp (o : JobOutcome) (cause : Option JobCause) (s : State) :
    reportOutcome o cause (s.onEnc Encoder.endOp) = reportOutcome o cause s := by
  rw [reportOutcome_eq, reportOutcome_eq]
  congr 1
  simp only [reporting, State.onEnc, Encoder.endOp, Option.map_map]
  rfl

theorem endOp_job (hj : s.enc.job = some j) : (s.onEnc Encoder.endOp).enc.job = some { j with headEnd := none } := by
  simp [Encoder.endOp, hj]

/-- The void image is one of the number and the identity (R48). -/
theorem voidImage_onEnc (f : Encoder → Encoder) (n : Nat) : (s.onEnc f).voidImage n = s.voidImage n := rfl

end

/-! ### CARD READ (O29) -/

/-- Settles O29. -/
theorem cardReadBegins : Obligations.CardReadBegins := by
  intro h s a hj
  let s0 := s.onEnc fun e => { e with job := some .read }
  refine ⟨_, desk_reply a (u := enterWaiting s0) (lines := [.readStarted]) (by simp [hj, s0]), fun hc => ?_, fun hc hw => ?_,
    fun hc hw => ?_⟩
  · have eq : enterWaiting s0 = sendRead .reading (modJob (fun j => { j with state := .waitingCard, cardWait := some s.settings.wait }) s0) := by
      simp [enterWaiting, modJob, s0, hc, cardArrives, Job.read]
    rw [eq]
    refine ⟨?_, ((((alters.refl _ _ _ s).onEnc _).modJob _).sendRead _).answersOnly h _⟩
    simp only [finish_frame, placeReply_frame]
    rw [sendRead_enc (j := { Job.read with cardWait := some s.settings.wait }) (by simp [modJob, s0, Job.read])]
    simp [modJob, s0, Job.read]
  · have eq : enterWaiting s0 = modJob (fun j => { j with state := .waitingCard, cardWait := some s.settings.wait }) s0 := by
      simp [enterWaiting, modJob, s0, hc, hw]
    rw [eq]
    refine ⟨?_, (((alters.refl _ _ _ s).onEnc _).modJob _).answersOnly h _⟩
    simp [modJob, s0, Job.read]
  · have eq : enterWaiting s0 = endRead .noCard (modJob (fun j => { j with state := .waitingCard, cardWait := some s.settings.wait }) s0) := by
      simp [enterWaiting, modJob, s0, hc, hw, waitEnds, Job.read]
    rw [eq]
    refine ⟨?_, posted_finish (by simp) ?_, ((((alters.refl _ _ _ s).onEnc _).modJob _).endRead _).answersOnly h _⟩
    · simp [endRead_enc, modJob, s0, hj]
    · exact post_notice_self .issue _ _

/-! ### The card, and the wait for it (O36) -/

theorem waitingJob_eq {e : Encoder} {j : Job} (hj : e.job = some j) (hs : j.state = .waitingCard) (ho : j.outcome = none) :
    e.waitingJob = some j := by simp [Encoder.waitingJob, hj, hs, ho]

/-- Settles O36: by the kind of the job that waits. -/
theorem cardsComeAndWaitsExpire : Obligations.CardsComeAndWaitsExpire := by
  refine ⟨fun s present hp => ?_, fun s j hw hj hs ho => ?_, fun s j hw hj hs ho hc => ?_⟩
  · have quiet : exec (.cardInChange present) s = done (s.onEnc fun e => { e with cardIn := present }) := by
      show execCardInChange present s = _
      unfold execCardInChange
      dsimp only
      split
      · next j hj =>
        rw [if_neg]
        rintro h
        simp only [Bool.and_eq_true] at h
        have hj' : s.enc.waitingJob = some j := hj
        have hw : s.working = true := h.2
        rcases hp with hp | hp | hp
        · rw [hp] at h; cases h.1
        · rw [hp] at hj'; cases hj'
        · rw [hp] at hw; cases hw
      · rfl
    exact ⟨_, quiet, by simp, ((alters.refl _ _ _ s).onEnc _).changesOnly⟩
  · have wait : (s.onEnc fun e => { e with cardIn := true }).enc.waitingJob = some j := waitingJob_eq hj hs ho
    have arrives : exec (.cardInChange true) s = done (cardArrives j (s.onEnc fun e => { e with cardIn := true })) := by
      show execCardInChange true s = _
      unfold execCardInChange
      dsimp only
      rw [wait]
      exact if_pos hw
    refine ⟨_, arrives, ?_, ?_⟩
    · have hj' : (s.onEnc fun e => { e with cardIn := true }).enc.job = some j := hj
      simp only [finish_frame, cardArrives]
      cases hk : j.kind with
      | issue => simp [sendWrite_enc hj', hk]
      | read => simp [sendRead_enc hj', hk]
    · unfold cardArrives
      split
      · exact (((alters.refl _ _ _ s).onEnc _).sendWrite _).changesOnly
      · exact (((alters.refl _ _ _ s).onEnc _).sendRead _).changesOnly
  · have ends : exec .cardWaitExpiry s = done (waitEnds j s) := by
      show execCardWaitExpiry s = _
      unfold execCardWaitExpiry
      rw [waitingJob_eq hj hs ho]
      exact if_pos (by simp [hw, hc])
    refine ⟨_, ends, fun hk r hr => ?_, fun hk => ?_⟩
    · rw [waitEnds, hk]; exact reportOutcome_reported _ _ hj hr
    · rw [waitEnds, hk]; exact endRead_ends id (fun _ => rfl) .noCard

/-! ### The head's answers (O37, O38) -/

section
variable {s : State} {j : Job} {r : CredRec} (hj : s.enc.job = some j)
include hj

/-- A card present is voided, and otherwise the job reports aborted (R52 to R54). -/
theorem failOrVoid_acts (hr : s.cred.slots.get j.slot = some r) (cause : JobCause) :
    (s.enc.cardIn = true →
      (finish (failOrVoid j cause (s.onEnc Encoder.endOp))).enc = { s.enc with
        headOp := some (.write (s.voidImage j.number))
        job := some { j with state := .voiding, cause := some cause, headEnd := some 400 } } ∧
      changesOnly [] [.enc] [] s (finish (failOrVoid j cause (s.onEnc Encoder.endOp)))) ∧
    (s.enc.cardIn = false → outcomeReported j .aborted (some cause) r s
      (finish (failOrVoid j cause (s.onEnc Encoder.endOp)))) := by
  refine ⟨fun hc => ?_, fun hc => ?_⟩
  · have voids : failOrVoid j cause (s.onEnc Encoder.endOp) = enterVoiding j.number cause (s.onEnc Encoder.endOp) :=
      if_pos hc
    rw [voids]
    refine ⟨?_, (((alters.refl _ _ _ s).onEnc _).enterVoiding _ _).changesOnly⟩
    simp [enterVoiding_enc (endOp_job hj), voidImage_onEnc, Encoder.endOp]
  · have aborts : failOrVoid j cause (s.onEnc Encoder.endOp) = reportOutcome .aborted (some cause) (s.onEnc Encoder.endOp) :=
      if_neg (by simp [Encoder.endOp, hc])
    rw [aborts, reportOutcome_endOp]
    exact reportOutcome_reported _ _ hj hr

end

/-- Settles O37. -/
theorem writeAnswersAreActedOn : Obligations.WriteAnswersAreActedOn := by
  intro s j r b c fault hc ho hj hr
  have answered : exec c s = done (writeAnswered j fault s) := by
    have write : s.enc.writeJob = some j := by simp [Encoder.writeJob, ho, hj]
    rcases hc with ⟨rfl, rfl⟩ | ⟨rfl, rfl⟩ | ⟨rfl, rfl⟩ | ⟨rfl, rfl⟩
    · show execWriteImageAnswer .ok s = _
      simp only [execWriteImageAnswer, write, writeFault]
    · show execWriteImageAnswer .noCard s = _
      simp only [execWriteImageAnswer, write, writeFault]
    · show execWriteImageAnswer .writeFault s = _
      simp only [execWriteImageAnswer, write, writeFault]
    · show execHeadTimeout s = _
      simp only [execHeadTimeout, write]
  refine ⟨_, answered, fun hs hcan hf => ?_, fun cause hs hcause => ?_, fun hs => ?_⟩
  · have reads : writeAnswered j fault s = sendRead .verifying (s.onEnc Encoder.endOp) := by
      simp [writeAnswered, hs, hcan, hf]
    rw [reads]
    refine ⟨?_, (((alters.refl _ _ _ s).onEnc _).sendRead _).changesOnly⟩
    simp [sendRead_enc (endOp_job hj), Encoder.endOp]
  · have fails : writeAnswered j fault s = failOrVoid j cause (s.onEnc Encoder.endOp) := by
      cases hcan : j.cancel with
      | true =>
        rw [hcan, if_pos rfl] at hcause
        simp [writeAnswered, hs, hcan, hcause]
      | false =>
        rw [hcan, if_neg (by simp)] at hcause
        simp [writeAnswered, hs, hcan, hcause]
    rw [fails]
    exact failOrVoid_acts hj hr cause
  · have reports : writeAnswered j fault s = reportOutcome (if fault = none then .released else .aborted) j.cause s := by
      cases fault <;> simp [writeAnswered, hs, reportOutcome_endOp]
    rw [reports]
    exact reportOutcome_reported _ _ hj hr

section
variable {s : State} {j : Job} (ho : s.enc.headOp = some .read) (hj : s.enc.job = some j)
include ho hj

theorem readJob_eq : s.enc.readJob = some j := by simp [Encoder.readJob, ho, hj]

theorem exec_readImageAnswer (a : ReadAnswer) : exec (.readImageAnswer a) s = done (readAnswered j (readBrings a) s) := by
  show execReadImageAnswer a s = _
  simp only [execReadImageAnswer, readJob_eq ho hj]

theorem exec_headTimeout_read : exec .headTimeout s = done (readAnswered j (.inr .headTimeout) s) := by
  have write : s.enc.writeJob = none := by simp [Encoder.writeJob, ho]
  show execHeadTimeout s = _
  simp only [execHeadTimeout, write, readJob_eq ho hj]

end

/-- Settles O38: in VERIFYING by the bytes and the cancel mark, in READING by what was brought. -/
theorem readAnswersAreActedOn : Obligations.ReadAnswersAreActedOn := by
  refine ⟨fun s j r b ho hj hr hs hcan => ?_, fun s j r c cause hc ho hj hr hs => ?_, fun s j c result hc ho hj hs => ?_⟩
  · have checks : readAnswered j (readBrings (.image b)) s = verified j b (s.onEnc Encoder.endOp) := by
      simp [readAnswered, hs, hcan, readBrings]
    refine ⟨_, by rw [exec_readImageAnswer ho hj, checks]; rfl, fun hb => ?_, fun hb hu => ?_, fun hb hu => ?_⟩
    · rw [verified, if_pos hb, reportOutcome_endOp]
      exact reportOutcome_reported _ _ hj hr
    · rw [verified, if_neg hb, hu, if_neg (by simp)]
      refine ⟨?_, ((((alters.refl _ _ _ s).onEnc _).modJob _).sendWrite _).changesOnly⟩
      have job : (modJob (fun j => { j with rewriteUsed := true }) (s.onEnc Encoder.endOp)).enc.job =
          some { j with rewriteUsed := true, headEnd := none } := by simp [modJob, Encoder.endOp, hj]
      simp only [finish_frame]
      rw [sendWrite_enc job]
      simp [modJob, Encoder.endOp]
    · rw [verified, if_neg hb, hu, if_pos rfl]
      refine ⟨?_, (((alters.refl _ _ _ s).onEnc _).enterVoiding _ _).changesOnly⟩
      simp [enterVoiding_enc (endOp_job hj), voidImage_onEnc, Encoder.endOp, hu]
  · have fails : exec c s = done (failOrVoid j cause (s.onEnc Encoder.endOp)) := by
      rcases hc with ⟨rfl, hcan, rfl⟩ | ⟨rfl, hcan, rfl⟩ | ⟨hc, hcan, rfl⟩
      · rw [exec_readImageAnswer ho hj]; simp [readAnswered, hs, hcan, readBrings]
      · rw [exec_headTimeout_read ho hj]; simp [readAnswered, hs, hcan]
      · rcases hc with rfl | ⟨answer, rfl⟩
        · rw [exec_headTimeout_read ho hj]; simp [readAnswered, hs, hcan]
        · rw [exec_readImageAnswer ho hj]; simp [readAnswered, hs, hcan]
    exact ⟨_, fails, failOrVoid_acts hj hr cause⟩
  · have ends : exec c s = done (endRead (if j.cancel = true then .cancelled else result) (s.onEnc Encoder.endOp)) := by
      rcases hc with ⟨b, rfl, rfl⟩ | ⟨rfl, rfl⟩ | ⟨rfl, rfl⟩
      · rw [exec_readImageAnswer ho hj]
        cases hcan : j.cancel <;> simp [readAnswered, hs, hcan, readBrings]
        rfl
      · rw [exec_readImageAnswer ho hj]
        cases hcan : j.cancel <;> simp [readAnswered, hs, hcan, readBrings]
      · rw [exec_headTimeout_read ho hj]
        cases hcan : j.cancel <;> simp [readAnswered, hs, hcan]
    exact ⟨_, ends, endRead_ends Encoder.endOp (fun _ => rfl) _⟩

/-! ### Held outcomes (O39) -/

/-- Settles O39, by what applying an outcome comes to (`applyOutcome_applied`). -/
theorem heldOutcomesAreApplied : Obligations.HeldOutcomesAreApplied := by
  intro s j o r hw hg hj ho hr
  let u := s.onSignals fun g => { g with credential := false }
  have retried : exec .heldOutcomeRetry s = done (if s.outcomeFits j o r then applyOutcome j o r u else u) := by
    show execHeldOutcomeRetry s = _
    rw [execHeldOutcomeRetry, if_pos (by simp [hw, hg])]
    unfold tryOutcome
    rw [show u.enc.job = some j from hj]
    dsimp only
    rw [ho, show u.cred.slots.get j.slot = some r from hr]
    rfl
  cases fits : s.outcomeFits j o r with
  | false =>
    rw [fits] at retried
    refine ⟨_, retried, by simp [u], fun _ => ⟨by simp [u], ((alters.refl _ _ _ s).onSignals _).changesOnly⟩, fun h => ?_⟩
    cases h
  | true =>
    rw [fits] at retried
    have signals : (finish (applyOutcome j o r u)).signals = { s.signals with credential := false } := by simp [u]
    refine ⟨_, retried, signals, fun h => ?_, fun _ => ?_⟩
    · cases h
    · rw [if_pos rfl, signals]
      exact applyOutcome_applied o hr fits

end Sys2Proof.Machine

/-! ## Cancelling and revoking (O26, O27) -/

namespace Sys2Proof.Machine

set_option Elab.async false

/-! ### A job released -/

/-- An issue job that has reported released is over, its slot FREE, its record offered and its occurrence posted. -/
structure jobReleased (j : Job) (r : CredRec) (cause : Option JobCause) (s u : State) : Prop where
  enc : u.enc = { s.enc with job := none, headOp := none }
  cred : u.cred = { s.cred with slots := s.cred.slots.del j.slot }
  journal : u.journal = (offer (failedRecord r cause .freed) s).journal
  issue : u.link.notices.get .issue = (s.link.notices.get .issue).occur (.issueEnd j.number .released cause)
  notices : ∀ c, c ≠ .journal → c ≠ .issue → u.link.notices.get c = s.link.notices.get c
  placed : placed [.cred j.slot] u
  altered : alters [.cred j.slot] [.cred, .enc, .journal] [.journal, .issue] s u

section
variable {s : State} {j : Job} {r : CredRec}

theorem outcomeFits_released : s.outcomeFits j .released r = s.store.canQueue [.cred j.slot] 0 := by
  simp [State.outcomeFits, outcomeKeys_released, State.needsStaging]

theorem reportOutcome_released (cause : Option JobCause) (hj : s.enc.job = some j) (hr : s.cred.slots.get j.slot = some r)
    (hq : s.store.canQueue [.cred j.slot] 0 = true) : jobReleased j r cause s (reportOutcome .released cause s) := by
  let u := applyReleased j.slot (reporting .released cause s)
  have eq : reportOutcome .released cause s =
      jobEnds (j.reports .released cause) .released (offer (failedRecord r cause .freed) u) := by
    rw [reportOutcome_cases _ _ hj hr, outcomeFits_released, if_pos hq]
    have body : issueFailedBody (j.reports .released cause) r .released = failedRecord r cause .freed := by
      unfold issueFailedBody failedRecord Job.reports; cases cause <;> rfl
    rw [applyOutcome, body]
    rfl
  rw [eq]
  constructor
  · simp [jobEnds_enc, u, applyReleased, reporting]
  · simp [u, applyReleased, reporting]
  · simp only [jobEnds_frame]
    exact offer_congr _ (by simp [u, applyReleased, reporting]) (by simp [u, applyReleased, reporting])
  · rw [jobEnds_issue, offer_notice _ _ (by simp)]
    simp [u, applyReleased, reporting, Job.reports]
  · intro c h1 h2
    rw [jobEnds_notice _ _ _ h2, offer_notice _ _ h1]
    simp [u, applyReleased, reporting]
  · have queued : placed [.cred j.slot] u := placed_enqueue (canQueue_roomFor (t := s.store) hq (by simp))
    refine placed_congr (u := u) queued (by simp) fun k hk => ?_
    obtain rfl := List.mem_singleton.1 hk
    simp [State.entryVal]
  · exact (((((alters.refl _ _ _ s).onEnc _).onCred _).enqueue _).offer _).jobEnds _ _

theorem reportOutcome_held (cause : Option JobCause) (hj : s.enc.job = some j) (hr : s.cred.slots.get j.slot = some r)
    (hq : s.store.canQueue [.cred j.slot] 0 = false) : reportOutcome .released cause s = reporting .released cause s := by
  rw [reportOutcome_cases _ _ hj hr, outcomeFits_released, if_neg (by simp [hq])]

/-! ### CANCEL and ENCODER RESET -/

/-- The last read result cleared by ENCODER RESET (R60). -/
def clearedBy (reset : Bool) (s : State) : State := if reset then s.onEnc fun e => { e with lastRead := none } else s

theorem alters.clearedBy {K : List EntryKey} {P : List Part} {C : List NoticeClass} {t : State} (h : alters K P C s t)
    (reset : Bool) (he : Part.enc ∈ P := by simp) : alters K P C s (clearedBy reset t) := by
  unfold Machine.clearedBy; split
  · exact h.onEnc _ he
  · exact h

theorem clearedBy_enc (reset : Bool) (s : State) :
    (clearedBy reset s).enc = { s.enc with lastRead := if reset = true then none else s.enc.lastRead } := by
  unfold clearedBy; split <;> simp_all

/-- ENCODER RESET's clearing touches the encoder controller alone. -/
theorem clearedBy_part (reset : Bool) (s : State) {p : Part} (h : p ≠ .enc) : p.same s (clearedBy reset s) := by
  unfold clearedBy; split
  · cases p <;> first | exact absurd rfl h | rfl
  · cases p <;> rfl

theorem clearedBy_entryVal (reset : Bool) (s : State) (k : EntryKey) : (clearedBy reset s).entryVal k = s.entryVal k := by
  unfold clearedBy; split
  · cases k <;> rfl
  · rfl

end

/-- CANCEL of the job, by its number or by none, and ENCODER RESET, are the cancel of the job. -/
theorem exec_cancels {h : ReqHead} {s : State} {c : Instr} {reset : Bool} (a : accepts h s)
    (hc : (reset = false ∧ (c = .cancel h .absent ∨ ∃ j, s.enc.job = some j ∧ j.kind = .issue ∧ 1 ≤ j.number ∧
        j.number ≤ max32 ∧ c = .cancel h (.given j.number))) ∨ (reset = true ∧ c = .encoderReset h))
    (hj : s.enc.job.isSome = true ∨ reset = true) : exec c s = .next (finish (placeReply h.tag
      [.cancelled (cancelJob s).1.jobState (cancelJob s).2] (clearedBy reset (cancelJob s).1))) := by
  rcases hc with ⟨rfl, rfl | ⟨j, hjob, hk, h1, h2, rfl⟩⟩ | ⟨rfl, rfl⟩
  · obtain ⟨j, hjob⟩ := Option.isSome_iff_exists.1 (hj.resolve_right (by simp))
    exact desk_reply a (by rw [hjob]; rfl)
  · refine desk_reply a ?_
    have inRange : badOpt (.given j.number) 1 max32 = false := (badReq_given j.number 1 max32).2 ⟨h1, h2⟩
    rw [inRange, hjob]
    simp [Job.numberDiffers, hk, clearedBy]
  · refine desk_reply a ?_
    simp only [clearedBy, if_true]
    rfl

/-- A cancel ends an issue job that has not written (R59). -/
theorem cancelJob_ends {s : State} {j : Job} (hj : s.enc.job = some j) (hk : j.kind = .issue) (ho : j.outcome = none)
    (hcan : j.cancel = false) (hs : j.state = .preparing ∨ j.state = .waitingCard) :
    cancelJob s = (reportOutcome .released (some .cancelled) s, .ended) := by
  unfold cancelJob
  rw [hj]
  dsimp only
  rw [ho, hcan]
  rcases hs with hs | hs <;> simp [hk, hs]

/-- Settles O26: a cancel acts by the kind and the state of the job. -/
theorem jobsAreCancelled : Obligations.JobsAreCancelled := by
  refine ⟨fun h s a => ⟨fun n hn => answers_refused a ?_, fun hj number hn => answers_refused a ?_,
    fun j n hj h1 h2 hd => answers_refused a ?_⟩, fun h s c reset a hc => ?_⟩
  · have outside : badOpt (.given n) 1 max32 = true := by
      simp only [badOpt, Bool.or_eq_true, decide_eq_true_eq]; omega
    rw [outside]; rfl
  · rw [hj]
    rcases hn with rfl | ⟨n, rfl, h1, h2⟩
    · rfl
    · have inRange : badOpt (.given n) 1 max32 = false := (badReq_given n 1 max32).2 ⟨h1, h2⟩
      rw [inRange]; rfl
  · have inRange : badOpt (.given n) 1 max32 = false := (badReq_given n 1 max32).2 ⟨h1, h2⟩
    rw [inRange, hj]
    have differs : j.numberDiffers (.given n) = true := by simpa [Job.numberDiffers] using hd
    simp [differs]
  refine ⟨fun j hj hb => ?_, fun j r hj hk ho hcan hs hr hq => ?_, fun j r hj hk ho hcan hs hr hq => ?_,
    fun j hj ho hcan hs => ?_, fun j hj hk hs ho hcan => ?_, fun hj hreset => ?_⟩
  · have stays : cancelJob s = (s, .none) := by
      unfold cancelJob
      rw [hj]
      dsimp only
      rcases hb with hb | hb | ⟨hk, hs⟩
      · simp [hb]
      · simp [hb]
      · split
        · rfl
        · rw [hk, hs]
    refine ⟨_, exec_cancels a hc (by simp [hj]), ?_, ?_⟩
    · simp [stays, clearedBy_enc]
    · rw [stays, State.jobState, hj]
      exact ((alters.refl _ _ _ s).clearedBy reset).answersOnly h _
  · have held : cancelJob s = (reporting .released (some .cancelled) s, .ended) := by
      rw [cancelJob_ends hj hk ho hcan hs, reportOutcome_held _ hj hr hq]
    refine ⟨_, exec_cancels a hc (by simp [hj]), ?_, ?_⟩
    · simp [held, clearedBy_enc, reporting, hj, Job.reports]
    · have state : (reporting .released (some .cancelled) s).jobState = some j.state := by
        simp [State.jobState, reporting, hj, Job.reports]
      rw [held, state]
      exact (((alters.refl _ _ _ s).onEnc _).clearedBy reset).answersOnly h _
  · have released := reportOutcome_released (some .cancelled) hj hr hq
    have ends := cancelJob_ends hj hk ho hcan hs
    have cleared : ∀ {p : Part}, p ≠ .enc → p.same (reportOutcome .released (some .cancelled) s)
        (clearedBy reset (reportOutcome .released (some .cancelled) s)) := fun hp => clearedBy_part reset _ hp
    refine ⟨_, exec_cancels a hc (by simp [hj]), ?_, ?_, ?_, ?_, ?_, ?_⟩
    · simp [ends, clearedBy_enc, released.enc]
    · rw [ends]
      simpa using (cleared (p := .cred) (by simp)).trans released.cred
    · rw [ends]
      refine journaled_one (t := s) ?_ rfl ?_
      · simpa [failedRecord] using (cleared (p := .journal) (by simp)).trans released.journal
      · simpa using ((cleared (p := .clock) (by simp)).trans (released.altered.rest .clock (by simp))).symm
    · rw [ends]
      refine posted_finish (by simp) ?_
      rw [placeReply_link, show (clearedBy reset _).link = _ from cleared (p := .link) (by simp)]
      exact released.issue
    · rw [ends]
      exact placed_finish (placed_congr released.placed (cleared (p := .store) (by simp)) fun k _ => clearedBy_entryVal _ _ k)
    · rw [ends]
      have idle : (reportOutcome .released (some .cancelled) s).jobState = none := by simp [State.jobState, released.enc]
      rw [idle]
      exact (released.altered.clearedBy reset).answersOnly h _
  · have marks : cancelJob s = (modJob (fun j => { j with cancel := true }) s, .marked) := by
      unfold cancelJob
      rw [hj]
      dsimp only
      rw [ho, hcan]
      rcases hs with ⟨hk, hs | hs⟩ | ⟨hk, hs⟩ <;> simp [hk, hs]
    refine ⟨_, exec_cancels a hc (by simp [hj]), ?_, ?_⟩
    · simp [marks, clearedBy_enc, modJob, hj]
    · have state : (modJob (fun j => { j with cancel := true }) s).jobState = some j.state := by
        simp [State.jobState, modJob, hj]
      rw [marks, state]
      exact (((alters.refl _ _ _ s).modJob _).clearedBy reset).answersOnly h _
  · have ends : cancelJob s = (endRead .cancelled s, .ended) := by
      unfold cancelJob
      rw [hj]
      dsimp only
      simp [ho, hcan, hk, hs]
    refine ⟨_, exec_cancels a hc (by simp [hj]), ?_, ?_, ?_⟩
    · simp [ends, clearedBy_enc, endRead_enc]
    · rw [ends]
      refine posted_finish (by simp) ?_
      rw [placeReply_link, show (clearedBy reset _).link = _ from clearedBy_part reset _ (p := .link) (by simp)]
      exact post_notice_self .issue _ s
    · have idle : (endRead .cancelled s).jobState = none := by simp [State.jobState, endRead_enc]
      rw [ends, idle]
      exact (((alters.refl _ _ _ s).endRead _).clearedBy reset).answersOnly h _
  · have stays : cancelJob s = (s, .none) := by unfold cancelJob; rw [hj]
    refine ⟨_, exec_cancels a hc (.inr hreset), ?_, ?_⟩
    · simp [stays, clearedBy_enc, hreset]
    · rw [stays, State.jobState, hj]
      exact ((alters.refl _ _ _ s).clearedBy reset).answersOnly h _

/-! ### A revocation that reaches the encoder job (R30, R34, R59) -/

section
variable {s : State} {j : Job} {r : CredRec}

/-- The state with this encoder job. -/
def State.withJob (s : State) (j : Job) : State := s.onEnc fun e => { e with job := some j }

theorem withJob_self (hj : s.enc.job = some j) : s.withJob j = s := by
  unfold State.withJob State.onEnc; rw [← hj]

theorem modJob_eq (hj : s.enc.job = some j) (f : Job → Job) : modJob f s = s.withJob (f j) := by
  unfold modJob State.withJob State.onEnc; simp only [hj, Option.map_some]

/-- A job whose held success, if it has one, is marked to be followed by a revocation (R30). -/
def Job.markedAfter (why : RevReason) (j : Job) : Job :=
  if j.outcome = some .success then { j with after := some (j.after.getD why) } else j

theorem markHeld_eq (hj : s.enc.job = some j) (why : RevReason) : markHeld why s = s.withJob (j.markedAfter why) := by
  rw [markHeld, modJob_eq hj, Job.markedAfter]
  obtain ⟨kind, mode, state, number, slot, image, carried, writeStarted, rewriteUsed, cancel, cause, outcome, after, _, _⟩ := j
  by_cases ho : outcome = some .success
  · cases after <;> simp [ho]
  · simp [ho]

/-- With no held success a revocation marks nothing. -/
theorem markHeld_self (hj : s.enc.job = some j) (ho : j.outcome ≠ some .success) (why : RevReason) : markHeld why s = s := by
  rw [markHeld_eq hj, Job.markedAfter, if_neg ho, withJob_self hj]

theorem endsByCancel_iff : j.endsByCancel = true ↔ j.outcome = none ∧ j.cancel = false ∧
    (j.state = .preparing ∨ j.state = .waitingCard) := by
  simp [Job.endsByCancel, and_assoc]

/-- A revocation ends an issue job that has not written. -/
theorem reachPending_ends (hj : s.enc.job = some j) (hk : j.kind = .issue) (he : j.endsByCancel = true) (why : RevReason) :
    reachPending why s = reportOutcome .released (some .cancelled) s := by
  obtain ⟨ho, hcan, hs⟩ := endsByCancel_iff.1 he
  rw [reachPending, markHeld_self hj (by simp [ho]), cancelJob_ends hj hk ho hcan hs]

/-- What a cancel does to an issue job that it does not end (R59). -/
theorem cancelJob_marks (hk : j.kind = .issue) (he : j.endsByCancel = false) : (cancelJob (s.withJob j)).1 =
    s.withJob { j with cancel := j.cancel ||
      (j.outcome.isNone && (decide (j.state = .writing) || decide (j.state = .verifying))) } := by
  obtain ⟨kind, mode, state, number, slot, image, carried, writeStarted, rewriteUsed, cancel, cause, outcome, after, _, _⟩ := j
  obtain rfl : kind = .issue := hk
  unfold cancelJob
  dsimp only [State.withJob, State.onEnc_enc]
  cases outcome with
  | some o => simp
  | none =>
    cases cancel with
    | true => simp
    | false =>
      cases state with
      | preparing | waitingCard => simp [Job.endsByCancel] at he
      | writing | verifying | voiding | reading => rfl

theorem endsByCancel_markedAfter (why : RevReason) : (j.markedAfter why).endsByCancel = j.endsByCancel := by
  unfold Job.markedAfter; split <;> rfl

theorem reached_eq (why : RevReason) (j : Job) : j.reached why = { j.markedAfter why with cancel := j.cancel ||
    (j.outcome.isNone && (decide (j.state = .writing) || decide (j.state = .verifying))) } := by
  unfold Job.reached Job.markedAfter
  by_cases ho : j.outcome = some .success <;> simp [ho]

/-- A revocation marks any other issue job. -/
theorem reachPending_marks (hj : s.enc.job = some j) (hk : j.kind = .issue) (he : j.endsByCancel = false) (why : RevReason) :
    reachPending why s = s.withJob (j.reached why) := by
  have kind : (j.markedAfter why).kind = .issue := by unfold Job.markedAfter; split <;> exact hk
  rw [reachPending, markHeld_eq hj, cancelJob_marks kind (by rwa [endsByCancel_markedAfter]), reached_eq]
  unfold Job.markedAfter
  split <;> rfl

end

/-! ### REVOKE (O27) -/

theorem findCred_number {s : State} {n slot : Nat} {r : CredRec} (h : s.findCred n = some (slot, r)) : r.number = n := by
  simpa using List.find?_some h

theorem badReason_eq_false {why : RevReason} (h : why = .lost ∨ why = .security) : badReason (.given why) = false := by
  rcases h with rfl | rfl <;> rfl

/-- The list place asked for with a credential, entered or not (notes/assumptions/16). -/
theorem canRevoke_eq (s : State) (slot : Nat) (r : CredRec) (why : RevReason) : s.canRevoke slot r =
    s.store.canQueue (.cred slot :: (Listing.ofVerdict s r why (s.verdict r)).keys)
      (if (Listing.ofVerdict s r why (s.verdict r)).place = none then 1 else 0) := by
  unfold State.canRevoke
  rw [Listing.ofVerdict_keys, Listing.ofVerdict_place]
  cases hv : (s.verdict r).place with
  | none => simp [ListVerdict.keys, hv]
  | some i => simp [ListVerdict.keys, hv]

theorem canQueue_less {t : Store} {keys : List EntryKey} {n : Nat} (h : t.canQueue keys n = true) : t.canQueue keys 0 = true := by
  rw [canQueue_iff] at h ⊢; omega

/-- Settles O27, by the state of the record found. -/
theorem revokeTakesEffect : Obligations.RevokeTakesEffect := by
  intro h s n slot r why a h1 h2 hwhy hf hr
  have number := findCred_number hf
  have found : ∀ {k : Answer}, revokeFound slot r why s = k →
      (if badReq (.given n) 1 max32 || badReason (.given why) then Answer.refuse .field
        else match s.findCred (argNat (.given n)) with
          | none => .refuse .notFound
          | some (slot, r) => revokeFound slot r (argOr (.given why) .lost) s) = k := by
    intro k hk
    rw [(badReq_given n 1 max32).2 ⟨h1, h2⟩, badReason_eq_false hwhy, argNat_given, hf]
    exact hk
  refine ⟨fun hst hro x hx hq => ?_, fun hst hro j hj hk hslot => ⟨fun he => ?_, fun he hq => ?_⟩, fun hst => ?_, fun hst => ?_⟩
  · obtain rfl := lists_eq hx
    have room := canRevoke_eq s slot r why
    rw [hq] at room
    let body := revokedBody r why ((s.verdict r).seqGiven s.cred.revCount)
    have reported : revokeReported slot why s = offer body (revokeCred slot why s) := by
      unfold revokeReported; rw [hr]
    have placedKeys := revokeCred_placed (why := why) hr (keys := .cred slot :: (s.verdict r).keys) (by
      have := canQueue_less hq
      rwa [Listing.ofVerdict_keys] at this) fun _ h => h
    refine ⟨_, desk_reply a (u := revokeReported slot why s)
      (lines := [.revoked .revoked (some why) ((s.verdict r).seqGiven s.cred.revCount) (s.verdict r).displacesOne])
      (found ?_), ?_, ?_, fun o ho => posted_finish (by simp) ?_, ?_, ?_⟩
    · unfold revokeFound
      rw [hst]
      dsimp only
      rw [hro, room]
      rfl
    · rw [reported]
      simpa [State.revokedRec] using revokeCred_cred (why := why) hr
    · rw [reported]
      refine journaled_all (w := s) ?_ rfl (by simp)
      simp only [finish_frame, placeReply_frame]
      refine (offer_offerAll (revokeCred_journal hr) (by simp)).trans ?_
      rw [← number, Listing.ofVerdict_seq]
      rfl
    · rw [reported, placeReply_link]
      dsimp only
      rw [offer_notice _ _ (by simp), revokeCred_alarm hr, ho]
      rfl
    · rw [reported, Listing.ofVerdict_keys]
      refine placed_finish (placed_congr placedKeys (by simp) fun k hk => entryVal_offer _ ?_)
      rcases List.mem_cons.1 hk with rfl | hk
      · simp
      · exact verdictKeys_ne_journalState hk
    · rw [reported, Listing.ofVerdict_displaces, Listing.ofVerdict_seq, Listing.ofVerdict_keys]
      exact (((alters.refl _ _ _ s).revokeCred why hr fun _ h => h).offer _).answersOnly h _
  · refine ⟨_, desk_reply a (u := reachPending why s) (lines := [.revoked .pending none 0 false]) (found ?_), ?_, ?_⟩
    · simp [revokeFound, hst, hro]
    · rw [reachPending_marks hj hk he]
      simp [State.withJob]
    · rw [reachPending_marks hj hk he]
      exact ((alters.refl _ _ _ s).onEnc _).answersOnly h _
  · subst hslot
    have released := reportOutcome_released (some .cancelled) hj hr hq
    rw [← reachPending_ends hj hk he why] at released
    refine ⟨_, desk_reply a (u := reachPending why s) (lines := [.revoked .pending none 0 false]) (found ?_), ?_, ?_, ?_,
      posted_finish (by simp) released.issue, placed_finish released.placed, released.altered.answersOnly h _⟩
    · simp [revokeFound, hst, hro]
    · simpa using released.enc
    · simpa using released.cred
    · refine journaled_one (t := s) ?_ rfl (by simp)
      simpa using released.journal
  · exact answers_same a (found (by simp [revokeFound, hst]))
  · exact answers_refused a (found (by rcases hst with hst | hst <;> simp [revokeFound, hst]))

end Sys2Proof.Machine

/-! ## CHECKOUT (O28): the credentials of a room revoked in turn -/

namespace Sys2Proof.Machine

set_option Elab.async false

/-- Two states whose revocation list answers alike (R37 to R40). -/
structure listsAlike (s u : State) : Prop where
  list : u.cred.list = s.cred.list
  count : u.cred.revCount = s.cred.revCount
  clock : u.clock = s.clock
  settings : u.settings = s.settings
  rooms : u.rooms = s.rooms
  groups : u.groups = s.groups

section
variable {s u : State} {r : CredRec} {why : RevReason}

theorem listsAlike.refl (s : State) : listsAlike s s := ⟨rfl, rfl, rfl, rfl, rfl, rfl⟩

theorem listsAlike.reach (h : listsAlike s u) (r : CredRec) : u.reach r = s.reach r := by
  unfold State.reach State.credGroups State.offlineGroups
  rw [h.rooms, h.groups]

theorem listsAlike.verdict (h : listsAlike s u) (r : CredRec) : u.verdict r = s.verdict r :=
  verdict_congr h.list h.count h.clock h.settings (h.reach r)

theorem listsAlike.ofVerdict (h : listsAlike s u) (r : CredRec) (why : RevReason) :
    Listing.ofVerdict u r why (u.verdict r) = .ofVerdict s r why (s.verdict r) := by
  rw [h.verdict, ofVerdict_congr h.list h.count h.clock h.settings (h.reach r)]

/-- A list place that a listing does not name is as it was. -/
theorem Listing.ofVerdict_list_get (s : State) (r : CredRec) (why : RevReason) (v : ListVerdict) {i : Nat}
    (h : EntryKey.listPlace i ∉ v.keys) : (Listing.ofVerdict s r why v).list.get i = s.cred.list.get i := by
  cases v with
  | notEntered | leftOut => rfl
  | enters k | displaces k q old =>
    have hi : i ≠ k := fun e => h (by simp [ListVerdict.keys, ListVerdict.place, e])
    exact FMap.get_put_other _ _ hi

/-- Whether an entry is a credential's or a list place. -/
def EntryKey.ofCred : EntryKey → Bool
  | .cred _ | .listPlace _ => true
  | _ => false

/-- Entries placed stay placed through a revocation. -/
theorem placed_revokeCred {slot : Nat} {keys K : List EntryKey} (hr : u.cred.slots.get slot = some r)
    (hq : u.store.canQueue K 0 = true) (hk : .cred slot :: (u.verdict r).keys ⊆ K) (h : placed keys u)
    (hc : ∀ k ∈ keys, k.ofCred = true) : placed keys (revokeCred slot why u) := by
  intro k hm
  by_cases hin : k ∈ EntryKey.cred slot :: (u.verdict r).keys
  · exact revokeCred_placed hr hq hk k hin
  · have contents : (revokeCred slot why u).store.contents k = u.store.contents k := by
      rw [revokeCred_eq hr, enqueueAll_contents_other _ hin, revokedIn, applyVerdict_store]; rfl
    have val : (revokeCred slot why u).entryVal k = u.entryVal k := by
      have hne : k ≠ .cred slot := fun e => hin (by simp [e])
      have hv : k ∉ (u.verdict r).keys := fun e => hin (List.mem_cons_of_mem _ e)
      have := hc k hm
      cases k with
      | cred i =>
        have hi : i ≠ slot := fun e => hne (by rw [e])
        simp [State.entryVal, revokeCred_cred hr, FMap.get_put_other _ _ hi]
      | listPlace i => simp [State.entryVal, revokeCred_cred hr, Listing.ofVerdict_list_get _ _ _ _ hv]
      | _ => simp [EntryKey.ofCred] at this
    rw [contents, val]; exact h k hm

theorem verdictKeys_ofCred {slot : Nat} {k : EntryKey} {v : ListVerdict} (hk : k ∈ EntryKey.cred slot :: v.keys) :
    k.ofCred = true := by
  rcases List.mem_cons.1 hk with rfl | hk
  · rfl
  · obtain ⟨i, _, rfl⟩ := List.mem_map.1 hk; rfl

end

/-- The occurrences posted to a class in turn stand when the step has ended. -/
theorem postedAll_finish {c : NoticeClass} {l : List Detail} {s u : State} (h : c ≠ .store)
    (hu : u.link.notices.get c = l.foldl Notice.occur (s.link.notices.get c)) : postedAll c l s (finish u) := by
  have g := finish_notice u h
  unfold Link.begunOr at g
  rw [hu] at g; exact g

/-- The credentials in these slots revoked in turn. -/
def revokeAll (why : RevReason) (gone : List (Nat × CredRec)) (s : State) : State :=
  gone.foldl (fun x e => revokeCred e.1 why x) s

/-- What the revocation of these credentials in turn comes to, by the listings of each. -/
structure allRevoked (why : RevReason) (gone : List (Nat × CredRec)) (l : List Listing) (u v : State) : Prop where
  slots : ∀ k, v.cred.slots.get k = (u.cred.slots.get k).map fun r =>
    if k ∈ gone.map Prod.fst then u.revokedRec r why else r
  list : v.cred.list = (l.getLast?.map Listing.list).getD u.cred.list
  count : v.cred.revCount = (l.getLast?.map Listing.count).getD u.cred.revCount
  serial : v.cred.serial = u.cred.serial
  wf : u.cred.slots.wf → v.cred.slots.wf
  journal : v.journal = ((l.flatMap Listing.records).foldl (fun x b => offer b x) u).journal
  alarm : v.link.notices.get .alarm = (l.flatMap fun y => y.out.toList.map fun o => Detail.displaced o.1).foldl Notice.occur
    (u.link.notices.get .alarm)
  altered : alters (revokedKeys gone l) [.cred, .journal] [.journal, .alarm] u v
  room : ∀ K n, u.store.canQueue K n = true → revokedKeys gone l ⊆ K → v.store.canQueue K n = true
  placed : ∀ K done, u.store.canQueue K 0 = true → revokedKeys gone l ⊆ K → (∀ k ∈ done, k.ofCred = true) →
    placed done u → placed (done ++ revokedKeys gone l) v
  counts : revocations why (gone.map Prod.fst) u =
    (revokedKeys gone l, (l.filter fun y => y.place.isSome).length, (l.filter fun y => decide (y.place = none)).length)

theorem allRevoked_of_listsAll {why : RevReason} {gone : List (Nat × CredRec)} {l : List Listing} {s u : State}
    (hl : listsAll why gone s l) (alike : listsAlike s u) (hn : (gone.map Prod.fst).Nodup)
    (hg : ∀ e ∈ gone, u.cred.slots.get e.1 = some e.2) : allRevoked why gone l u (revokeAll why gone u) := by
  induction gone generalizing s u l with
  | nil =>
    obtain rfl : l = [] := hl
    refine ⟨fun k => ?_, rfl, rfl, rfl, id, rfl, rfl, .refl _ _ _ _, fun _ _ h _ => h, fun _ done _ _ _ h => ?_, rfl⟩
    · simp [revokeAll]
    · rw [show revokedKeys [] [] = [] from rfl, List.append_nil]; exact h
  | cons e gone ih =>
    obtain ⟨x, xs, rfl, hx, hxs⟩ := hl
    obtain ⟨slot, r⟩ := e
    have hr : u.cred.slots.get slot = some r := hg (slot, r) (by simp)
    obtain rfl : x = .ofVerdict u r why (u.verdict r) := (lists_eq hx).trans (alike.ofVerdict r why).symm
    have cred := revokeCred_cred (why := why) hr
    obtain ⟨hnot, hn⟩ := List.nodup_cons.1 hn
    have next := ih (u := revokeCred slot why u) hxs
      ⟨by rw [cred], by rw [cred], by simp [alike.clock], by simp [alike.settings], by simp [alike.rooms], by simp [alike.groups]⟩
      hn fun y hy => by
        have hne : y.1 ≠ slot := fun h => hnot (List.mem_map.2 ⟨y, hy, h⟩)
        rw [cred]
        exact (FMap.get_put_other _ _ hne).trans (hg y (List.mem_cons_of_mem _ hy))
    have rec_eq : (revokeCred slot why u).revokedRec = u.revokedRec := by
      funext r w; simp [State.revokedRec]
    show allRevoked why ((slot, r) :: gone) _ u (revokeAll why gone (revokeCred slot why u))
    have keys : revokedKeys ((slot, r) :: gone) (Listing.ofVerdict u r why (u.verdict r) :: xs) =
        (.cred slot :: (u.verdict r).keys) ++ revokedKeys gone xs := by
      simp [revokedKeys]
    constructor
    · intro k
      rw [next.slots, cred, rec_eq]
      dsimp only
      by_cases hk : k = slot
      · subst hk
        have : k ∉ gone.map Prod.fst := hnot
        rw [FMap.get_put_self, hr, Option.map_some, Option.map_some, if_neg this, if_pos (by simp)]
      · rw [FMap.get_put_other _ _ hk]
        exact Option.map_congr fun q _ => if_congr (by simp [hk]) rfl rfl
    · rw [next.list, cred]
      cases hlast : xs.getLast? with
      | none => obtain rfl := List.getLast?_eq_none_iff.1 hlast; rfl
      | some y => simp [List.getLast?_cons, hlast]
    · rw [next.count, cred]
      cases hlast : xs.getLast? with
      | none => obtain rfl := List.getLast?_eq_none_iff.1 hlast; rfl
      | some y => simp [List.getLast?_cons, hlast]
    · rw [next.serial, cred]
    · intro hwf
      exact next.wf (by rw [cred]; exact FMap.wf_put hwf _ _)
    · rw [next.journal, List.flatMap_cons, List.foldl_append]
      exact offerAll_congr _ (revokeCred_journal hr) (by rw [offerAll_clock]; simp)
    · rw [next.alarm, List.flatMap_cons, List.foldl_append, revokeCred_alarm hr]
    · rw [keys]
      refine (alters.revokeCred (alters.refl _ _ _ _) why hr fun k hk => List.mem_append_left _ hk).trans
        (next.altered.mono (List.subset_append_right _ _) (by simp) (by simp))
    · intro K n hq hK
      rw [keys] at hK
      obtain ⟨h1, h2⟩ := List.append_subset.1 hK
      exact next.room K n (revokeCred_canQueue hr hq h1) h2
    · intro K done hq hK hdone hp
      rw [keys] at hK
      obtain ⟨h1, h2⟩ := List.append_subset.1 hK
      have more : placed (done ++ EntryKey.cred slot :: (u.verdict r).keys) (revokeCred slot why u) := by
        intro k hk
        rcases List.mem_append.1 hk with hk | hk
        · exact placed_revokeCred hr hq h1 hp hdone k hk
        · exact revokeCred_placed hr hq h1 k hk
      rw [keys, ← List.append_assoc]
      refine next.placed K _ (revokeCred_canQueue hr hq h1) h2 (fun k hk => ?_) more
      rcases List.mem_append.1 hk with hk | hk
      · exact hdone k hk
      · exact verdictKeys_ofCred hk
    · rw [List.map_cons, revocations, next.counts, hr, keys]
      dsimp only
      cases hp : (u.verdict r).place <;> simp [ListVerdict.keys, hp]

/-! ### The room's credentials -/

section
variable {s : State}

/-- Whether a table in canonical form lists an entry of this sort. -/
theorem any_iff_get {α : Type} {m : FMap α} (hwf : m.wf) (p : α → Bool) :
    (m.any fun e => p e.2) = true ↔ ∃ k v, m.get k = some v ∧ p v = true := by
  rw [List.any_eq_true]
  constructor
  · rintro ⟨⟨k, v⟩, he, hp⟩
    exact ⟨k, v, FMap.get_of_mem hwf he, hp⟩
  · rintro ⟨k, v, hk, hp⟩
    exact ⟨(k, v), FMap.mem_of_get hk, hp⟩

theorem activeGuests_get (hwf : s.cred.slots.wf) {i : Nat} {e : Nat × CredRec} (he : e ∈ s.activeGuests i) :
    s.cred.slots.get e.1 = some e.2 := FMap.get_of_mem hwf (List.mem_of_mem_filter he)

theorem activeGuests_nodup (hwf : s.cred.slots.wf) (i : Nat) : ((s.activeGuests i).map Prod.fst).Nodup := by
  have sorted : (s.activeGuests i).Pairwise fun x y => x.1 < y.1 := hwf.filter _
  exact (List.pairwise_map.2 sorted).imp fun h => Nat.ne_of_lt h

/-- The slots of a room's ACTIVE GUEST credentials. -/
theorem mem_activeGuests (hwf : s.cred.slots.wf) {i k : Nat} {r : CredRec} (hr : s.cred.slots.get k = some r) :
    k ∈ (s.activeGuests i).map Prod.fst ↔ r.kind = .guest ∧ r.state = .active ∧ r.room = i := by
  have mem : ((k, r) ∈ s.activeGuests i) ↔ r.kind = .guest ∧ r.state = .active ∧ r.room = i := by
    simp [State.activeGuests, CredRec.activeGuest, FMap.mem_of_get hr, and_assoc]
  rw [← mem, List.mem_map]
  constructor
  · rintro ⟨e, he, rfl⟩
    obtain rfl : e.2 = r := Option.some.inj ((activeGuests_get hwf he).symm.trans hr)
    exact he
  · exact fun h => ⟨_, h, rfl⟩

/-- A revocation of ACTIVE credentials leaves the PENDING ones. -/
theorem pendingRoom_allRevoked {u v : State} {l : List Listing} {i : Nat} (hwf : u.cred.slots.wf)
    (h : allRevoked .checkout (u.activeGuests i) l u v) : v.pendingRoom i = u.pendingRoom i := by
  rw [Bool.eq_iff_iff, State.pendingRoom, State.pendingRoom, any_iff_get (h.wf hwf) (CredRec.pendingGuest i),
    any_iff_get hwf (CredRec.pendingGuest i)]
  have slot : ∀ k r, u.cred.slots.get k = some r → ∃ q, v.cred.slots.get k = some q ∧
      (q.pendingGuest i = true ↔ r.pendingGuest i = true) := by
    intro k r hr
    rw [h.slots, hr]
    refine ⟨_, rfl, ?_⟩
    split
    · next hk =>
      have := (mem_activeGuests hwf hr).1 hk
      simp [CredRec.pendingGuest, State.revokedRec, this.2.1]
    · rfl
  constructor
  · rintro ⟨k, q, hq, hp⟩
    cases hr : u.cred.slots.get k with
    | none => rw [h.slots, hr] at hq; cases hq
    | some r =>
      obtain ⟨q', hq', hiff⟩ := slot k r hr
      obtain rfl := Option.some.inj (hq.symm.trans hq')
      exact ⟨k, r, hr, hiff.1 hp⟩
  · rintro ⟨k, r, hr, hp⟩
    obtain ⟨q, hq, hiff⟩ := slot k r hr
    exact ⟨k, q, hq, hiff.2 hp⟩

end

/-- What a PENDING credential of the room, if there is one, has come to (R34, R35): the freed slot of its job, and its
record offered. -/
structure pendingReached (freed : List (Job × CredRec)) (enc : Encoder) (done : List EntryKey) (u v : State) : Prop where
  enc : v.enc = enc
  slots : ∀ k, v.cred.slots.get k = if k ∈ freed.map (fun e => e.1.slot) then none else u.cred.slots.get k
  rest : { v.cred with slots := u.cred.slots } = u.cred
  journal : v.journal = ((freed.map fun e => failedRecord e.2 (some .cancelled) .freed).foldl (fun x b => offer b x) u).journal
  issue : ∀ e ∈ freed, v.link.notices.get .issue =
    (u.link.notices.get .issue).occur (.issueEnd e.1.number .released (some .cancelled))
  alarm : v.link.notices.get .alarm = u.link.notices.get .alarm
  placed : placed (done ++ freed.map fun e => .cred e.1.slot) v
  altered : alters (freed.map fun e => .cred e.1.slot) [.cred, .enc, .journal] [.journal, .issue] u v

section
variable {u : State} {j : Job} {r : CredRec} {done : List EntryKey}

theorem pendingReached_none (h : placed done u) : pendingReached [] u.enc done u u :=
  ⟨rfl, fun k => by simp, rfl, rfl, fun _ h => (nomatch h), rfl, by simpa using h, alters.refl _ _ _ _⟩

theorem pendingReached_marked (hj : u.enc.job = some j) (hk : j.kind = .issue) (he : j.endsByCancel = false)
    (h : placed done u) : pendingReached [] { u.enc with job := some (j.reached .checkout) } done u (reachPending .checkout u) := by
  rw [reachPending_marks hj hk he]
  refine ⟨rfl, fun k => by simp [State.withJob], rfl, rfl, fun _ h => (nomatch h), rfl, ?_, alters.onEnc (alters.refl _ _ _ _) _⟩
  rw [List.map_nil, List.append_nil]
  exact placed_congr h rfl fun k _ => by cases k <;> rfl

theorem pendingReached_freed (hj : u.enc.job = some j) (hk : j.kind = .issue) (he : j.endsByCancel = true)
    (hr : u.cred.slots.get j.slot = some r) (hq : u.store.canQueue [.cred j.slot] 0 = true) (h : placed done u)
    (hd : ∀ k ∈ done, k ≠ .cred j.slot ∧ k.ofCred = true) :
    pendingReached [(j, r)] { u.enc with job := none, headOp := none } done u (reachPending .checkout u) := by
  rw [reachPending_ends hj hk he]
  have released := reportOutcome_released (some .cancelled) hj hr hq
  refine ⟨released.enc, fun k => ?_, by rw [released.cred], released.journal, fun e he => ?_, released.notices _ (by simp) (by simp),
    fun k hk => ?_, released.altered⟩
  · rw [released.cred]
    by_cases hk : k = j.slot
    · simp [hk]
    · simp [hk, FMap.get_del_other]
  · obtain rfl := List.mem_singleton.1 he
    exact released.issue
  · rcases List.mem_append.1 hk with hk | hk
    · obtain ⟨hne, hc⟩ := hd k hk
      rw [(released.altered.changes k (by simpa using hne)).1, h k hk]
      cases k with
      | cred i =>
        have hi : i ≠ j.slot := fun e => hne (by rw [e])
        simp [State.entryVal, released.cred, FMap.get_del_other _ hi]
      | listPlace i => simp [State.entryVal, released.cred]
      | _ => simp [EntryKey.ofCred] at hc
    · exact released.placed k hk

end

theorem mem_revokedKeys {gone : List (Nat × CredRec)} {l : List Listing} {k : EntryKey} (hk : k ∈ revokedKeys gone l) :
    k.ofCred = true ∧ ∀ i, k = .cred i → i ∈ gone.map Prod.fst := by
  obtain ⟨⟨e, x⟩, he, hk⟩ := List.mem_flatMap.1 hk
  rcases List.mem_cons.1 hk with rfl | hk
  · refine ⟨rfl, fun i hi => ?_⟩
    obtain rfl : e.1 = i := by simpa using hi
    exact List.mem_map_of_mem (List.of_mem_zip he).1
  · obtain ⟨i, _, rfl⟩ := List.mem_map.1 hk
    exact ⟨rfl, fun _ h => by cases h⟩

/-- Settles O28: the revocations in turn (`allRevoked_of_listsAll`), then what reaches the encoder job, then the record. -/
theorem checkoutTakesEffect : Obligations.CheckoutTakesEffect := by
  intro h s i x gone l freed enc keys a hi hx hwf hro hgone hl hfreed hkeys hq1 hq2
  obtain rfl : gone = s.activeGuests i := by
    rw [hgone, State.activeGuests]
    exact List.filter_congr fun e _ => by simp [CredRec.activeGuest, Bool.and_assoc]
  have revoked := allRevoked_of_listsAll hl (listsAlike.refl s) (activeGuests_nodup hwf i)
    fun e he => activeGuests_get hwf he
  let u := revokeAll .checkout (s.activeGuests i) s
  let v := if u.pendingRoom i then reachPending .checkout u else u
  have hsub : revokedKeys (s.activeGuests i) l ⊆ keys := by rw [hkeys]; exact List.subset_append_left _ _
  have placedU : placed (revokedKeys (s.activeGuests i) l) u := by
    have := revoked.placed keys [] hq2 hsub (by simp) (fun _ h => by cases h)
    simpa using this
  have encU : u.enc = s.enc := revoked.altered.rest .enc (by simp)
  have pending : u.pendingRoom i = s.pendingRoom i := pendingRoom_allRevoked hwf revoked
  have reached : pendingReached freed enc (revokedKeys (s.activeGuests i) l) u v := by
    simp only [v, pending]
    rcases hfreed with ⟨rfl, rfl, hp⟩ | ⟨j, hj, hk, he, rfl, rfl, hp⟩ | ⟨j, r, hj, hk, he, rfl, rfl, hr, hp⟩
    · have none : s.pendingRoom i = false := by simpa [State.pendingRoom] using hp
      rw [none, if_neg (by simp), ← encU]
      exact pendingReached_none placedU
    · have some : s.pendingRoom i = true := by simpa [State.pendingRoom] using hp
      rw [some, if_pos rfl, ← encU]
      exact pendingReached_marked (by rw [encU]; exact hj) hk he placedU
    · have some : s.pendingRoom i = true := by
        simp only [State.pendingRoom, List.any_eq_true]
        exact ⟨_, FMap.mem_of_get hr, hp⟩
      have notGone : j.slot ∉ (s.activeGuests i).map Prod.fst := fun hm => by
        have := (mem_activeGuests hwf hr).1 hm
        simp [CredRec.pendingGuest, this.2.1] at hp
      rw [some, if_pos rfl, ← encU]
      refine pendingReached_freed (by rw [encU]; exact hj) hk he ?_ ?_ placedU fun k hk => ?_
      · rw [revoked.slots, hr]; simp [notGone]
      · exact canQueue_mono (revoked.room keys 0 hq2 hsub) (by rw [hkeys]; simp)
      · exact ⟨fun e => notGone ((mem_revokedKeys hk).2 _ e), (mem_revokedKeys hk).1⟩
  let body : JBody := checkoutBody i (s.activeGuests i).length x.entry.issue
  have issue : s.currentIssue i = x.entry.issue := by simp [State.currentIssue, hx]
  have done : checkOut i ((s.activeGuests i).map Prod.fst) s = offer body v := by
    unfold checkOut
    rw [List.foldl_map, List.length_map, issue]
    rfl
  have altered : alters keys [.cred, .enc, .journal] [.journal, .alarm, .issue] s v :=
    (revoked.altered.mono hsub (by simp) (by simp)).trans
      (reached.altered.mono (by rw [hkeys]; exact List.subset_append_right _ _) (by simp) (by simp))
  have clock : v.clock = s.clock := altered.rest .clock (by simp)
  have rest := reached.rest
  have list : v.cred.list = u.cred.list := (congrArg CredUnit.list rest :)
  have count : v.cred.revCount = u.cred.revCount := (congrArg CredUnit.revCount rest :)
  have serial : v.cred.serial = u.cred.serial := (congrArg CredUnit.serial rest :)
  have placedV : placed keys v := by rw [hkeys]; exact reached.placed
  refine ⟨_, desk_reply a (u := offer body v) (lines := [.checkout (s.activeGuests i).length
    (l.filter fun y => y.place.isSome).length (s.pendingRoom i)]) ?_, ?_, fun k => ?_, ?_, ?_, ?_, ?_, ?_, fun e he => ?_,
    placed_finish (placed_congr placedV (by simp) fun k hk => entryVal_offer _ ?_), (altered.offer _).answersOnly h _⟩
  · have noRoom := noRoom_eq_false hx
    simp only [argNat_given, badRoom_eq_false hi, noRoom, hro, revoked.counts, hq1, done, List.length_map]
    rfl
  · simpa using reached.enc
  · simp only [finish_frame, placeReply_frame, offer_frame]
    rw [reached.slots, revoked.slots]
    split
    · rfl
    · cases hr : s.cred.slots.get k with
      | none => rfl
      | some r =>
        rw [Option.map_some, Option.map_some]
        simp only [mem_activeGuests hwf hr]
        rfl
  · simpa [list] using revoked.list
  · simpa [count] using revoked.count
  · simpa [serial] using revoked.serial
  · refine journaled_all (w := s) ?_ rfl (by simp [clock])
    simp only [finish_frame, placeReply_frame]
    refine offer_offerAll ?_ clock
    rw [reached.journal, List.foldl_append]
    exact offerAll_congr _ revoked.journal (by rw [offerAll_clock]; exact revoked.altered.rest .clock (by simp))
  · refine postedAll_finish (by simp) ?_
    rw [placeReply_link, offer_notice _ _ (by simp), reached.alarm, revoked.alarm]
  · refine posted_finish (by simp) ?_
    rw [placeReply_link, offer_notice _ _ (by simp), reached.issue e he,
      revoked.altered.link.notices .issue (by simp)]
  · rw [hkeys] at hk
    rcases List.mem_append.1 hk with hk | hk
    · have := (mem_revokedKeys hk).1
      cases k <;> simp_all [EntryKey.ofCred]
    · obtain ⟨e, _, rfl⟩ := List.mem_map.1 hk
      simp

end Sys2Proof.Machine
/-! ## Power that is lost (R169, R183) -/

namespace Sys2Proof.Machine

set_option Elab.async false

section
variable {t : Store}

/-! ### Erases given up -/

/-- A sector left interrupted, in the journal region, is that sector and no other. -/
theorem cutSector_jsec_cut {i : Nat} (k : Nat) (hi : 40 ≤ i) :
    ((cutSector k t).jsec i).cut = true ↔ (t.jsec i).cut = true ∨ k = i := by
  unfold cutSector inJournalRegion
  by_cases hk : 40 ≤ k
  · rw [if_pos (by simpa using hk), Store.jsec_modJ]
    by_cases h : i = k
    · simp [h]
    · simp [h, Ne.symm h]
  · rw [if_neg (by simpa using hk), Store.jsec_modT]
    have : k ≠ i := by omega
    simp [this]

theorem cutSector_tsec_cut {i : Nat} (k : Nat) (hi : i < 40) :
    ((cutSector k t).tsec i).cut = true ↔ (t.tsec i).cut = true ∨ k = i := by
  unfold cutSector inJournalRegion
  by_cases hk : 40 ≤ k
  · rw [if_pos (by simpa using hk), Store.tsec_modJ]
    have : k ≠ i := by omega
    simp [this]
  · rw [if_neg (by simpa using hk), Store.tsec_modT]
    by_cases h : i = k
    · simp [h]
    · simp [h, Ne.symm h]

/-- An erase in progress, or suspended, of this sector. -/
def Store.erases (t : Store) (k : Nat) : Prop :=
  ∃ e, (t.engine = .erasing e ∨ t.suspended = some e) ∧ e.work.sector = k

/-- What holds of a sector once the erases are given up, where giving one up adds to it exactly its own sector. -/
theorem cutErases_cut {P : Store → Nat → Prop} {i : Nat} (t : Store)
    (cut : ∀ u k, P (cutSector k u) i ↔ P u i ∨ k = i)
    (engine : ∀ u e, P { u with engine := e } i ↔ P u i)
    (suspended : ∀ u e, P { u with suspended := e } i ↔ P u i) :
    P (cutErases t) i ↔ P t i ∨ t.erases i := by
  have kept : ∀ k (u : Store), (cutSector k u).suspended = u.suspended := fun k u => by
    unfold cutSector; split <;> rfl
  unfold cutErases Store.erases
  extract_lets u
  have first : P u i ↔ P t i ∨ ∃ e, t.engine = .erasing e ∧ e.work.sector = i := by
    simp only [u]
    cases t.engine with
    | erasing e => rw [engine, cut]; simp
    | idle | programming => simp
  have stands : u.suspended = t.suspended := by
    simp only [u]
    cases t.engine with
    | erasing e => exact kept _ _
    | idle | programming => rfl
  rw [stands]
  cases t.suspended with
  | none => simp [first]
  | some d =>
    rw [suspended, cut, first]
    simp [or_assoc, or_and_right, exists_or]

theorem cutErases_jsec_cut {i : Nat} (hi : 40 ≤ i) :
    ((cutErases t).jsec i).cut = true ↔ (t.jsec i).cut = true ∨ t.erases i :=
  cutErases_cut (P := fun u i => (u.jsec i).cut = true) t (fun _ k => cutSector_jsec_cut k hi) (fun _ _ => Iff.rfl)
    fun _ _ => Iff.rfl

theorem cutErases_tsec_cut {i : Nat} (hi : i < 40) :
    ((cutErases t).tsec i).cut = true ↔ (t.tsec i).cut = true ∨ t.erases i :=
  cutErases_cut (P := fun u i => (u.tsec i).cut = true) t (fun _ k => cutSector_tsec_cut k hi) (fun _ _ => Iff.rfl)
    fun _ _ => Iff.rfl

/-! ### A program cut off -/

/-- The slots a program in progress leaves spoiled in a journal sector. -/
def Engine.spoilsJ (e : Engine) (k : Nat) : List (Option JRec) :=
  match e with
  | .programming (.journal j _) => if j = k then [none] else []
  | _ => []

/-- The slots a program in progress leaves spoiled in a table-log sector. -/
def Engine.spoilsT (e : Engine) (k : Nat) : List (Option LogRec) :=
  match e with
  | .programming (.table j _ _) => if j = k then [none] else []
  | .programming (.copy j _ _) => if j = k then [none] else []
  | _ => []

/-- The identity places once a program in progress is cut off. -/
def Store.placesCut (t : Store) : List IdPlace :=
  match t.engine with
  | .programming (.identity j _) => t.idPlaces.set j .spoiled
  | _ => t.idPlaces

/-- What a program in progress and the erases leave in the store as they are cut off (R169). -/
structure cutOffLeaves (t u : Store) : Prop where
  journal : ∀ k, (u.jsec k).cells = (t.jsec k).cells ++ t.engine.spoilsJ k
  table : ∀ k, (u.tsec k).cells = (t.tsec k).cells ++ t.engine.spoilsT k
  places : u.idPlaces = t.placesCut
  journalCut : ∀ k, 40 ≤ k → ((u.jsec k).cut = true ↔ (t.jsec k).cut = true ∨ t.erases k)
  tableCut : ∀ k, k < 40 → ((u.tsec k).cut = true ↔ (t.tsec k).cut = true ∨ t.erases k)

theorem modJ_program_cut (x : Option JRec) (j k : Nat) : ((t.modJ j (Sector.program x)).jsec k).cut = (t.jsec k).cut := by
  rw [Store.jsec_modJ]
  split
  · next h => rw [h]; rfl
  · rfl

theorem modT_program_cut (x : Option LogRec) (j k : Nat) : ((t.modT j (Sector.program x)).tsec k).cut = (t.tsec k).cut := by
  rw [Store.tsec_modT]
  split
  · next h => rw [h]; rfl
  · rfl

theorem modJ_program_cells (x : Option JRec) (j k : Nat) :
    ((t.modJ j (Sector.program x)).jsec k).cells = (t.jsec k).cells ++ if j = k then [x] else [] := by
  rw [Store.jsec_modJ]
  by_cases h : k = j
  · simp [h, Sector.program]
  · simp [h, Ne.symm h]

theorem modT_program_cells (x : Option LogRec) (j k : Nat) :
    ((t.modT j (Sector.program x)).tsec k).cells = (t.tsec k).cells ++ if j = k then [x] else [] := by
  rw [Store.tsec_modT]
  by_cases h : k = j
  · simp [h, Sector.program]
  · simp [h, Ne.symm h]

theorem cutProgram_jsec_cut (p : Program) (k : Nat) : ((cutProgram p t).jsec k).cut = (t.jsec k).cut := by
  cases p with
  | journal => exact modJ_program_cut ..
  | table | copy | identity => rfl

theorem cutProgram_tsec_cut (p : Program) (k : Nat) : ((cutProgram p t).tsec k).cut = (t.tsec k).cut := by
  cases p with
  | table | copy => exact modT_program_cut ..
  | journal | identity => rfl

theorem cutProgram_suspended (p : Program) : (cutProgram p t).suspended = t.suspended := by cases p <;> rfl

theorem cutProgram_jsec_cells (p : Program) (k : Nat) :
    ((cutProgram p t).jsec k).cells = (t.jsec k).cells ++ (Engine.programming p).spoilsJ k := by
  cases p with
  | journal => exact modJ_program_cells ..
  | table | copy | identity => exact (List.append_nil _).symm

theorem cutProgram_tsec_cells (p : Program) (k : Nat) :
    ((cutProgram p t).tsec k).cells = (t.tsec k).cells ++ (Engine.programming p).spoilsT k := by
  cases p with
  | table | copy => exact modT_program_cells ..
  | journal | identity => exact (List.append_nil _).symm

/-- With no program in progress only the erases are given up. -/
theorem cutErases_leaves (h : ∀ p, t.engine ≠ .programming p) : cutOffLeaves t (cutErases t) := by
  obtain ⟨table, journal, places⟩ := cutErases_keepsSlots t
  refine ⟨fun k => ?_, fun k => ?_, ?_, fun _ => cutErases_jsec_cut, fun _ => cutErases_tsec_cut⟩
  · rw [journal]; cases he : t.engine <;> simp_all [Engine.spoilsJ]
  · rw [table]; cases he : t.engine <;> simp_all [Engine.spoilsT]
  · rw [places]; unfold Store.placesCut; cases he : t.engine <;> simp_all

/-- A program in progress is cut off, and then the suspended erase is given up. -/
theorem cutProgram_leaves {p : Program} (h : t.engine = .programming p) :
    cutOffLeaves t (cutErases { cutProgram p t with engine := .idle }) := by
  obtain ⟨table, journal, places⟩ := cutErases_keepsSlots { cutProgram p t with engine := .idle }
  have erases : ∀ k, Store.erases { cutProgram p t with engine := .idle } k ↔ t.erases k := fun k => by
    simp [Store.erases, h, cutProgram_suspended]
  refine ⟨fun k => ?_, fun k => ?_, ?_, fun k hk => ?_, fun k hk => ?_⟩
  · rw [journal, h]; exact cutProgram_jsec_cells p k
  · rw [table, h]; exact cutProgram_tsec_cells p k
  · rw [places]; unfold Store.placesCut; rw [h]; cases p <;> rfl
  · rw [cutErases_jsec_cut hk, erases]; exact or_congr_left (by rw [← cutProgram_jsec_cut (t := t) p k]; rfl)
  · rw [cutErases_tsec_cut hk, erases]; exact or_congr_left (by rw [← cutProgram_tsec_cut (t := t) p k]; rfl)

theorem cutOff_leaves (t : Store) : cutOffLeaves t (cutOff t) := by
  unfold cutOff
  cases h : t.engine with
  | programming p => exact cutProgram_leaves h
  | idle | erasing => exact cutErases_leaves (by simp [h])

end

/-- Settles O49: the part starts over with what `cutOff_leaves` says of the store. -/
theorem powerIsLost : Obligations.PowerIsLost := by
  intro s c hc
  have leaves : ∀ v : State, v.store = s.store → cutOffLeaves s.store (goDark v).store := fun v h => by
    have e : ∀ k, (goDark v).store.jsec k = (cutOff s.store).jsec k ∧ (goDark v).store.tsec k = (cutOff s.store).tsec k :=
      fun k => by rw [← h]; exact ⟨rfl, rfl⟩
    have cut := cutOff_leaves s.store
    exact ⟨fun k => (e k).1 ▸ cut.journal k, fun k => (e k).2 ▸ cut.table k, by rw [← cut.places, ← h]; rfl,
      fun k hk => (e k).1 ▸ cut.journalCut k hk, fun k hk => (e k).2 ▸ cut.tableCut k hk⟩
  have lines : ∀ (v : State) i, (goDark v).line i = .start := fun v i => by cases i <;> rfl
  have notices : ∀ (v : State) c, (goDark v).link.notices.get c = ⟨true, false, 0, none⟩ := fun v c => by cases c <;> rfl
  rcases hc with rfl | rfl
  · have h := leaves (s.onPower fun p => { p with supply := false }) rfl
    exact ⟨_, rfl, rfl, rfl, rfl, rfl, rfl, rfl, rfl, rfl, rfl, rfl, rfl, rfl, rfl, rfl,
      fun i => by rw [lines]; exact ⟨rfl, rfl, rfl⟩, rfl, rfl, rfl, rfl, rfl, rfl, rfl, rfl, rfl, rfl, rfl, rfl, rfl, rfl,
      rfl, rfl, rfl, rfl, rfl, notices _, rfl, h.journal, h.table, h.places, h.journalCut, h.tableCut⟩
  · have h := leaves (s.onPower fun p => { p with resetPin := true }) rfl
    exact ⟨_, rfl, rfl, rfl, rfl, rfl, rfl, rfl, rfl, rfl, rfl, rfl, rfl, rfl, rfl, rfl,
      fun i => by rw [lines]; exact ⟨rfl, rfl, rfl⟩, rfl, rfl, rfl, rfl, rfl, rfl, rfl, rfl, rfl, rfl, rfl, rfl, rfl, rfl,
      rfl, rfl, rfl, rfl, rfl, notices _, rfl, h.journal, h.table, h.places, h.journalCut, h.tableCut⟩

end Sys2Proof.Machine
/-! ## Characters, lines and the taking of requests (R170 to R175) -/

namespace Sys2Proof.Machine

set_option Elab.async false

/-! ### The inbound buffer and HOLD_OUT -/

section
variable {s : State}

/-- A change of the inbound buffer is the state with that buffer, HOLD_OUT tested. -/
theorem modInbound_eq (f : Inbound → Inbound) (s : State) : modInbound f s = s.withInbound (f s.link.inbound) := by
  have hold : ∀ l : Link, l.testHold = { l with holdOut := holdAfter l.inbound.chars l.holdOut } := fun l => by
    unfold Link.testHold holdAfter
    split
    · rfl
    · split <;> rfl
  exact congrArg (fun l => { s with link := l }) (hold _)

theorem holdAfter_twice (n : Nat) (h : Bool) : holdAfter n (holdAfter n h) = holdAfter n h := by
  unfold holdAfter; split
  · rfl
  · split <;> rfl

/-- Of two buffers in turn only the characters of the first matter. -/
theorem withInbound_congr {b c : Inbound} (d : Inbound) (h : b.chars = c.chars) :
    (s.withInbound b).withInbound d = (s.withInbound c).withInbound d := by
  unfold State.withInbound; rw [h]

theorem withInbound_same {b c : Inbound} (h : b.chars = c.chars) :
    (s.withInbound b).withInbound c = s.withInbound c := by
  unfold State.withInbound; rw [h, holdAfter_twice]

/-- A character joins the line where it is not overlong and there is room. -/
theorem receive_joins {b : Inbound} (c : Byte) (bad : Bool) (hl : b.overlong = false) (hr : b.chars < 2048) :
    b.receive c bad = { b with
      part := b.part ++ [c], seen := b.seen + 1, bad := b.bad || bad
      overlong := decide (b.seen = 240) && c != 0x0D || decide (b.seen = 241) && c != 0x0A || decide (241 < b.seen) } := by
  have full : decide (Config.inboundChars ≤ b.chars) = false := decide_eq_false (Nat.not_le.2 hr)
  unfold Inbound.receive
  rw [full, hl]
  simp

/-- An overlong line keeps no character. -/
theorem receive_overlong {b : Inbound} (c : Byte) (bad : Bool) (hl : b.overlong = true) :
    b.receive c bad = { b with seen := b.seen + 1, bad := b.bad || bad } := by
  unfold Inbound.receive
  simp [hl]

/-- A full buffer keeps no character and marks the line. -/
theorem receive_full {b : Inbound} (c : Byte) (bad : Bool) (hl : b.overlong = false) (hr : 2048 ≤ b.chars) :
    b.receive c bad = { b with
      seen := b.seen + 1, bad := b.bad || bad, overflowed := true
      overlong := decide (b.seen = 240) && c != 0x0D || decide (b.seen = 241) && c != 0x0A || decide (241 < b.seen) } := by
  have full : decide (Config.inboundChars ≤ b.chars) = true := decide_eq_true hr
  unfold Inbound.receive
  rw [full, hl]
  simp

/-- A character that is no LF makes a line overlong in the 241st place, where it is no CR, and beyond it. -/
theorem overlong_of_not_lf {n : Nat} {c : Byte} (hc : c ≠ 0x0A) :
    (decide (n = 240) && c != 0x0D || decide (n = 241) && c != 0x0A || decide (241 < n)) =
      decide (n = 240 ∧ c ≠ 0x0D ∨ 240 < n) := by
  rw [Bool.eq_iff_iff]
  simp only [Bool.or_eq_true, Bool.and_eq_true, decide_eq_true_eq, bne_iff_ne]
  constructor
  · rintro ((⟨h, g⟩ | ⟨h, -⟩) | h)
    · exact .inl ⟨h, g⟩
    · exact .inr (by omega)
    · exact .inr (by omega)
  · rintro (⟨h, g⟩ | h)
    · exact .inl (.inl ⟨h, g⟩)
    · rcases Nat.lt_or_ge 241 n with g | g
      · exact .inr g
      · exact .inl (.inr ⟨by omega, hc⟩)

end

/-! ### The line that ends -/

section
variable {s : State} {b : Inbound}

/-- What the LF leaves of a line that is discarded. -/
def State.discards (u : State) : State := { u with link := { u.link with errors := satSucc max32 u.link.errors } }

theorem endLine_discards (h : b.marked = true ∨ (b.part ≠ [0x0D, 0x0A] ∧ readLine b.part = none)) :
    endLine (s.withInbound b) = ((s.withInbound b).withInbound b.clearPart).discards := by
  have first : (!b.marked && decide (b.part = [0x0D, 0x0A])) = false := by
    rcases h with h | ⟨h, -⟩
    · simp [h]
    · rw [decide_eq_false h, Bool.and_false]
  have second : (b.marked || (readLine b.part).isNone) = true := by
    rcases h with h | ⟨-, h⟩ <;> simp [h]
  unfold endLine
  simp only [modInbound_eq]
  exact (if_neg (ne_true_of_eq_false first)).trans (if_pos second)

theorem endLine_empty (hm : b.marked = false) (hp : b.part = [0x0D, 0x0A]) :
    endLine (s.withInbound b) = (s.withInbound b).withInbound b.clearPart := by
  unfold endLine
  simp only [modInbound_eq]
  rw [if_pos (by simp [State.withInbound, hm, hp])]
  rfl

theorem endLine_keeps (hm : b.marked = false) (hp : b.part ≠ [0x0D, 0x0A]) (hr : (readLine b.part).isSome = true) :
    endLine (s.withInbound b) =
      (s.withInbound b).withInbound { b.clearPart with requests := b.requests ++ [b.part] } := by
  obtain ⟨x, hx⟩ := Option.isSome_iff_exists.1 hr
  unfold endLine
  simp only [modInbound_eq]
  have first : (!b.marked && decide (b.part = [0x0D, 0x0A])) = false := by
    rw [decide_eq_false hp, Bool.and_false]
  have second : (b.marked || (readLine b.part).isNone) = false := by simp [hm, hx]
  exact (if_neg (ne_true_of_eq_false first)).trans (if_neg (ne_true_of_eq_false second))

theorem exec_deskLineReceived {bad : Bool} {u : State} (hw : s.working = true)
    (h : endLine (s.withInbound (s.link.inbound.receive 0x0A bad)) = u) :
    exec (.deskLineReceived bad) s = exec .takeRequest u := by
  show execDeskLineReceived bad s = execTakeRequest u
  unfold execDeskLineReceived execTakeRequest lineFeed
  rw [if_pos hw, modInbound_eq, h]

end

/-! ### A request handed to its verb -/

/-- The command answers the reply slot, under this tag, with what its verb answers. -/
def answersAs (i : Instr) (tag : List (Fin 10)) : Prop :=
  ∃ f : State → Answer, ∀ s, verbAnswer i s = some (f s) ∧ exec i s = desk tag s (f s)

theorem catalogue_answers : ∀ v ∈ catalogue, ∀ (h : ReqHead) (f : Fields), answersAs (v.make h f) h.tag := by
  have cardRead : ∀ (c : Bool) (h : ReqHead) (x : Arg Bool),
      answersAs (if c then .cardReadLast h x else .cardRead h) h.tag := fun c h x => by
    cases c <;> exact ⟨_, fun s => ⟨rfl, rfl⟩⟩
  simp only [catalogue, tableVerbs, workVerbs, List.forall_mem_append, List.forall_mem_cons, List.not_mem_nil,
    IsEmpty.forall_iff, implies_true, and_true]
  and_intros <;> first | exact fun h f => ⟨_, fun s => ⟨rfl, rfl⟩⟩ | exact fun h f => cardRead _ h _

theorem findVerb_mem {parts rest : List (List Byte)} {v : Verb} (h : findVerb parts = some (v, rest)) : v ∈ catalogue := by
  have found : ∀ {p : Verb → Bool} {r : List (List Byte)},
      ((catalogue.find? p).map fun w => (w, r)) = some (v, rest) → v ∈ catalogue := by
    intro p r h
    obtain ⟨w, hw, e⟩ := Option.map_eq_some_iff.1 h
    obtain ⟨rfl, -⟩ := Prod.mk.inj e
    exact List.mem_of_find?_eq_some hw
  cases parts with
  | nil => cases h
  | cons a t =>
    cases t with
    | nil => exact found h
    | cons b r =>
      unfold findVerb at h
      dsimp only at h
      split at h
      · next x hx => exact found (hx.trans h)
      · exact found h

theorem readRequest_answers {tag : List (Fin 10)} {parts : List (List Byte)} {i : Instr}
    (h : readRequest tag parts = some i) : answersAs i tag := by
  obtain ⟨⟨v, rest⟩, hv, rfl⟩ := Option.map_eq_some_iff.1 h
  exact catalogue_answers v (findVerb_mem hv) _ _

section
variable {s : State} {line : List Byte} {rest : List (List Byte)} {tag : List (Fin 10)} {parts : List (List Byte)}

theorem exec_takeRequest (ht : s.takesRequest = true) (hq : s.link.inbound.requests = line :: rest)
    (hl : readLine line = some (tag, parts)) :
    exec .takeRequest s =
      done (runRequest tag (readRequest tag parts) (s.withInbound { s.link.inbound with requests := rest })) := by
  show execTakeRequest s = _
  unfold execTakeRequest takeOldestRequest
  rw [hq]
  dsimp only
  rw [if_pos ht, modInbound_eq]
  unfold runLine
  rw [hl]

/-- A request of the catalogue is handled as its command is. -/
theorem runRequest_some {u : State} {i : Instr} (hu : u.takesRequest = true) (hi : answersAs i tag) :
    done (runRequest tag (some i) u) = exec i u := by
  obtain ⟨f, hf⟩ := hi
  obtain ⟨answers, does⟩ := hf u
  unfold runRequest
  rw [does, Option.bind_some, answers, desk, if_pos hu]

end

/-! ### The obligation -/

theorem charactersJoin (s : State) (c : Byte) (bad : Bool) (b : Inbound) (hw : s.working = true) (hlf : c ≠ 0x0A)
    (hcan : c ≠ 0x18) (hb : b = s.link.inbound) :
    ∃ t, exec (.characterReceived c bad) s = .next t ∧
      (b.overlong = false → b.chars < 2048 → changesOnly [] [] [] (s.withInbound { b with
        part := b.part ++ [c], seen := b.seen + 1, bad := b.bad || bad
        overlong := decide (b.seen = 240 ∧ c ≠ 0x0D ∨ 240 < b.seen) }) t) ∧
      (b.overlong = true → changesOnly [] [] [] (s.withInbound { b with
        seen := b.seen + 1, bad := b.bad || bad }) t) ∧
      (b.overlong = false → 2048 ≤ b.chars → changesOnly [] [] [] (s.withInbound { b with
        seen := b.seen + 1, bad := b.bad || bad, overflowed := true
        overlong := decide (b.seen = 240 ∧ c ≠ 0x0D ∨ 240 < b.seen) }) t) := by
  have run : exec (.characterReceived c bad) s = done (s.withInbound (b.receive c bad)) := by
    show execCharacterReceived c bad s = _
    unfold execCharacterReceived
    rw [if_neg (by simp [hw]), if_neg hlf, if_neg hcan, modInbound_eq, hb]
  have stands : ∀ u, changesOnly [] [] [] u (finish u) := fun u => (alters.refl _ _ _ _).changesOnly
  refine ⟨_, run, fun hl hr => ?_, fun hl => ?_, fun hl hr => ?_⟩
  · rw [receive_joins c bad hl hr, overlong_of_not_lf hlf]; exact stands _
  · rw [receive_overlong c bad hl]; exact stands _
  · rw [receive_full c bad hl hr, overlong_of_not_lf hlf]; exact stands _

theorem linesEnd (s : State) (bad : Bool) (b : Inbound) (hw : s.working = true) (hb : b = s.link.inbound)
    (hr : b.chars < 2048) (hl : b.overlong = false) :
    (b.bad = false → bad = false → b.overflowed = false → b.seen ≠ 240 → b.seen ≤ 241 → b.part = [0x0D] →
      exec (.deskLineReceived bad) s = exec .takeRequest
        ((s.withInbound { b with part := [0x0D, 0x0A] }).withInbound ⟨b.requests, [], 0, false, false, false⟩)) ∧
    ((b.bad = true ∨ bad = true ∨ b.overflowed = true ∨ (b.seen = 240 ∨ 241 < b.seen) ∨
        (b.part ≠ [0x0D] ∧ readLine (b.part ++ [0x0A]) = none)) →
      ∃ u, u = (s.withInbound { b with part := b.part ++ [0x0A] }).withInbound
          ⟨b.requests, [], 0, false, false, false⟩ ∧
        exec (.deskLineReceived bad) s = exec .takeRequest
          { u with link := { u.link with errors := satSucc max32 u.link.errors } }) ∧
    (b.bad = false → bad = false → b.overflowed = false → b.seen ≠ 240 → b.seen ≤ 241 → b.part ≠ [0x0D] →
      (readLine (b.part ++ [0x0A])).isSome = true →
      exec (.deskLineReceived bad) s = exec .takeRequest (s.withInbound
        ⟨b.requests ++ [b.part ++ [0x0A]], [], 0, false, false, false⟩)) := by
  have received := receive_joins 0x0A bad hl hr
  have part : ∀ l : List Byte, l ≠ [0x0D] → l ++ [0x0A] ≠ [0x0D, 0x0A] := fun l h e =>
    h (List.append_cancel_right (e.trans (rfl : ([0x0D, 0x0A] : List Byte) = [0x0D] ++ [0x0A])))
  have unmarked : b.bad = false → bad = false → b.overflowed = false → b.seen ≠ 240 → b.seen ≤ 241 →
      (b.receive 0x0A bad).marked = false := by
    intro h1 h2 h3 h4 h5
    rw [received]
    simp [Inbound.marked, h1, h2, h3, h4, Nat.not_lt.2 h5]
  subst hb
  refine ⟨fun h1 h2 h3 h4 h5 hp => ?_, fun h => ⟨_, rfl, ?_⟩, fun h1 h2 h3 h4 h5 hp hs => ?_⟩
  · refine exec_deskLineReceived hw ((endLine_empty (unmarked h1 h2 h3 h4 h5) (by rw [received]; simp [hp])).trans ?_)
    rw [received]
    exact withInbound_congr _ (by simp [Inbound.chars, hp])
  · have marks : (s.link.inbound.receive 0x0A bad).marked = true ∨
        ((s.link.inbound.receive 0x0A bad).part ≠ [0x0D, 0x0A] ∧
          readLine (s.link.inbound.receive 0x0A bad).part = none) := by
      rw [received]
      rcases h with h | h | h | (h | h) | ⟨h, g⟩
      · exact .inl (by simp [Inbound.marked, h])
      · exact .inl (by simp [Inbound.marked, h])
      · exact .inl (by simp [Inbound.marked, h])
      · exact .inl (by simp [Inbound.marked, h])
      · exact .inl (by simp [Inbound.marked, h])
      · exact .inr ⟨part _ h, g⟩
    refine exec_deskLineReceived hw ((endLine_discards marks).trans ?_)
    rw [received]
    exact congrArg State.discards (withInbound_congr _ rfl)
  · refine exec_deskLineReceived hw ((endLine_keeps (unmarked h1 h2 h3 h4 h5) (by rw [received]; exact part _ hp)
      (by rw [received]; exact hs)).trans ?_)
    rw [received]
    exact withInbound_same (by simp [Inbound.chars, Inbound.clearPart])

theorem fullLinesEnd (s : State) (bad : Bool) (hw : s.working = true)
    (h : 2048 ≤ s.link.inbound.chars ∨ s.link.inbound.overlong = true) :
    ∃ u, u = (s.withInbound s.link.inbound).withInbound ⟨s.link.inbound.requests, [], 0, false, false, false⟩ ∧
      exec (.deskLineReceived bad) s = exec .takeRequest
        { u with link := { u.link with errors := satSucc max32 u.link.errors } } := by
  refine ⟨_, rfl, ?_⟩
  cases hl : s.link.inbound.overlong with
  | true =>
    have received := receive_overlong 0x0A bad hl
    refine exec_deskLineReceived hw ((endLine_discards (.inl (by rw [received]; simp [Inbound.marked, hl]))).trans ?_)
    rw [received]
    exact congrArg State.discards (withInbound_congr _ rfl)
  | false =>
    have hr : 2048 ≤ s.link.inbound.chars := by simpa [hl] using h
    have received := receive_full 0x0A bad hl hr
    refine exec_deskLineReceived hw ((endLine_discards (.inl (by rw [received]; simp [Inbound.marked]))).trans ?_)
    rw [received]
    exact congrArg State.discards (withInbound_congr _ rfl)

/-- Settles O54: `charactersJoin`, `linesEnd`, `fullLinesEnd`, and what a taken request is handed to. -/
theorem requestsAreReceivedAndTaken : Obligations.RequestsAreReceivedAndTaken := by
  refine ⟨charactersJoin, fun s hw => ?_, linesEnd, fullLinesEnd, ?_, ?_⟩
  · refine ⟨finish (discardPart s), ?_, ?_⟩
    · show execLineDiscardCharacter s = _
      unfold execLineDiscardCharacter
      rw [if_pos hw]; rfl
    · unfold discardPart
      rw [modInbound_eq]
      exact (alters.refl _ _ _ _).changesOnly
  · intro s line rest tag parts ht hq hl
    refine ⟨fun i hi => ?_, fun hi => ⟨_, (exec_takeRequest ht hq hl).trans (by rw [hi]; rfl),
      (alters.refl _ _ _ _).answersOnly _ _⟩⟩
    rw [exec_takeRequest ht hq hl, hi]
    exact runRequest_some ht (readRequest_answers hi)
  · intro s h
    have stands : takeOldestRequest s = s := by
      unfold takeOldestRequest
      split
      · rfl
      · next r t hq => rw [if_neg]; rcases h with h | h <;> simp_all
    exact ⟨_, congrArg done stands, (alters.refl _ _ _ _).changesOnly⟩

end Sys2Proof.Machine
/-! ## The transmitter (R171, R175, R177, R180) -/

namespace Sys2Proof.Machine

set_option Elab.async false

/-! ### The form of a line -/

theorem hexVal_hexDigit {n : Nat} (h : n < 16) : hexVal (hexDigit n) = some n := by
  revert n; decide

/-- A digit of a check is a decimal digit or a capital letter. -/
theorem hexDigit_form {n : Nat} (h : n < 16) :
    (0x30 ≤ hexDigit n ∧ hexDigit n ≤ 0x39) ∨ (0x41 ≤ hexDigit n ∧ hexDigit n ≤ 0x46) := by
  revert n; decide

/-- The four digits of a check, each below 16, are its number. -/
theorem checkDigits (c : BitVec 16) : c.toNat / 4096 < 16 ∧ inBase 16 [c.toNat / 4096, c.toNat / 256 % 16,
    c.toNat / 16 % 16, c.toNat % 16] = c.toNat := by
  have := c.isLt
  simp only [inBase, List.foldl_cons, List.foldl_nil]
  omega

theorem checkedBody_closeLine (body : Text) : checkedBody (closeLine body) = some body := by
  obtain ⟨top, value⟩ := checkDigits (crc16 0xFFFF body)
  have low : ∀ n, n % 16 < 16 := fun n => Nat.mod_lt n (by decide)
  have reversed : (closeLine body).reverse = 0x0A :: 0x0D :: hexDigit ((crc16 0xFFFF body).toNat % 16) ::
      hexDigit ((crc16 0xFFFF body).toNat / 16 % 16) :: hexDigit ((crc16 0xFFFF body).toNat / 256 % 16) ::
      hexDigit ((crc16 0xFFFF body).toNat / 4096) :: 0x3B :: body.reverse := by
    simp [closeLine, checkText]
  have digits : allVals hexVal [hexDigit ((crc16 0xFFFF body).toNat / 4096), hexDigit ((crc16 0xFFFF body).toNat / 256 % 16),
      hexDigit ((crc16 0xFFFF body).toNat / 16 % 16), hexDigit ((crc16 0xFFFF body).toNat % 16)] =
      some [(crc16 0xFFFF body).toNat / 4096, (crc16 0xFFFF body).toNat / 256 % 16,
        (crc16 0xFFFF body).toNat / 16 % 16, (crc16 0xFFFF body).toNat % 16] := by
    simp only [allVals, hexVal_hexDigit top, hexVal_hexDigit (low _)]
  unfold checkedBody
  rw [reversed]
  show (match allVals hexVal _ with
    | some v => if inBase 16 v = (crc16 0xFFFF body.reverse.reverse).toNat then some body.reverse.reverse else none
    | none => none) = some body
  rw [digits, List.reverse_reverse]
  exact if_pos value

theorem checkText_form (c : BitVec 16) : (checkText c).length = 4 ∧
    ∀ b ∈ checkText c, (0x30 ≤ b ∧ b ≤ 0x39) ∨ (0x41 ≤ b ∧ b ≤ 0x46) := by
  have low : ∀ n, n % 16 < 16 := fun n => Nat.mod_lt n (by decide)
  refine ⟨rfl, fun b hb => ?_⟩
  simp only [checkText, List.mem_cons, List.not_mem_nil, or_false] at hb
  rcases hb with rfl | rfl | rfl | rfl
  · exact hexDigit_form (checkDigits c).1
  · exact hexDigit_form (low _)
  · exact hexDigit_form (low _)
  · exact hexDigit_form (low _)

/-- Joined parts, closed by a separator, begin with the first and a separator. -/
theorem joinText_cons (sep : Byte) (x : Text) (t : List Text) :
    ∃ more, joinText sep (x :: t) ++ [sep] = x ++ sep :: more := by
  cases t with
  | nil => exact ⟨[], rfl⟩
  | cons y t => exact ⟨joinText sep (y :: t) ++ [sep], by simp [joinText]⟩

theorem reply_body (tag : List (Fin 10)) (form : ReplyForm) (y : RLine) :
    ∃ more, (TxLine.reply tag form y).body = tagText tag ++ 0x20 :: form.text ++ 0x20 :: more := by
  obtain ⟨more, hm⟩ := joinText_cons 0x20 form.text y.fields
  refine ⟨more, ?_⟩
  show joinText 0x20 (tagText tag :: form.text :: y.fields) ++ [0x20] = _
  simp only [joinText, List.append_assoc, List.cons_append, hm]

theorem RLine.form_err (y : RLine) : y.form = .err ↔ ∃ c, y = .err c := by
  cases y with
  | err c => simp [RLine.form]
  | _ => simp [RLine.form]

theorem RLine.form_accepted (y : RLine) :
    y.form = .accepted ↔ y = .readStarted ∨ ∃ n k i a b, y = .issued n k i a b := by
  cases y with
  | issued => simp [RLine.form]
  | readStarted => simp [RLine.form]
  | _ => simp [RLine.form]

theorem RLine.form_ne_continuation (y : RLine) : y.form ≠ .continuation := by
  cases y <;> simp [RLine.form]

/-! ### The next line -/

section
variable {s : State} {r : ReplySlot} {y : RLine}

/-- What ends a step begins the next line of the reply in the slot, but while HOLD_IN is asserted. -/
theorem finish_begins (hx : s.link.tx = none) (hr : s.link.slot = some r) (hy : r.lines[r.begun]? = some y)
    (hp : s.power.state ≠ .off) :
    (finish s).link.tx = (if s.link.holdIn = true then none
        else some (.reply r.tag (if r.begun = 0 then y.form else .continuation) y)) ∧
      (finish s).link.slot = some (if s.link.holdIn = true then r else { r with begun := r.begun + 1 }) := by
  have rest := (pumpEngine_posts s).rest
  have tx : (pumpEngine s).link.tx = none := (congrArg Link.tx rest :).trans hx
  have slot : (pumpEngine s).link.slot = some r := (congrArg Link.slot rest :).trans hr
  have hold : (pumpEngine s).link.holdIn = s.link.holdIn := (congrArg Link.holdIn rest :)
  have power : (pumpEngine s).power.state ≠ .off := by simpa using hp
  unfold finish pumpTx
  rw [if_neg power]
  unfold State.onLink Link.beginLine
  dsimp only
  rw [tx, slot, hold]
  cases s.link.holdIn with
  | true => exact ⟨tx, slot⟩
  | false => simp [ReplySlot.next, ReplySlot.nextForm, hy]

/-- With the engine at a program, and no reply in the slot, the first pending class is sent. -/
theorem finish_notifies {c : NoticeClass} {p : Program} {before after : List NoticeClass} (hs : s.power.state = .run)
    (hx : s.link.tx = none) (hr : s.link.slot = none) (hh : s.link.holdIn = false)
    (hp : s.store.engine = .programming p) (hall : allClasses = before ++ c :: after)
    (hb : ∀ d ∈ before, (s.link.notices.get d).pending = false) (hc : (s.link.notices.get c).pending = true) :
    finish s = { s with link := { s.link with
      tx := some (.notice c (s.link.notices.get c).count (s.link.notices.get c).detail)
      notices := s.link.notices.set c (s.link.notices.get c).sent } } := by
  have works : s.working = true := by unfold State.working; rw [hs]
  have idle : pumpEngine s = s := by
    unfold pumpEngine
    rw [if_neg (by simp [works]), hp]
  have first : s.link.notices.firstPending = some c := by
    unfold Notices.firstPending
    rw [hall, List.find?_append, List.find?_eq_none.2 (fun d hd => by simp [hb d hd])]
    simp [hc]
  have power : s.power.state ≠ .off := by simp [hs]
  unfold finish
  rw [idle, pumpTx, if_neg power]
  unfold State.onLink Link.beginLine
  simp [hx, hr, hh, first, State.sendsNotices, works]

theorem exec_transmitLineComplete {x : TxLine} (hx : s.link.tx = some x) :
    exec .transmitLineComplete s = done (lineSent s) := by
  show execTransmitLineComplete s = _
  unfold execTransmitLineComplete
  rw [hx]

/-- While the reply in the slot has a line to begin, the line sent leaves the transmitter free and nothing else. -/
theorem lineSent_waits (h : s.link.replyBegun = false) :
    lineSent s = { s with link := { s.link with tx := none } } := by
  unfold lineSent
  dsimp only
  rw [h]
  split <;> rfl

theorem lineSent_empties {tag : List (Fin 10)} {form : ReplyForm} (hx : s.link.tx = some (.reply tag form y))
    (hr : s.link.slot = some r) (hb : r.lines.length ≤ r.begun) :
    lineSent s = slotEmpties { s with link := { s.link with tx := none } } := by
  have begun : s.link.replyBegun = true := by simp [Link.replyBegun, hr, hb]
  unfold lineSent
  rw [hx]
  dsimp only
  rw [if_pos begun]
  rfl

end

/-! ### The obligation -/

theorem linesHaveTheirForm (x : TxLine) : checkedBody x.chars = some x.body ∧
    (∃ c : List Byte, c.length = 4 ∧ (∀ b ∈ c, (0x30 ≤ b ∧ b ≤ 0x39) ∨ (0x41 ≤ b ∧ b ≤ 0x46)) ∧
      x.chars = x.body ++ 0x3B :: c ++ [0x0D, 0x0A]) ∧
    match x with
    | .reply tag form _ => ∃ more, x.body = tag.map (fun d => BitVec.ofNat 8 (48 + d.val)) ++ 0x20 :: (match form with
        | .ok => [0x4F, 0x4B]
        | .accepted => [0x41, 0x43, 0x43, 0x45, 0x50, 0x54, 0x45, 0x44]
        | .err => [0x45, 0x52, 0x52]
        | .continuation => [0x2B]) ++ 0x20 :: more
    | .notice _ _ _ => ∃ more, x.body = 0x2A :: 0x20 :: more := by
  obtain ⟨four, digits⟩ := checkText_form (crc16 0xFFFF x.body)
  refine ⟨checkedBody_closeLine _, ⟨_, four, digits, rfl⟩, ?_⟩
  cases x with
  | reply tag form y =>
    obtain ⟨more, hm⟩ := reply_body tag form y
    exact ⟨more, by rw [hm]; cases form <;> rfl⟩
  | notice c count detail => exact joinText_cons 0x20 (wordText "*") _

/-- Settles O55: the form of every line (`linesHaveTheirForm`), and what the transmitter begins as a line ends. -/
theorem theTransmitterSendsLines : Obligations.TheTransmitterSendsLines := by
  refine ⟨fun y => ⟨y.form_err, y.form_accepted, y.form_ne_continuation⟩, linesHaveTheirForm, fun s => rfl, fun s => ?_,
    ?_, ?_, ?_, ?_⟩
  · refine ⟨_, rfl, (alters.refl _ _ _ _).changesOnly, fun r y hp hx hr hy => ?_⟩
    exact (finish_begins (s := { s with link := { s.link with holdIn := false } }) hx hr hy hp).1
  · intro s x r y hx hr hy hp
    have waits : s.link.replyBegun = false := by
      have := (List.getElem?_eq_some_iff.1 hy).1
      simp [Link.replyBegun, hr, this]
    have run := (exec_transmitLineComplete hx).trans (congrArg done (lineSent_waits waits))
    obtain ⟨tx, slot⟩ := finish_begins (s := { s with link := { s.link with tx := none } }) rfl hr hy hp
    exact ⟨_, run, tx, slot, (alters.refl _ _ _ _).changesOnly⟩
  · intro s r tag form y hx hr hb hd
    rw [exec_transmitLineComplete hx, lineSent_empties hx hr hb]
    unfold slotEmpties
    dsimp only [State.onLink]
    rw [hd]
    rfl
  · intro s r tag done form y lines hx hr hb hd
    let u : State := { s with link := { s.link with tx := none, slot := none, deferredDone := none } }
    have run : exec .transmitLineComplete s = .next (finish (placeReply done lines u)) := by
      rw [exec_transmitLineComplete hx, lineSent_empties hx hr hb]
      unfold slotEmpties
      dsimp only [State.onLink]
      rw [hd]
      rfl
    obtain ⟨reply, cells, changes, link, -, rest⟩ :=
      (alters.refl (s := u) [] [] []).answersOnly ⟨done, false⟩ lines
    refine ⟨_, run, reply, link.deferredDone, link.inbound, ⟨cells.1, cells.2, cells.3, cells.4, cells.5, cells.6⟩, changes,
      fun p hp => ?_⟩
    have := rest p hp
    cases p <;> first | exact this | exact absurd (by simp) hp
  · intro s x c p before after hs hx hr hh hreply hp hall hb hc
    have run : exec .transmitLineComplete s = done { s with link := { s.link with tx := none } } := by
      rw [exec_transmitLineComplete hx]
      refine congrArg done ?_
      unfold lineSent
      rw [hx]
      cases x with
      | reply tag form y => exact absurd rfl (hreply tag form y)
      | notice => rfl
    have sends := finish_notifies (s := { s with link := { s.link with tx := none } }) hs rfl hr hh hp hall hb hc
    refine ⟨_, run, by rw [sends], by rw [sends]; exact Notices.get_set_self _ _ _, fun d hd => ?_, fun q hq => ?_, ?_⟩
    · rw [sends]; exact Notices.get_set_other _ _ hd
    · rw [sends]
      cases q <;> first | rfl | exact absurd (by simp) hq
    · rw [sends]

end Sys2Proof.Machine
/-! ## The acceptance of records (R137 to R139, R145) -/

namespace Sys2Proof.Machine

set_option Elab.async false

section
variable {s : State} {b : JBody}

/-- A saturating count is the next number or its top. -/
theorem satSucc_eq_min (top n : Nat) : satSucc top n = min (n + 1) top := by
  unfold satSucc
  split <;> omega

theorem Journal.shut_iff (j : Journal) : j.shut = true ↔ j.writer = .fault ∨ max32 < j.nextSeq := by
  simp [Journal.shut]

theorem Journal.shut_eq_false {j : Journal} (hw : j.writer ≠ .fault) (hn : j.nextSeq ≤ max32) : j.shut = false :=
  Bool.eq_false_iff.2 fun h => ((j.shut_iff).1 h).elim hw fun g => Nat.not_lt.2 hn g

theorem Journal.tally_eq (j : Journal) (k : JKind) :
    j.tally k = if k = .admitted ∨ k = .refuse then { j with dropAdm := min (j.dropAdm + 1) max32 }
      else { j with dropOther := min (j.dropOther + 1) max32 } := by
  unfold Journal.tally
  rw [satSucc_eq_min, satSucc_eq_min]

/-- The tallies of records dropped one after the other. -/
theorem Journal.tallied (l : List (Nat × Nat)) (j : Journal) :
    l.foldl (fun j _ => j.tally .overrun) j =
      { j with dropOther := l.foldl (fun d _ => min (d + 1) max32) j.dropOther } := by
  induction l generalizing j with
  | nil => rfl
  | cons x l ih =>
    rw [List.foldl_cons, ih, Journal.tally_eq]
    rfl

/-! ### A record that is accepted -/

/-- The state with a record accepted under a sequence that is not the last. -/
def State.recorded (s : State) (b : JBody) : State :=
  { s with journal := { s.journal with
    nextSeq := s.journal.nextSeq + 1
    staging := s.journal.staging ++ [⟨s.journal.nextSeq, s.clock.minute, s.clock.second, b⟩] } }

theorem acceptRec_recorded (hw : s.journal.writer ≠ .fault) (hn : s.journal.nextSeq < max32) :
    acceptRec b s = s.recorded b := by
  have held : (s.journal.append s.clock b).dropHeld = s.journal.append s.clock b :=
    if_neg (by rw [Journal.shut_eq_false (j := s.journal.append s.clock b) hw hn]; exact Bool.false_ne_true)
  exact (if_neg (Nat.ne_of_lt hn)).trans (congrArg (fun j => { s with journal := j }) held)

theorem acceptRec_exhausts (hn : s.journal.nextSeq = max32) : acceptRec b s = s.exhaustedBy b := by
  have shut : (s.journal.append s.clock b).shut = true := (Journal.shut_iff _).2 (.inr (by simp [Journal.append, hn]))
  have held : (s.journal.append s.clock b).dropHeld = { s.journal.append s.clock b with
      heldOverruns := []
      dropOther := s.journal.heldOverruns.foldl (fun d _ => min (d + 1) max32) s.journal.dropOther } := by
    unfold Journal.dropHeld
    rw [if_pos shut, Journal.tallied]
    rfl
  unfold acceptRec State.exhaustedBy
  dsimp only
  rw [if_pos hn]
  refine congrArg (fun j => post .journal .exhausted { s with journal := j }) (held.trans ?_)
  simp [Journal.append, hn]

/-- A tallied record. -/
theorem dropRec_eq (b : JBody) (s : State) :
    dropRec b s = { s with journal := if b.kind = .admitted ∨ b.kind = .refuse
      then { s.journal with dropAdm := min (s.journal.dropAdm + 1) max32 }
      else { s.journal with dropOther := min (s.journal.dropOther + 1) max32 } } :=
  congrArg (fun j => { s with journal := j }) (Journal.tally_eq _ _)

/-! ### An ordinary record -/

theorem offer_dropped (h : s.journal.writer = .fault ∨ max32 < s.journal.nextSeq ∨
    (s.journal.owed = true ∧ 55 ≤ s.journal.staging.length) ∨ 56 ≤ s.journal.staging.length) : offer b s = dropRec b s := by
  unfold offer
  cases hs : s.journal.shut with
  | true => rfl
  | false =>
    have open' : ¬(s.journal.writer = .fault ∨ max32 < s.journal.nextSeq) := fun g => by
      rw [(Journal.shut_iff _).2 g] at hs; cases hs
    cases ho : s.journal.owed with
    | true =>
      have : ¬ s.journal.staging.length ≤ 54 := by
        rcases h with h | h | ⟨-, h⟩ | h
        · exact absurd (.inl h) open'
        · exact absurd (.inr h) open'
        · omega
        · omega
      simp [this]
    | false =>
      have : ¬ s.journal.staging.length ≤ 55 := by
        rcases h with h | h | ⟨h, -⟩ | h
        · exact absurd (.inl h) open'
        · exact absurd (.inr h) open'
        · rw [ho] at h; cases h
        · omega
      simp [this]

theorem offer_accepted (hw : s.journal.writer ≠ .fault) (hn : s.journal.nextSeq ≤ max32) (ho : s.journal.owed = false)
    (hl : s.journal.staging.length ≤ 55) : offer b s = acceptRec b s := by
  unfold offer
  rw [Journal.shut_eq_false hw hn, ho]
  simp [hl]

/-- With drops owed the GAP record is accepted first, and then the record, or it is dropped. -/
theorem offer_owed (hw : s.journal.writer ≠ .fault) (hn : s.journal.nextSeq ≤ max32) (ho : s.journal.owed = true)
    (hl : s.journal.staging.length ≤ 54) :
    offer b s = if (acceptGap s).journal.shut then dropRec b (acceptGap s) else acceptRec b (acceptGap s) := by
  unfold offer
  rw [Journal.shut_eq_false hw hn, ho]
  simp [hl]

/-- The state once the GAP record has been accepted under a sequence that is not the last. -/
def State.gapped (s : State) : State :=
  State.recorded { s with journal := { s.journal with dropAdm := 0, dropOther := 0 } } s.journal.gapBody

theorem acceptGap_recorded (hw : s.journal.writer ≠ .fault) (hn : s.journal.nextSeq < max32) : acceptGap s = s.gapped :=
  acceptRec_recorded (s := s.onJournal fun j => { j with dropAdm := 0, dropOther := 0 }) hw hn

theorem offer_gapped (hw : s.journal.writer ≠ .fault) (hn : s.journal.nextSeq < max32) (ho : s.journal.owed = true)
    (hl : s.journal.staging.length ≤ 54) : offer b s = acceptRec b s.gapped := by
  rw [offer_owed hw (Nat.le_of_lt hn) ho hl, acceptGap_recorded hw hn,
    Journal.shut_eq_false (j := s.gapped.journal) hw hn]
  rfl

/-- With one sequence left the GAP record takes it, and the record is dropped. -/
theorem offer_gapLast {u : State} (hw : s.journal.writer ≠ .fault) (hn : s.journal.nextSeq = max32)
    (ho : s.journal.owed = true) (hl : s.journal.staging.length ≤ 54)
    (hu : u = State.exhaustedBy { s with journal := { s.journal with dropAdm := 0, dropOther := 0 } } s.journal.gapBody) :
    offer b s = dropRec b u := by
  have gap : acceptGap s = u := (acceptRec_exhausts (s := s.onJournal fun j => { j with dropAdm := 0, dropOther := 0 })
    hn).trans hu.symm
  have shut : u.journal.shut = true := (Journal.shut_iff _).2 (.inr (by rw [hu]; exact Nat.lt_succ_self max32))
  rw [offer_owed hw (Nat.le_of_eq hn) ho hl, gap, if_pos shut]

/-! ### A money record, and an OVERRUN record -/

theorem Journal.takesMoney_iff {j : Journal} :
    j.takesMoney = true ↔ j.shut = false ∧ j.staging.length ≤ 63 := by
  simp [Journal.takesMoney]

theorem offerMoney_accepted (hw : s.journal.writer ≠ .fault) (hn : s.journal.nextSeq ≤ max32)
    (hl : s.journal.staging.length ≤ 63) : offerMoney b s = some (acceptRec b s) :=
  if_pos (Journal.takesMoney_iff.2 ⟨Journal.shut_eq_false hw hn, hl⟩)

theorem offerMoney_refused (h : s.journal.writer = .fault ∨ max32 < s.journal.nextSeq ∨ 64 ≤ s.journal.staging.length) :
    offerMoney b s = none := by
  refine if_neg fun g => ?_
  obtain ⟨hs, hl⟩ := Journal.takesMoney_iff.1 g
  have : ¬ s.journal.shut = true := by simp [hs]
  rw [Journal.shut_iff] at this
  rcases h with h | h | h
  · exact this (.inl h)
  · exact this (.inr h)
  · omega

theorem offerOverrun_dropped {r : Nat × Nat} (h : s.journal.writer = .fault ∨ max32 < s.journal.nextSeq) :
    offerOverrun r s = dropRec (overrunBody r) s := if_pos ((Journal.shut_iff _).2 h)

theorem offerOverrun_open {r : Nat × Nat} (hw : s.journal.writer ≠ .fault) (hn : s.journal.nextSeq ≤ max32) :
    offerOverrun r s = if s.journal.staging.length ≤ 63 then acceptRec (overrunBody r) s
      else s.onJournal fun j => { j with heldOverruns := j.heldOverruns ++ [r] } := by
  unfold offerOverrun
  rw [Journal.shut_eq_false hw hn]
  rfl

end

/-! ### The obligation -/

theorem ordinaryAndMoneyRecords (s : State) (b : JBody) (n : Nat) (hlen : n = s.journal.staging.length) :
    ((s.journal.writer = .fault ∨ max32 < s.journal.nextSeq ∨ (s.journal.owed = true ∧ 55 ≤ n) ∨ 56 ≤ n) →
      offer b s = { s with journal := if b.kind = .admitted ∨ b.kind = .refuse
        then { s.journal with dropAdm := min (s.journal.dropAdm + 1) max32 }
        else { s.journal with dropOther := min (s.journal.dropOther + 1) max32 } }) ∧
    (s.journal.writer ≠ .fault → s.journal.nextSeq < max32 → s.journal.owed = false → n ≤ 55 →
      offer b s = s.recorded b) ∧
    (s.journal.writer ≠ .fault → s.journal.nextSeq + 1 < max32 → s.journal.owed = true → n ≤ 54 →
      offer b s = { s with journal := { s.journal with
        dropAdm := 0, dropOther := 0, nextSeq := s.journal.nextSeq + 2
        staging := s.journal.staging ++ [⟨s.journal.nextSeq, s.clock.minute, s.clock.second, s.journal.gapBody⟩,
          ⟨s.journal.nextSeq + 1, s.clock.minute, s.clock.second, b⟩] } }) ∧
    (s.journal.writer ≠ .fault → s.journal.nextSeq = max32 → s.journal.owed = false → n ≤ 55 →
      offer b s = s.exhaustedBy b) ∧
    (s.journal.writer ≠ .fault → s.journal.owed = true → n ≤ 54 → ∀ gap : JBody,
      gap = ⟨.gap, none, none, none, .num s.journal.dropAdm, .num s.journal.dropOther, .none⟩ →
      (s.journal.nextSeq + 1 = max32 → offer b s = State.exhaustedBy { s with journal := { s.journal with
          dropAdm := 0, dropOther := 0, nextSeq := max32
          staging := s.journal.staging ++ [⟨s.journal.nextSeq, s.clock.minute, s.clock.second, gap⟩] } } b) ∧
      (s.journal.nextSeq = max32 → ∀ u,
        u = State.exhaustedBy { s with journal := { s.journal with dropAdm := 0, dropOther := 0 } } gap →
        offer b s = { u with journal := if b.kind = .admitted ∨ b.kind = .refuse
          then { u.journal with dropAdm := 1 }
          else { u.journal with dropOther := min (u.journal.dropOther + 1) max32 } })) ∧
    (s.journal.writer ≠ .fault → s.journal.nextSeq = max32 → n ≤ 63 → offerMoney b s = some (s.exhaustedBy b)) ∧
    ((s.journal.writer = .fault ∨ max32 < s.journal.nextSeq ∨ 64 ≤ n) → offerMoney b s = none) ∧
    (s.journal.writer ≠ .fault → s.journal.nextSeq < max32 → n ≤ 63 → offerMoney b s = some (s.recorded b)) := by
  subst hlen
  refine ⟨fun h => (offer_dropped h).trans (dropRec_eq b s), fun hw hn ho hl => ?_, fun hw hn ho hl => ?_,
    fun hw hn ho hl => ?_, fun hw ho hl gap hg => ⟨fun hn => ?_, fun hn u hu => ?_⟩, fun hw hn hl => ?_, offerMoney_refused,
    fun hw hn hl => ?_⟩
  · exact (offer_accepted hw (Nat.le_of_lt hn) ho hl).trans (acceptRec_recorded hw hn)
  · rw [offer_gapped hw (Nat.lt_of_succ_lt hn) ho hl, acceptRec_recorded (s := s.gapped) hw hn]
    simp [State.recorded, State.gapped]
  · exact (offer_accepted hw (Nat.le_of_eq hn) ho hl).trans (acceptRec_exhausts hn)
  · rw [offer_gapped hw (hn ▸ Nat.lt_succ_self _) ho hl, acceptRec_exhausts (s := s.gapped) hn, hg, ← hn]
    rfl
  · subst hg
    rw [offer_gapLast hw hn ho hl hu, dropRec_eq, show u.journal.dropAdm = 0 by rw [hu]; rfl]
    rfl
  · exact (offerMoney_accepted hw (Nat.le_of_eq hn) hl).trans (congrArg some (acceptRec_exhausts hn))
  · exact (offerMoney_accepted hw (Nat.le_of_lt hn) hl).trans (congrArg some (acceptRec_recorded hw hn))

theorem overrunRecords (s : State) (first last : Nat) (b : JBody)
    (hb : b = ⟨.overrun, none, none, none, .num first, .num last, .none⟩) :
    ((s.journal.writer = .fault ∨ max32 < s.journal.nextSeq) →
      (offerOverrun (first, last) s).journal = s.journal.tally .overrun) ∧
    (s.journal.writer ≠ .fault → s.journal.nextSeq < max32 → s.journal.staging.length ≤ 63 →
      offerOverrun (first, last) s = s.recorded b) ∧
    (s.journal.writer ≠ .fault → s.journal.nextSeq = max32 → s.journal.staging.length ≤ 63 →
      offerOverrun (first, last) s = s.exhaustedBy b) ∧
    (s.journal.writer ≠ .fault → s.journal.nextSeq ≤ max32 → 64 ≤ s.journal.staging.length →
      offerOverrun (first, last) s = { s with journal := { s.journal with
        heldOverruns := s.journal.heldOverruns ++ [(first, last)] } }) := by
  subst hb
  refine ⟨fun h => by rw [offerOverrun_dropped h]; rfl, fun hw hn hl => ?_, fun hw hn hl => ?_, fun hw hn hl => ?_⟩
  · rw [offerOverrun_open hw (Nat.le_of_lt hn), if_pos hl, acceptRec_recorded hw hn]; rfl
  · rw [offerOverrun_open hw (Nat.le_of_eq hn), if_pos hl, acceptRec_exhausts hn]; rfl
  · rw [offerOverrun_open hw hn, if_neg (by omega)]; rfl

/-- Settles O56: `ordinaryAndMoneyRecords`, `overrunRecords`, and the oldest held OVERRUN record on a space signal. -/
theorem recordsAreAccepted : Obligations.RecordsAreAccepted := by
  refine ⟨ordinaryAndMoneyRecords, overrunRecords, fun s first last rest hw ho hh => ?_⟩
  let u : State := { s with signals := { s.signals with overrun := false } }
  let v : State := { u with journal := { u.journal with heldOverruns := rest } }
  have run : exec .heldOverrunAccept s = done (if s.journal.takesMoney then acceptRec (overrunBody (first, last)) v else u) := by
    show execHeldOverrunAccept s = _
    unfold execHeldOverrunAccept acceptHeld
    rw [if_pos (by simp [hw, ho])]
    simp only [State.onSignals, hh]
    rfl
  have taken : ∀ {w : State}, s.journal.takesMoney = true → acceptRec (overrunBody (first, last)) v = w →
      (if s.journal.takesMoney then acceptRec (overrunBody (first, last)) v else u) = w := fun h g => by rw [if_pos h, g]
  have kept : alters [] [.journal, .signals] [] s v :=
    ((alters.refl _ _ _ _).onSignals fun g => { g with overrun := false }).onJournal fun j => { j with heldOverruns := rest }
  refine ⟨_, run, ?_, fun hw hn hl => ?_, fun hw hn hl => ?_, fun hl => ?_⟩
  · split <;> simp [u, v]
  · rw [taken (Journal.takesMoney_iff.2 ⟨Journal.shut_eq_false hw (Nat.le_of_lt hn), hl⟩) (acceptRec_recorded hw hn)]
    exact ⟨by simp [State.recorded, v, u, overrunBody],
      (kept.onJournal fun j => (v.recorded (overrunBody (first, last))).journal).changesOnly⟩
  · rw [taken (Journal.takesMoney_iff.2 ⟨Journal.shut_eq_false hw (Nat.le_of_eq hn), hl⟩) rfl]
    refine ⟨?_, ?_, ((kept.mono (by simp) (by simp) (by simp)).acceptRec _).changesOnly⟩
    · rw [acceptRec_exhausts (s := v) hn]
      simp [State.exhaustedBy, v, u, overrunBody]
    · refine posted_finish (by simp) ?_
      rw [acceptRec_exhausts (s := v) hn]
      exact post_notice_self _ _ _
  · rw [if_neg (by simp [Journal.takesMoney]; omega)]
    exact ⟨by simp [u], ((alters.refl _ _ _ _).onSignals fun g => { g with overrun := false }).changesOnly⟩

end Sys2Proof.Machine
/-! ## The break locator (R81, R82) -/

namespace Sys2Proof.Machine

set_option Elab.async false

/-! ### Sorted positions -/

theorem insertBy_length {α : Type} (key : α → Nat) (x : α) (l : List α) : (insertBy key x l).length = l.length + 1 := by
  induction l with
  | nil => rfl
  | cons y t ih =>
    unfold insertBy
    split
    · rfl
    · simp [ih]

theorem sortBy_length {α : Type} (key : α → Nat) (l : List α) : (sortBy key l).length = l.length := by
  have grows : ∀ (l acc : List α), (l.foldl (fun acc x => insertBy key x acc) acc).length = acc.length + l.length := by
    intro l
    induction l with
    | nil => exact fun _ => rfl
    | cons y t ih => exact fun acc => by rw [List.foldl_cons, ih, insertBy_length, List.length_cons]; omega
  exact (grows l []).trans (Nat.zero_add _)

theorem head?_least {l : List Nat} {b : Nat} (hs : l.Pairwise (· ≤ ·)) (h : l.head? = some b) : b ∈ l ∧ ∀ x ∈ l, b ≤ x := by
  cases l with
  | nil => cases h
  | cons y t =>
    obtain rfl : y = b := Option.some.inj h
    exact ⟨List.mem_cons_self, fun x hx => (List.mem_cons.1 hx).elim (fun e => e ▸ Nat.le_refl _) (List.rel_of_pairwise_cons hs)⟩

theorem getLast?_greatest {l : List Nat} {a : Nat} (hs : l.Pairwise (· ≤ ·)) (h : l.getLast? = some a) :
    a ∈ l ∧ ∀ x ∈ l, x ≤ a := by
  obtain ⟨t, rfl⟩ := List.getLast?_eq_some_iff.1 h
  refine ⟨by simp, fun x hx => ?_⟩
  rcases List.mem_append.1 hx with hx | hx
  · exact (List.pairwise_append.1 hs).2.2 x hx a (by simp)
  · exact Nat.le_of_eq (List.mem_singleton.1 hx)

section
variable {l : List Node} {st : LinkState}

theorem mem_positionsIn {x : Nat} : x ∈ positionsIn st l ↔ ∃ n ∈ l, n.link.state = st ∧ n.entry.pos = x := by
  simp [positionsIn, and_assoc]

theorem positionsIn_sorted (st : LinkState) (l : List Node) : (positionsIn st l).Pairwise (· ≤ ·) := sortBy_sorted id _

theorem positionsIn_eq_nil : positionsIn st l = [] ↔ ∀ n ∈ l, n.link.state ≠ st := by
  rw [List.eq_nil_iff_forall_not_mem]
  constructor
  · exact fun h n hn hst => h _ (mem_positionsIn.2 ⟨n, hn, hst, rfl⟩)
  · intro h x hx
    obtain ⟨n, hn, hst, -⟩ := mem_positionsIn.1 hx
    exact h n hn hst

theorem positionsIn_length (st : LinkState) (l : List Node) :
    (positionsIn st l).length = (l.filter fun n => decide (n.link.state = st)).length := by
  rw [positionsIn, sortBy_length, List.length_map]

/-! ### The condition and its report -/

/-- The nodes the break locator is given: each ON_A, ON_B or LOST. -/
def allCounted (l : List Node) : Prop := ∀ n ∈ l, n.link.state = .onA ∨ n.link.state = .onB ∨ n.link.state = .lost

/-- How the lowest ON_B and the highest ON_A position tell an IRREGULAR line. -/
theorem irregular_iff {b a : Nat} (hb : (positionsIn .onB l).head? = some b) (ha : (positionsIn .onA l).getLast? = some a) :
    b < a ↔ ∃ n ∈ l, ∃ m ∈ l, n.link.state = .onB ∧ m.link.state = .onA ∧ n.entry.pos < m.entry.pos := by
  obtain ⟨b_in, b_least⟩ := head?_least (positionsIn_sorted _ _) hb
  obtain ⟨a_in, a_greatest⟩ := getLast?_greatest (positionsIn_sorted _ _) ha
  constructor
  · intro h
    obtain ⟨n, hn, hnb, rfl⟩ := mem_positionsIn.1 b_in
    obtain ⟨m, hm, hma, rfl⟩ := mem_positionsIn.1 a_in
    exact ⟨n, hn, m, hm, hnb, hma, h⟩
  · rintro ⟨n, hn, m, hm, hnb, hma, h⟩
    have := b_least _ (mem_positionsIn.2 ⟨n, hn, hnb, rfl⟩)
    have := a_greatest _ (mem_positionsIn.2 ⟨m, hm, hma, rfl⟩)
    omega

/-- The position after which a line is split: that of the last ON_A node, or 0 where there is none. -/
def splitAfter (l : List Node) : Nat := (positionsIn .onA l).getLast?.getD 0

theorem splitAfter_greatest (l : List Node) : (∀ n ∈ l, n.link.state = .onA → n.entry.pos ≤ splitAfter l) ∧
    if ∃ n ∈ l, n.link.state = .onA then ∃ n ∈ l, n.link.state = .onA ∧ n.entry.pos = splitAfter l
    else splitAfter l = 0 := by
  unfold splitAfter
  cases ha : (positionsIn .onA l).getLast? with
  | none =>
    have none := positionsIn_eq_nil.1 (List.getLast?_eq_none_iff.1 ha)
    refine ⟨fun n hn h => absurd h (none n hn), ?_⟩
    rw [if_neg fun ⟨n, hn, h⟩ => none n hn h]
    rfl
  | some a =>
    obtain ⟨a_in, a_greatest⟩ := getLast?_greatest (positionsIn_sorted _ _) ha
    obtain ⟨n, hn, hna, e⟩ := mem_positionsIn.1 a_in
    refine ⟨fun m hm h => a_greatest _ (mem_positionsIn.2 ⟨m, hm, h, rfl⟩), ?_⟩
    rw [if_pos ⟨n, hn, hna⟩]
    exact ⟨n, hn, hna, e⟩

/-- The condition in the order of its tests. -/
theorem lineCond_eq (l : List Node) : lineCond l =
    if positionsIn .lost l ≠ [] ∧ positionsIn .onA l = [] ∧ positionsIn .onB l = [] then .dark
    else if positionsIn .onB l = [] ∧ positionsIn .lost l = [] then .whole
    else if ∃ n ∈ l, ∃ m ∈ l, n.link.state = .onB ∧ m.link.state = .onA ∧ n.entry.pos < m.entry.pos then .irregular
    else .split (splitAfter l) := by
  have last : (match (positionsIn .onB l).head?, (positionsIn .onA l).getLast? with
      | some b, some a => if b < a then LineCond.irregular else .split a
      | none, some a => .split a
      | _, none => .split 0) =
      if ∃ n ∈ l, ∃ m ∈ l, n.link.state = .onB ∧ m.link.state = .onA ∧ n.entry.pos < m.entry.pos then .irregular
      else .split (splitAfter l) := by
    unfold splitAfter
    cases hb : (positionsIn .onB l).head? with
    | none =>
      have none := positionsIn_eq_nil.1 (List.head?_eq_none_iff.1 hb)
      rw [if_neg fun ⟨n, hn, _, _, h, _⟩ => none n hn h]
      cases (positionsIn .onA l).getLast? <;> rfl
    | some b =>
      cases ha : (positionsIn .onA l).getLast? with
      | none =>
        have none := positionsIn_eq_nil.1 (List.getLast?_eq_none_iff.1 ha)
        rw [if_neg fun ⟨_, _, m, hm, _, h, _⟩ => none m hm h]
        rfl
      | some a => simp only [irregular_iff hb ha]; rfl
  unfold lineCond
  dsimp only
  exact if_congr (by simp [and_assoc]) rfl (if_congr (by simp) rfl last)

theorem conditionIs_lineCond (h : allCounted l) : conditionIs l (lineCond l) := by
  have dark : (positionsIn .lost l ≠ [] ∧ positionsIn .onA l = [] ∧ positionsIn .onB l = []) ↔
      l ≠ [] ∧ ∀ n ∈ l, n.link.state = .lost := by
    rw [positionsIn_eq_nil, positionsIn_eq_nil, ne_eq, positionsIn_eq_nil]
    constructor
    · rintro ⟨hl, ha, hb⟩
      refine ⟨fun e => hl (by simp [e]), fun n hn => ?_⟩
      rcases h n hn with g | g | g
      · exact absurd g (ha n hn)
      · exact absurd g (hb n hn)
      · exact g
    · rintro ⟨hne, hl⟩
      obtain ⟨m, hm⟩ := List.exists_mem_of_ne_nil l hne
      exact ⟨fun g => g m hm (hl m hm), fun n hn => by simp [hl n hn], fun n hn => by simp [hl n hn]⟩
  have whole : (positionsIn .onB l = [] ∧ positionsIn .lost l = []) ↔ ∀ n ∈ l, n.link.state = .onA := by
    rw [positionsIn_eq_nil, positionsIn_eq_nil]
    constructor
    · rintro ⟨hb, hl⟩ n hn
      rcases h n hn with g | g | g
      · exact g
      · exact absurd g (hb n hn)
      · exact absurd g (hl n hn)
    · exact fun ha => ⟨fun n hn => by simp [ha n hn], fun n hn => by simp [ha n hn]⟩
  rw [lineCond_eq]
  simp only [dark, whole]
  unfold conditionIs
  split
  · rfl
  · split
    · rfl
    · split
      · rfl
      · exact ⟨_, rfl, splitAfter_greatest l⟩

theorem reportIs_split (l : List Node) (p : Nat) : reportIs l (.split p) (condReport (.split p) l) := by
  have least : ∀ {b}, (positionsIn .onB l).head? = some b → ∀ n ∈ l, n.link.state = .onB →
      (∀ m ∈ l, m.link.state = .onB → n.entry.pos ≤ m.entry.pos) → b = n.entry.pos := by
    intro b hb n hn hnb lowest
    obtain ⟨b_in, b_least⟩ := head?_least (positionsIn_sorted _ _) hb
    obtain ⟨m, hm, hmb, rfl⟩ := mem_positionsIn.1 b_in
    exact Nat.le_antisymm (b_least _ (mem_positionsIn.2 ⟨n, hn, hnb, rfl⟩)) (lowest m hm hmb)
  refine ⟨rfl, fun none => ?_, fun n hn hnb lowest => ?_, fun x => ?_, ?_⟩
  · simp only [condReport, positionsIn_eq_nil.2 none, List.head?_nil]
  · cases hb : (positionsIn .onB l).head? with
    | none => exact absurd hnb (positionsIn_eq_nil.1 (List.head?_eq_none_iff.1 hb) n hn)
    | some b => simp only [condReport, hb, least hb n hn hnb lowest]
  · simp only [condReport, List.mem_filter, mem_positionsIn, Bool.and_eq_true, decide_eq_true_eq]
    constructor
    · rintro ⟨⟨n, hn, hs, hp⟩, hx⟩; exact ⟨n, hn, hs, hp, hx⟩
    · rintro ⟨n, hn, hs, hp, hx⟩; exact ⟨⟨n, hn, hs, hp⟩, hx⟩
  · simp only [condReport]
    rw [← positionsIn_length]
    exact (List.length_eq_length_filter_add _).symm

theorem reportIs_irregular (h : ∃ n ∈ l, ∃ m ∈ l, n.link.state = .onB ∧ m.link.state = .onA ∧ n.entry.pos < m.entry.pos) :
    reportIs l .irregular (condReport .irregular l) := by
  obtain ⟨n, hn, m, hm, hnb, hma, -⟩ := h
  cases hb : (positionsIn .onB l).head? with
  | none => exact absurd hnb (positionsIn_eq_nil.1 (List.head?_eq_none_iff.1 hb) n hn)
  | some b =>
    cases ha : (positionsIn .onA l).getLast? with
    | none => exact absurd hma (positionsIn_eq_nil.1 (List.getLast?_eq_none_iff.1 ha) m hm)
    | some a =>
      obtain ⟨b_in, b_least⟩ := head?_least (positionsIn_sorted _ _) hb
      obtain ⟨a_in, a_greatest⟩ := getLast?_greatest (positionsIn_sorted _ _) ha
      have lowest : (condReport .irregular l).lowestB = b := by
        simp [condReport, List.headD_eq_head?_getD, hb]
      have highest : (condReport .irregular l).highestA = a := by
        simp [condReport, List.getLastD_eq_getLast?, ha]
      unfold reportIs
      rw [lowest, highest]
      exact ⟨mem_positionsIn.1 b_in, fun k hk g => b_least _ (mem_positionsIn.2 ⟨k, hk, g, rfl⟩),
        mem_positionsIn.1 a_in, fun k hk g => a_greatest _ (mem_positionsIn.2 ⟨k, hk, g, rfl⟩)⟩

theorem reportIs_condReport (l : List Node) : reportIs l (lineCond l) (condReport (lineCond l) l) := by
  rw [lineCond_eq]
  split
  · trivial
  · split
    · trivial
    · split
      · next h => exact reportIs_irregular h
      · exact reportIs_split l _

end

/-! ### The nodes counted -/

section
variable {s t : State}

theorem countedOn_eq (s : State) (i : LineId) : s.countedOn i = s.counted i := by
  unfold State.countedOn State.counted State.nodesOn
  rw [List.map_map, List.filter_map, List.filter_filter]
  have tests : (fun e : Nat × Node => decide (keyLine e.1 = i ∧ e.2.entry.enabled = true ∧
      (e.2.link.state = .onA ∨ e.2.link.state = .onB ∨ e.2.link.state = .lost))) = fun e =>
      (((fun n : Node => n.entry.enabled && (decide (n.link.state = .onA) || decide (n.link.state = .onB) ||
        decide (n.link.state = .lost))) ∘ (Prod.snd ∘ fun e : Nat × Node => (keyAddr e.1, e.2))) e &&
        decide (keyLine e.1 = i)) := by
    funext e
    simp [Bool.and_comm, Bool.or_assoc]
  rw [tests]
  rfl

theorem counted_allCounted (s : State) (i : LineId) : allCounted (s.counted i) := by
  intro n hn
  have := (List.mem_filter.1 hn).2
  simpa [or_assoc] using (Bool.and_eq_true_iff.1 this).2

/-- What the break locator finds on a line. -/
def State.condOf (s : State) (i : LineId) : LineCond := lineCond (s.countedOn i)

/-- The report of what it finds. -/
def State.reportOf (s : State) (i : LineId) : CondReport := condReport (s.condOf i) (s.countedOn i)

theorem condOf_is (s : State) (i : LineId) : conditionIs (s.countedOn i) (s.condOf i) :=
  conditionIs_lineCond (countedOn_eq s i ▸ counted_allCounted s i)

theorem reportOf_is (s : State) (i : LineId) : reportIs (s.countedOn i) (s.condOf i) (s.reportOf i) :=
  reportIs_condReport _

/-- The change the break locator finds on a line. -/
def State.condChange (s : State) (i : LineId) : Option LineCond :=
  if s.condOf i = (s.line i).cond then none else some (s.condOf i)

/-- What a change of the line condition records and posts. -/
def noteCond (i : LineId) (c : Option LineCond) (s : State) : State :=
  match c with
  | none => s
  | some k => post .line (.lineCond i k) (offer (condBody i k) s)

theorem locate_eq (i : LineId) (s : State) : locate i s = noteCond i (s.condChange i)
    (s.modLine i fun x => { x with cond := s.condOf i, report := s.reportOf i }) := by
  unfold locate State.condChange State.reportOf State.condOf
  rw [countedOn_eq]
  dsimp only
  split <;> rfl

theorem condRecords_some (i : LineId) (k : LineCond) : condRecords i (some k) = [condBody i k] := by
  cases k <;> rfl

/-- What is noted of a line's condition, by its parts. -/
theorem noteCond_journal (i : LineId) (c : Option LineCond) (s : State) :
    (noteCond i c s).journal = ((condRecords i c).foldl (fun x b => offer b x) s).journal := by
  cases c with
  | none => rfl
  | some k => rw [condRecords_some]; simp [noteCond]

theorem noteCond_notice (i : LineId) (c : Option LineCond) (s : State) :
    (noteCond i c s).link.notices.get .line =
      (c.toList.map (Detail.lineCond i)).foldl Notice.occur (s.link.notices.get .line) := by
  cases c with
  | none => rfl
  | some k =>
    show ((post .line (.lineCond i k) (offer (condBody i k) s)).link.notices.get .line) = _
    rw [post_notice_self, offer_notice _ _ (by simp)]
    rfl

theorem noteCond_lines (i : LineId) (c : Option LineCond) (s : State) : (noteCond i c s).lines = s.lines := by
  cases c <;> simp [noteCond]

theorem noteCond_nodes (i : LineId) (c : Option LineCond) (s : State) : (noteCond i c s).nodes = s.nodes := by
  cases c <;> simp [noteCond]

theorem noteCond_settings (i : LineId) (c : Option LineCond) (s : State) : (noteCond i c s).settings = s.settings := by
  cases c <;> simp [noteCond]

theorem noteCond_clock (i : LineId) (c : Option LineCond) (s : State) : (noteCond i c s).clock = s.clock := by
  cases c <;> simp [noteCond]

theorem alters.noteCond {K : List EntryKey} {P : List Part} {C : List NoticeClass} (h : alters K P C s t)
    (i : LineId) (c : Option LineCond) (hp : Part.journal ∈ P := by simp) (hc : NoticeClass.journal ∈ C := by simp)
    (hl : NoticeClass.line ∈ C := by simp) : alters K P C s (noteCond i c t) := by
  cases c with
  | none => exact h
  | some k => exact (h.offer _ hp hc).post _ _ hl

/-- What the break locator counts depends on the node table alone, and of it on what orders marked at a node leave. -/
theorem countedOn_congr (h : t.nodes = s.nodes) (i : LineId) : t.countedOn i = s.countedOn i := by
  unfold State.countedOn; rw [h]

theorem condOf_congr (h : t.nodes = s.nodes) (i : LineId) : t.condOf i = s.condOf i := by
  unfold State.condOf; rw [countedOn_congr h]

theorem reportOf_congr (h : t.nodes = s.nodes) (i : LineId) : t.reportOf i = s.reportOf i := by
  unfold State.reportOf; rw [condOf_congr h, countedOn_congr h]

end

end Sys2Proof.Machine
/-! ## A node table out of order (R81)

The statements of what a line goes on to (`wentOn`) allow every node table, in canonical form or not. Where a key stands
behind a larger one, an owed order sent to its node is stored ahead of the larger key and leaves the old entry behind it
(`FMap.put`): the break locator, which counted the node once as the last cycle ended, would count it twice. -/

namespace Sys2Proof.Machine

set_option Elab.async false

/-- An enabled door of a line at this position, with this link. -/
def doorAt (pos : Nat) (link : NodeLink) : Node := ⟨⟨.roomDoor, pos, none, 0, true, [], 0⟩, link, .start, .start⟩

/-- A LOST node, first on its line, that is owed its mode order. -/
def lostNode : Node := doorAt 1 ⟨.lost, 3, 0, true, false, false, false, none⟩

/-- The node after it, answering on leg A. -/
def heardNode : Node := doorAt 3 ⟨.onA, 0, 0, false, false, false, false, none⟩

/-- A part whose node table is out of order: the key 300 of a node of line 2 stands first. Its line 1 has had the last
visit of a cycle, the next is due, in phase 8, and this exchange is outstanding. -/
def crowded (x : Exchange) (q : List Order) : State := { State.reset with
  nodes := [(300, heardNode), (133, heardNode), (129, lostNode)]
  lines := ⟨{ Line.start with
    running := true, exch := some x, queue := q, cycle := some ⟨[], none⟩, phase := 7, restart := false },
    .start, .start, .start⟩ }

/-- An exchange with a node since removed, outstanding. -/
def goneExchange (second : Bool) : Exchange := ⟨.removed, .a, 5, second, false, 5, pollFrame 5, false⟩

/-- How line 1 of `crowded` resumes: its cycle is complete, and the next one begins with the visit to the LOST node. -/
theorem crowded_resumes (x : Exchange) (q : List Order) :
    ∃ y, resumes .l1 ((crowded x q).exchangeEnded .l1 [] id) 1 y := by
  have lists : (crowded x q).visitList .l1 8 = [1, 5] := by
    show (crowded (goneExchange false) []).visitList .l1 8 = [1, 5]
    decide +kernel
  have complete : completes .l1 ((crowded x q).exchangeEnded .l1 [] id) 1 :=
    .inr ⟨⟨[], none⟩, rfl, fun v h => (by cases h), fun a h => absurd h List.not_mem_nil, rfl⟩
  exact ⟨_, .begins 1 8 1 [5] lostNode complete rfl rfl lists rfl rfl⟩

/-- A line report that counts one LOST node does not do for a table with two of them. -/
def miscounts (t : State) : Prop :=
  (t.line .l1).cond = .split 3 ∧ (t.line .l1).report.lostIn.length + (t.line .l1).report.lostOut = 1 ∧
    ((t.countedOn .l1).filter fun n => decide (n.link.state = .lost)).length = 2

/-- The state a command leaves. -/
def leftBy (c : Instr) (s : State) : State :=
  match exec c s with
  | .next t => t
  | _ => s

theorem leftBy_eq {c : Instr} {s t : State} (h : exec c s = .next t) : leftBy c s = t := by
  unfold leftBy; rw [h]

theorem not_wentOn_crowded {x : Exchange} {q : List Order} {t : State} (h : miscounts t) :
    ¬ wentOn .l1 ((crowded x q).exchangeEnded .l1 [] id) t := by
  intro went
  obtain ⟨split, one, two⟩ := h
  obtain ⟨y, hy⟩ := crowded_resumes x q
  obtain ⟨c, found⟩ := (went.1 1 y hy).ends Nat.one_pos
  have report := found.report
  rw [split] at report
  obtain ⟨-, -, -, -, count⟩ := report
  omega

/-- Refutes O40: the STANDALONE broadcast leaves `crowded` to go on with its table out of order, and the line report it
takes up before the owed order is sent counts the LOST node once where the table then holds it twice. -/
theorem not_framesAreSent : ¬ Obligations.FramesAreSent := by
  intro ⟨_, _, _, sent, _⟩
  let o : Order := ⟨.standalone, .other, none, 0⟩
  let x : Exchange := ⟨.broadcast o, .b, 0, true, false, 5, broadcastFrame .standalone 0, false⟩
  obtain ⟨t, run, -, -, went⟩ := sent (crowded x [o]) .l1 x o rfl rfl rfl rfl
  have miscount : miscounts (leftBy (.broadcastSent .l1) (crowded x [o])) := by
    unfold miscounts; decide +kernel
  rw [leftBy_eq run] at miscount
  exact not_wentOn_crowded miscount (went rfl)

/-- A reply of its address with no event. -/
def goneReply : List Byte := frameBytes 5 0x81 [0, 0, 0]

/-- Refutes O41: the reply of a removed node leaves `crowded` to go on, as in `not_framesAreSent`. -/
theorem not_repliesAreTaken : ¬ Obligations.RepliesAreTaken := by
  intro ⟨taken, _⟩
  obtain ⟨r, read, addr⟩ : ∃ r, readReply goneReply = some r ∧ r.addr = 5 :=
    ⟨⟨5, ⟨false, false, false, false, false, 0⟩, false, .none⟩, by decide +kernel⟩
  obtain ⟨-, -, takes⟩ := taken (crowded (goneExchange false) []) .l1 (goneExchange false) heardNode goneReply
    rfl rfl rfl rfl rfl (by decide) (by decide) rfl
  obtain ⟨t, run, went⟩ := (takes r read addr rfl).2 rfl
  have run : exec (.nodeReply .l1 .a goneReply) (crowded (goneExchange false) []) = .next t := run
  have miscount : miscounts (leftBy (.nodeReply .l1 .a goneReply) (crowded (goneExchange false) [])) := by
    unfold miscounts; decide +kernel
  rw [leftBy_eq run] at miscount
  exact not_wentOn_crowded miscount went

/-- Refutes O42: the time limit of a reply of a removed node leaves `crowded` to go on, as in `not_framesAreSent`. -/
theorem not_unansweredFramesAreRetried : ¬ Obligations.UnansweredFramesAreRetried := by
  intro ⟨retried, _⟩
  obtain ⟨-, -, -, ends⟩ := retried (crowded (goneExchange true) []) .l1 (goneExchange true) rfl rfl rfl rfl
  obtain ⟨t, run, went⟩ := ends rfl
  have miscount : miscounts (leftBy (.replyTimeout .l1) (crowded (goneExchange true) [])) := by
    unfold miscounts; decide +kernel
  rw [leftBy_eq run] at miscount
  exact not_wentOn_crowded miscount went

end Sys2Proof.Machine
/-! ## What a line at liberty sends (R66 to R69, R71, R73) -/

namespace Sys2Proof.Machine

set_option Elab.async false

/-! ### The frames -/

section
variable {s u : State} {i : LineId}

theorem sendFrame_line (k : ExchKind) (g : Leg) (a : Nat) (b : Bool) (f : List Byte) (s : State) :
    (sendFrame i k g a b f s).line i =
      { s.line i with exch := some ⟨k, g, a, b, true, s.settings.timeout.get i, f, false⟩ } :=
  State.line_modLine_self _ _ _

theorem sendTagged_line (k : ExchKind) (g : Leg) (a : Nat) (b : Bool) (f : List Byte) (s : State) :
    (sendTagged i k g a b f s).line i = { s.line i with
      exch := some ⟨k, g, a, b, true, s.settings.timeout.get i, frameBytes a 2 (leBytes 1 (s.line i).tag ++ f), false⟩
      tag := ((s.line i).tag + 1) % 256 } := by
  unfold sendTagged
  rw [State.line_modLine_self, sendFrame_line]

/-- What sends on a line changes that line, and the node table where an owed order is marked as sent. -/
structure onLine (i : LineId) (s u : State) : Prop where
  others : ∀ j, j ≠ i → u.line j = s.line j
  altered : alters [] [.lines, .nodes] [] s u

theorem onLine.refl (i : LineId) (s : State) : onLine i s s := ⟨fun _ _ => rfl, alters.refl _ _ _ _⟩

theorem onLine.modLine (h : onLine i s u) (f : Line → Line) : onLine i s (u.modLine i f) :=
  ⟨fun j hj => (State.line_modLine_other _ f hj).trans (h.others j hj), h.altered.modLine i f⟩

theorem onLine.sendFrame (h : onLine i s u) (k : ExchKind) (g : Leg) (a : Nat) (b : Bool) (f : List Byte) :
    onLine i s (sendFrame i k g a b f u) := h.modLine _

theorem onLine.sendTagged (h : onLine i s u) (k : ExchKind) (g : Leg) (a : Nat) (b : Bool) (f : List Byte) :
    onLine i s (sendTagged i k g a b f u) := (h.sendFrame k g a b _).modLine _

theorem onLine.modLink (h : onLine i s u) (j : LineId) (a : Nat) (f : NodeLink → NodeLink) :
    onLine i s (modLink j a f u) :=
  ⟨fun l hl => (State.line_modNode _ _ _ _ _).trans (h.others l hl), h.altered.modNode _ _ _⟩

theorem onLine.trans {t : State} (h : onLine i s t) (g : onLine i t u) : onLine i s u :=
  ⟨fun j hj => (g.others j hj).trans (h.others j hj), h.altered.trans g.altered⟩

/-- What has been sent on a line (R66, R68, R71, R73). -/
structure sentNext (i : LineId) (s u : State) : Prop where
  onLine : onLine i s u
  line : u.line i = { s.line i with
    cycle := (s.line i).cycle.map fun c => c.having (s.sends i (s.line i))
    exch := s.sentExchange i (s.line i) (s.sends i (s.line i))
    tag := if (s.sends i (s.line i)).tagged = true then ((s.line i).tag + 1) % 256 else (s.line i).tag }
  nodes : u.nodes = (s.sends i (s.line i)).nodesAfter i s.nodes

theorem State.legFor_eq {a : Nat} (s : State) (i : LineId) : s.legFor i a false = ((s.node i a).map Node.orderLeg).getD .a := by
  unfold State.legFor
  cases s.node i a with
  | none => rfl
  | some n => simp [LinkState.firstLeg, Node.orderLeg]

theorem cycle_having_order (o : Order) (c : Option Cycle) : (c.map fun c => c.having (.order o)) = c := by
  cases c <;> rfl

/-- The oldest order of the queue is sent (R71, R72). -/
theorem sendOldest_sent (hx : (s.line i).exch = none) (h : (s.line i).queue ≠ [] ∨ (s.line i).cycle.bind Cycle.visit = none) :
    sentNext i s (sendOldest i s) := by
  cases hq : (s.line i).queue with
  | nil =>
    have visit := h.resolve_left fun g => g hq
    have nothing : s.sends i (s.line i) = .nothing := by unfold State.sends; rw [hq, visit]
    rw [sendOldest_none hq]
    refine ⟨.refl i s, ?_, by rw [nothing]; rfl⟩
    rw [nothing]
    have same : ((s.line i).cycle.map fun c => c.having .nothing) = (s.line i).cycle := by cases (s.line i).cycle <;> rfl
    rw [same, show s.sentExchange i (s.line i) .nothing = (s.line i).exch from hx.symm]
    rfl
  | cons o t =>
    have order : s.sends i (s.line i) = .order o := by unfold State.sends; rw [hq]
    refine ⟨?_, ?_, ?_⟩
    · unfold sendOldest; rw [hq]; dsimp only
      split
      · exact (onLine.refl i s).sendTagged ..
      · exact (onLine.refl i s).sendFrame ..
    · rw [order, cycle_having_order]
      unfold sendOldest; rw [hq]; dsimp only
      split
      · next a ha =>
        rw [sendTagged_line, State.legFor_eq]
        simp [State.sentExchange, State.orderExchange, ha, State.orderFrame, orderBody, Sending.tagged]
      · next ha =>
        rw [sendFrame_line]
        simp [State.sentExchange, State.orderExchange, ha, Sending.tagged]
    · rw [order]
      unfold sendOldest; rw [hq]; dsimp only
      split <;> simp [Sending.nodesAfter]

theorem State.modNode_eq {a : Nat} {n : Node} (h : s.node i a = some n) (f : Node → Node) :
    s.modNode i a f = s.onNodes fun m => m.put (nodeKey i a) (f n) := by
  unfold State.modNode State.modNodeAt
  rw [show s.nodes.get (nodeKey i a) = some n from h]

/-- The leg of a visit's poll (R74, R80). -/
theorem State.pollLeg_eq {v : Visit} {n : Node} (hn : s.node i v.addr = some n) :
    s.pollLeg i v = match v.repollNext, v.lastLeg with
      | true, some leg => leg
      | _, _ => if n.link.state = .onB ∧ (s.line i).phase ≠ 16 then .b else .a := by
  have first : s.legFor i v.addr (decide ((s.line i).phase = 16)) =
      if n.link.state = .onB ∧ (s.line i).phase ≠ 16 then .b else .a := by
    unfold State.legFor
    rw [hn]
    simp [LinkState.firstLeg]
  cases hr : v.repollNext <;> cases hl : v.lastLeg <;> simp only [State.pollLeg, first, hr, hl]

/-- What a line has to send at a visit with no order queued (R68, R73). -/
theorem State.sends_visit {x : Line} {v : Visit} {n : Node} (hq : x.queue = []) (hv : x.cycle.bind Cycle.visit = some v)
    (hn : s.node i v.addr = some n) : s.sends i x = if v.modeDue = true ∧ n.link.modeOwed = true then .owed v n false
      else if v.groupDue = true ∧ n.link.groupOwed = true then .owed v n true else .poll v n := by
  unfold State.sends
  rw [hq, hv]
  dsimp only
  rw [hn]

/-- An owed order is sent, and marked at its node (R73). -/
theorem owed_sent {v : Visit} {n : Node} {group : Bool} {kind : ExchKind} {body : List Byte} {f : NodeLink → NodeLink}
    {g : Visit → Visit} {c : Cycle} (hc : (s.line i).cycle = some c) (hn : s.node i v.addr = some n)
    (hs : s.sends i (s.line i) = .owed v n group)
    (hkind : kind = if group = true then .owedGroup else .owedMode)
    (hbody : frameBytes v.addr 2 (leBytes 1 (s.line i).tag ++ body) = if group = true
      then s.orderFrame i v.addr (s.groupOrder n.entry.group) n.entry.group else s.orderFrame i v.addr s.modeOrder 0)
    (hf : f n.link = if group = true then { n.link with groupSent := true } else { n.link with modeSent := true })
    (hg : g = fun v => if group = true then { v with groupDue := false } else { v with modeDue := false }) :
    sentNext i s (modLink i v.addr f
      (sendTagged i kind (s.legFor i v.addr false) v.addr false body (modVisit i g s))) := by
  refine ⟨((onLine.refl i s).modLine _).sendTagged _ _ _ _ _ |>.modLink _ _ _, ?_, ?_⟩
  · rw [modLink_line, sendTagged_line, hs, hc, show (modVisit i g s).line i = _ from State.line_modLine_self _ _ _]
    have frame : (modVisit i g s).settings = s.settings := by simp [modVisit]
    rw [frame, State.legFor_eq, hn]
    simp only [hc, Option.map_some, Cycle.having, hg, State.sentExchange, State.owedExchange, Sending.tagged, hkind, hbody,
      if_true, Option.getD_some]
    cases group <;> rfl
  · rw [hs]
    have node : (sendTagged i kind (s.legFor i v.addr false) v.addr false body (modVisit i g s)).node i v.addr = some n :=
      (State.node_congr (by simp [modVisit]) i v.addr).trans hn
    unfold modLink
    rw [State.modNode_eq node, hf]
    simp only [State.onNodes, Sending.nodesAfter]
    congr 1

/-- A visit to a present node sends what is next (R68, R73). -/
theorem workVisit_sent {v : Visit} {n : Node} {c : Cycle} (hx : (s.line i).exch = none) (hc : (s.line i).cycle = some c)
    (hv : c.visit = some v) (hn : s.node i v.addr = some n) : sentNext i s (workVisit i v s) := by
  have visit : (s.line i).cycle.bind Cycle.visit = some v := by rw [hc]; exact hv
  unfold workVisit
  by_cases hq : (s.line i).queue = []
  · have sends := State.sends_visit (s := s) (i := i) hq visit hn
    rw [if_neg (by simp [hq]), hn]
    dsimp only
    by_cases mode : v.modeDue = true ∧ n.link.modeOwed = true
    · rw [if_pos (by simpa using mode)]
      rw [if_pos mode] at sends
      exact owed_sent hc hn sends rfl rfl rfl (by funext v; rfl)
    · rw [if_neg (by simpa using mode)]
      rw [if_neg mode] at sends
      by_cases group : v.groupDue = true ∧ n.link.groupOwed = true
      · rw [if_pos (by simpa using group)]
        rw [if_pos group] at sends
        exact owed_sent hc hn sends rfl rfl rfl (by funext v; rfl)
      · rw [if_neg (by simpa using group)]
        rw [if_neg group] at sends
        refine ⟨(onLine.refl i s).sendFrame .., ?_, ?_⟩
        · unfold sendPoll
          have same : ((s.line i).cycle.map fun c => c.having (.poll v n)) = (s.line i).cycle := by rw [hc]; rfl
          rw [sendFrame_line, sends, State.pollLeg_eq hn, same]
          rfl
        · rw [sends]; simp [sendPoll, Sending.nodesAfter]
  · rw [if_pos (by simpa using hq)]
    exact sendOldest_sent hx (.inl hq)

end

/-! ### Between cycles -/

section
variable {w u v t : State} {i : LineId} {x : Line}

/-- The line stands in `u` as `x`, but for its condition, its report and its count, with the rest as in `w`. -/
structure standsAs (i : LineId) (x : Line) (w u : State) : Prop where
  line : u.line i = { x with cond := (u.line i).cond, report := (u.line i).report, count := (u.line i).count }
  others : ∀ j, j ≠ i → u.line j = w.line j
  nodes : u.nodes = w.nodes
  tag : x.tag = (w.line i).tag
  altered : alters [] [.lines, .journal] [.line, .journal] w u

theorem standsAs.sends (h : standsAs i x w u) : u.sends i (u.line i) = w.sends i x := by
  unfold State.sends State.node
  rw [h.nodes, h.line]

theorem standsAs.sentExchange (h : standsAs i x w u) (m : Sending) :
    u.sentExchange i (u.line i) m = w.sentExchange i x m := by
  have settings : u.settings = w.settings := h.altered.rest .settings (by simp)
  have groups : u.groups = w.groups := h.altered.rest .groups (by simp)
  have clock : u.clock = w.clock := h.altered.rest .clock (by simp)
  have tag : (u.line i).tag = (w.line i).tag := by rw [h.line]; exact h.tag
  have phase : (u.line i).phase = x.phase := by rw [h.line]
  cases m with
  | nothing => rfl
  | order o =>
    simp [State.sentExchange, State.orderExchange, State.orderFrame, State.node, settings, tag, h.nodes]
  | owed v n group =>
    simp [State.sentExchange, State.owedExchange, State.orderFrame, State.group, settings, groups, clock, tag]
    rfl
  | poll v n => simp [State.sentExchange, State.pollExchange, settings, phase]

/-- What a line that stands as `x` has sent (R68, R73). -/
structure hasSent (i : LineId) (x : Line) (w t : State) : Prop where
  others : ∀ l, l ≠ i → t.line l = w.line l
  line : t.line i = { x with
    cycle := x.cycle.map fun c => c.having (w.sends i x)
    exch := w.sentExchange i x (w.sends i x)
    tag := if (w.sends i x).tagged = true then (x.tag + 1) % 256 else x.tag
    cond := (t.line i).cond, report := (t.line i).report, count := (t.line i).count }
  nodes : t.nodes = (w.sends i x).nodesAfter i w.nodes

theorem standsAs.hasSent (h : standsAs i x w u) (g : sentNext i u v) (hl : t.lines = v.lines) (hn : t.nodes = v.nodes) :
    hasSent i x w t := by
  have line : v.line i = _ := g.line
  rw [h.sends, h.sentExchange] at line
  refine ⟨fun l hj => ?_, ?_, ?_⟩
  · rw [State.line_congr hl, g.onLine.others l hj, h.others l hj]
  · rw [State.line_congr hl, line, h.line]
  · rw [hn, g.nodes, h.sends, h.nodes]

theorem proceed_eq (hr : (w.line i).running = true) (hx : (w.line i).exch = none) (hd : w.draining = false)
    (hc : (w.line i).cycle = none) : proceed i w = betweenCycles i w := by
  unfold proceed
  rw [hr, hx, hd, hc]
  rfl

/-- Between cycles, with the poll period running, the oldest order is sent (R68). -/
theorem proceed_between (hr : (w.line i).running = true) (hx : (w.line i).exch = none) (hd : w.draining = false)
    (hc : (w.line i).cycle = none) (hp : (w.line i).periodEnd.isSome = true) : proceed i w = sendOldest i w := by
  obtain ⟨p, hp⟩ := Option.isSome_iff_exists.1 hp
  rw [proceed_eq hr hx hd hc]
  simp [betweenCycles, sendBetween, hx, hc, hp]

/-- A line as its next cycle begins (R67). -/
def Line.begun (l : Line) (phase period : Nat) : Line :=
  { l with phase := phase, restart := false, periodEnd := some period }

theorem Line.nextPhase_eq (l : Line) : l.nextPhase = l.phaseNext := by
  unfold Line.nextPhase Line.phaseNext
  cases l.restart <;> simp

/-- A due cycle begins: its first visit, or, with no node listed, its end. -/
theorem proceed_begins (hr : (w.line i).running = true) (hx : (w.line i).exch = none) (hd : w.draining = false)
    (hc : (w.line i).cycle = none) (hp : (w.line i).periodEnd = none) :
    proceed i w = sendBetween i (nextVisit i (w.visitList i (w.line i).phaseNext)
      (w.modLine i fun l => l.begun (w.line i).phaseNext (w.settings.period.get i))) := by
  rw [proceed_eq hr hx hd hc]
  unfold betweenCycles beginCycle openCycle
  rw [hc, hp, Line.nextPhase_eq]
  simp [hx, Line.begun]

theorem sendBetween_busy (h : (w.line i).exch.isSome = true) : sendBetween i w = w := by
  unfold sendBetween
  rw [if_neg]
  cases hx : (w.line i).exch with
  | none => rw [hx] at h; cases h
  | some x => simp

theorem sendBetween_free (hx : (w.line i).exch = none) (hc : (w.line i).cycle = none) :
    sendBetween i w = sendOldest i w := by
  unfold sendBetween
  rw [if_pos]
  simp [hx, hc]

theorem nextVisit_first {a : Nat} {more : List Nat} {n : Node} (hn : w.node i a = some n) (he : n.entry.enabled = true) :
    nextVisit i (a :: more) w =
      workVisit i (n.visit a) (w.modLine i fun l => { l with cycle := some ⟨more, some (n.visit a)⟩ }) := by
  unfold nextVisit State.nextDue
  rw [hn]
  dsimp only
  rw [if_pos he]
  rfl

/-! ### The end of a cycle -/

/-- The line once a cycle has been completed on it (R69). -/
def State.ended (w : State) (i : LineId) : State :=
  w.modLine i fun l => { l with
    cycle := none, count := satSucc max32 l.count, cond := w.condOf i, report := w.reportOf i }

theorem completeCycle_eq (i : LineId) (w : State) : completeCycle i w = noteCond i (w.condChange i) (w.ended i) := by
  unfold completeCycle
  rw [locate_eq]
  have nodes : (w.modLine i fun l => { l with cycle := none, count := satSucc max32 l.count }).nodes = w.nodes := rfl
  have change : (w.modLine i fun l => { l with cycle := none, count := satSucc max32 l.count }).condChange i =
      w.condChange i := by
    unfold State.condChange
    rw [condOf_congr nodes, State.line_modLine_self]
  rw [change, condOf_congr nodes, reportOf_congr nodes]
  congr 1
  unfold State.ended State.modLine State.onLines
  simp only [PerLine.get_set_self]
  congr 1
  exact PerLine.ext_get fun j => by simp only [PerLine.get_set]; split <;> simp_all

theorem completeCycle_line (i : LineId) (w : State) : (completeCycle i w).line i = { w.line i with
    cycle := none, count := satSucc max32 (w.line i).count, cond := w.condOf i, report := w.reportOf i } := by
  rw [completeCycle_eq, State.line_congr (noteCond_lines ..)]
  exact State.line_modLine_self _ _ _

theorem completeCycle_other {j : LineId} (w : State) (h : j ≠ i) : (completeCycle i w).line j = w.line j := by
  rw [completeCycle_eq, State.line_congr (noteCond_lines ..)]
  exact State.line_modLine_other _ _ h

theorem completeCycle_nodes (i : LineId) (w : State) : (completeCycle i w).nodes = w.nodes := by
  rw [completeCycle_eq, noteCond_nodes]; rfl

theorem completeCycle_journal (i : LineId) (w : State) : (completeCycle i w).journal =
    ((condRecords i (w.condChange i)).foldl (fun x b => offer b x) w).journal := by
  rw [completeCycle_eq, noteCond_journal]
  exact offerAll_congr _ rfl rfl

theorem completeCycle_notice (i : LineId) (w : State) : (completeCycle i w).link.notices.get .line =
    ((w.condChange i).toList.map (Detail.lineCond i)).foldl Notice.occur (w.link.notices.get .line) := by
  rw [completeCycle_eq, noteCond_notice]; rfl

theorem alters.completeCycle {K : List EntryKey} {P : List Part} {C : List NoticeClass} {s : State} (h : alters K P C s w)
    (i : LineId) (hl : Part.lines ∈ P := by simp) (hj : Part.journal ∈ P := by simp)
    (hc : NoticeClass.journal ∈ C := by simp) (hn : NoticeClass.line ∈ C := by simp) :
    alters K P C s (completeCycle i w) := by
  rw [completeCycle_eq]
  exact (h.modLine i _ hl).noteCond i _ hj hc hn

end

end Sys2Proof.Machine
/-! ## Lines enabled, disabled and reset (R65, R72, R83 to R85) -/

namespace Sys2Proof.Machine

set_option Elab.async false

/-! ### A line with no cycle that goes on -/

section
variable {w u v : State} {i : LineId} {x : Line}

theorem onLine.sendOldest (h : onLine i w u) : onLine i w (sendOldest i u) := by
  unfold Machine.sendOldest; split
  · exact h
  · split
    · exact h.sendTagged ..
    · exact h.sendFrame ..

theorem onLine.workVisit (h : onLine i w u) (d : Visit) : onLine i w (workVisit i d u) := by
  unfold Machine.workVisit; split
  · exact h.sendOldest
  · split
    · exact h
    · split
      · exact ((h.modLine _).sendTagged ..).modLink ..
      · split
        · exact ((h.modLine _).sendTagged ..).modLink ..
        · exact h.sendFrame ..

section
variable {K : List EntryKey} {P : List Part} {C : List NoticeClass} {s : State}

theorem alters.sendsOn (h : alters K P C s w) (g : onLine i w u) (hl : Part.lines ∈ P := by simp)
    (hn : Part.nodes ∈ P := by simp) : alters K P C s u :=
  h.trans (g.altered.mono (by simp) (by simp [hl, hn]) (by simp))

theorem alters.nextVisit (h : alters K P C s w) (l : List Nat) (hl : Part.lines ∈ P := by simp)
    (hn : Part.nodes ∈ P := by simp) (hj : Part.journal ∈ P := by simp) (hc : NoticeClass.journal ∈ C := by simp)
    (hi : NoticeClass.line ∈ C := by simp) : alters K P C s (nextVisit i l w) := by
  unfold Machine.nextVisit; split
  · exact h.completeCycle i hl hj hc hi
  · exact (h.modLine i _ hl).sendsOn ((onLine.refl i _).workVisit _) hl hn

theorem alters.sendBetween (h : alters K P C s w) (hl : Part.lines ∈ P := by simp) (hn : Part.nodes ∈ P := by simp) :
    alters K P C s (sendBetween i w) := by
  unfold Machine.sendBetween; split
  · exact h.sendsOn (onLine.refl i _).sendOldest hl hn
  · exact h

end

/-- The hypotheses on a line that is RUNNING and at liberty, its next cycle due. -/
structure due (i : LineId) (w : State) : Prop where
  running : (w.line i).running = true
  exch : (w.line i).exch = none
  draining : w.draining = false
  cycle : (w.line i).cycle = none
  period : (w.line i).periodEnd = none

/-- The state as the next cycle begins. -/
def State.cycleOpens (w : State) (i : LineId) : State :=
  w.modLine i fun l => l.begun (w.line i).phaseNext (w.settings.period.get i)

theorem due.altered (h : due i w) : alters [] [.nodes, .lines, .journal] [.journal, .line] w (proceed i w) := by
  rw [proceed_begins h.running h.exch h.draining h.cycle h.period]
  exact (((alters.refl _ _ _ _).modLine i _).nextVisit _).sendBetween

theorem cycleOpens_line (w : State) (i : LineId) :
    (w.cycleOpens i).line i = (w.line i).begun (w.line i).phaseNext (w.settings.period.get i) :=
  State.line_modLine_self _ _ _

/-- The first visit of the cycle sends (R67, R68). -/
theorem due.begins {a : Nat} {more : List Nat} {n : Node} (h : due i w)
    (hl : w.visitList i (w.line i).phaseNext = a :: more) (hn : w.node i a = some n) (he : n.entry.enabled = true) :
    ∃ u, standsAs i { (w.line i).begun (w.line i).phaseNext (w.settings.period.get i) with
        cycle := some ⟨more, some (n.visit a)⟩ } w u ∧
      alters [] [.lines] [] w u ∧ sentNext i u (proceed i w) ∧
      (u.line i).cond = (w.line i).cond ∧ (u.line i).report = (w.line i).report ∧ (u.line i).count = (w.line i).count := by
  let u := (w.cycleOpens i).modLine i fun l => { l with cycle := some ⟨more, some (n.visit a)⟩ }
  have line : u.line i = { (w.line i).begun (w.line i).phaseNext (w.settings.period.get i) with
      cycle := some ⟨more, some (n.visit a)⟩ } := by
    show ((w.cycleOpens i).modLine i _).line i = _
    rw [State.line_modLine_self, cycleOpens_line]
  have opens : alters [] [.lines] [] w u := ((alters.refl _ _ _ _).modLine i _).modLine i _
  have sent : sentNext i u (workVisit i (n.visit a) u) :=
    workVisit_sent (by rw [line]; exact h.exch) (by rw [line]) rfl hn
  have busy : ((workVisit i (n.visit a) u).line i).exch.isSome = true := workVisit_exch (v := n.visit a) (Option.isSome_iff_exists.2 ⟨n, hn⟩)
  refine ⟨u, ⟨by rw [line], fun j hj => ?_, rfl, rfl, opens.mono (by simp) (by simp) (by simp)⟩, opens, ?_, by rw [line]; rfl,
    by rw [line]; rfl, by rw [line]; rfl⟩
  · exact (State.line_modLine_other _ _ hj).trans (State.line_modLine_other _ _ hj)
  · rw [proceed_begins h.running h.exch h.draining h.cycle h.period, hl]
    rw [show nextVisit i (a :: more) (w.modLine i fun l => l.begun (w.line i).phaseNext (w.settings.period.get i)) =
      workVisit i (n.visit a) u from nextVisit_first hn he, sendBetween_busy busy]
    exact sent

/-- A cycle that lists no node is complete at once, and what is queued is sent (R67, R69). -/
theorem due.listsNone (h : due i w) (hl : w.visitList i (w.line i).phaseNext = []) :
    ∃ u, u = completeCycle i (w.cycleOpens i) ∧
      standsAs i { (w.line i).begun (w.line i).phaseNext (w.settings.period.get i) with cycle := none } w u ∧
      sentNext i u (proceed i w) := by
  have line := completeCycle_line i (w.cycleOpens i)
  rw [cycleOpens_line] at line
  have exch : ((completeCycle i (w.cycleOpens i)).line i).exch = none := by rw [line]; exact h.exch
  have cycle : ((completeCycle i (w.cycleOpens i)).line i).cycle = none := by rw [line]
  refine ⟨_, rfl, ⟨by rw [line], fun j hj => ?_, completeCycle_nodes _ _, rfl, ?_⟩, ?_⟩
  · exact (completeCycle_other _ hj).trans (State.line_modLine_other _ _ hj)
  · exact ((alters.refl _ _ _ _).modLine i _).completeCycle i
  · rw [proceed_begins h.running h.exch h.draining h.cycle h.period, hl,
      show nextVisit i [] (w.modLine i fun l => l.begun (w.line i).phaseNext (w.settings.period.get i)) =
        completeCycle i (w.cycleOpens i) from rfl, sendBetween_free exch cycle]
    exact sendOldest_sent exch (.inr (by rw [cycle]; rfl))

/-- The step leaves the lines, the nodes, the journal and the LINE notice of `v` as they are. -/
structure keepsLines (v t : State) : Prop where
  lines : t.lines = v.lines
  nodes : t.nodes = v.nodes
  journal : t.journal = v.journal
  clock : t.clock = v.clock
  notice : ∀ n, v.link.notices.get .line = n → noticed .line n t

theorem keepsLines_reply (tag : List (Fin 10)) (lines : List RLine) (v : State) :
    keepsLines v (finish (placeReply tag lines v)) := by
  refine ⟨by simp, by simp, by simp, by simp, fun n hn => ?_⟩
  have g := finish_notice (placeReply tag lines v) (c := .line) (by simp)
  unfold Link.begunOr at g
  rw [show (placeReply tag lines v).link.notices.get .line = n from hn] at g
  exact g

/-- However a line whose next cycle is due resumes, it goes on so (R67 to R69). -/
theorem due.goesOn {t : State} {k : Nat} {y : Line} (h : due i w) (hk : keepsLines (proceed i w) t)
    (hy : resumes i w k y) : lineGoesOn i k y w t := by
  have atRest : ∀ {k}, completes i w k → k = 0 := fun hc => by
    rcases hc with ⟨-, hk⟩ | ⟨c, hc, -⟩
    · exact hk
    · rw [h.cycle] at hc; cases hc
  cases hy with
  | visiting rest v n hc => rw [h.cycle] at hc; cases hc
  | nextVisit c skipped more a n hc => rw [h.cycle] at hc; cases hc
  | between k hc hp => rw [h.period] at hp; cases hp
  | begins k p a more n hc hp hphase hl hn he =>
    obtain rfl := atRest hc
    subst hphase
    obtain ⟨u, stands, opens, sent, cond, report, count⟩ := h.begins hl hn he
    obtain ⟨others, line, nodes⟩ := stands.hasSent sent hk.lines hk.nodes
    have tline : t.line i = (proceed i w).line i := State.line_congr hk.lines i
    have condT : (t.line i).cond = (w.line i).cond := by rw [tline, sent.line]; exact cond
    have reportT : (t.line i).report = (w.line i).report := by rw [tline, sent.line]; exact report
    have countT : (t.line i).count = (w.line i).count := by rw [tline, sent.line]; exact count
    have journal : t.journal = w.journal := by
      rw [hk.journal, show (proceed i w).journal = u.journal from sent.onLine.altered.rest .journal (by simp)]
      exact opens.rest .journal (by simp)
    refine ⟨others, ?_, nodes, fun hlt => absurd hlt (Nat.lt_irrefl 0), fun _ => ⟨journal, condT, reportT, ?_⟩⟩
    · rw [line]; simp only [countT]; rfl
    · refine hk.notice _ ?_
      rw [sent.onLine.altered.link.notices .line (by simp), opens.link.notices .line (by simp)]
      rfl
  | listsNone k p hc hp hphase hl =>
    obtain rfl := atRest hc
    subst hphase
    obtain ⟨u, rfl, stands, sent⟩ := h.listsNone hl
    obtain ⟨others, line, nodes⟩ := stands.hasSent sent hk.lines hk.nodes
    have nothing : t.nodes = w.nodes := by
      rw [nodes]
      unfold State.sends
      dsimp only [Option.bind_none]
      cases (((w.line i).begun (w.line i).phaseNext (w.settings.period.get i)).queue) <;> rfl
    have tline : (t.line i) = (proceed i w).line i := State.line_congr hk.lines i
    have complete := completeCycle_line i (w.cycleOpens i)
    have condT : (t.line i).cond = w.condOf i := by rw [tline, sent.line]; rw [complete]; rfl
    have reportT : (t.line i).report = w.reportOf i := by rw [tline, sent.line]; rw [complete]; rfl
    have countT : (t.line i).count = satSucc max32 (w.line i).count := by
      rw [tline, sent.line]; rw [complete, cycleOpens_line]; rfl
    have change : (w.cycleOpens i).condChange i = w.condChange i := by
      unfold State.condChange
      rw [cycleOpens_line]; rfl
    refine ⟨others, ?_, nodes, fun _ => ⟨w.condChange i, ⟨?_, ?_, ?_, ?_, ?_⟩⟩, fun h => absurd h (Nat.succ_ne_zero _)⟩
    · rw [line]; simp only [countT]; rfl
    · rw [condT, countedOn_congr nothing]; exact condOf_is w i
    · rw [condT, reportT, countedOn_congr nothing]; exact reportOf_is w i
    · rw [condT]; rfl
    · refine journaled_all (w := w.cycleOpens i) ?_ rfl ?_
      · rw [hk.journal, show (proceed i w).journal = _ from sent.onLine.altered.rest .journal (by simp),
          completeCycle_journal, change]
      · rw [hk.clock, show (proceed i w).clock = _ from sent.onLine.altered.rest .clock (by simp),
          stands.altered.rest .clock (by simp)]; rfl
    · refine hk.notice _ ?_
      rw [sent.onLine.altered.link.notices .line (by simp), completeCycle_notice, change]
      rfl

end

end Sys2Proof.Machine
/-! ## LINE ENABLE, LINE DISABLE and LINE RESET (R65, R72, R83 to R85) -/

namespace Sys2Proof.Machine

set_option Elab.async false

/-! ### Records offered while the lines and the nodes stand otherwise -/

/-- The state with these lines and nodes. -/
def State.wired (s : State) (lines : PerLine Line) (nodes : FMap Node) : State := { s with lines := lines, nodes := nodes }

section
variable {s : State} {lines : PerLine Line} {nodes : FMap Node}

theorem acceptRec_wired (b : JBody) (s : State) : acceptRec b (s.wired lines nodes) = (acceptRec b s).wired lines nodes := by
  unfold acceptRec
  show (if s.journal.nextSeq = max32 then _ else _) = _
  split <;> rfl

theorem acceptGap_wired (s : State) : acceptGap (s.wired lines nodes) = (acceptGap s).wired lines nodes :=
  acceptRec_wired _ (s.onJournal fun j => { j with dropAdm := 0, dropOther := 0 })

theorem offer_wired (b : JBody) (s : State) : offer b (s.wired lines nodes) = (offer b s).wired lines nodes := by
  unfold offer
  rw [acceptGap_wired, acceptRec_wired, acceptRec_wired]
  show (if s.journal.shut = true then _ else if s.journal.owed = true then
    if s.journal.staging.length ≤ 54 then if (acceptGap s).journal.shut = true then _ else _ else _
    else if s.journal.staging.length ≤ 55 then _ else _) = _
  split
  · rfl
  · split
    · split
      · split <;> rfl
      · rfl
    · split <;> rfl

theorem offerAll_wired (l : List JBody) (s : State) : l.foldl (fun x b => offer b x) (s.wired lines nodes) =
    (l.foldl (fun x b => offer b x) s).wired lines nodes := by
  induction l generalizing s with
  | nil => rfl
  | cons b l ih => rw [List.foldl_cons, offer_wired, ih]; rfl

theorem offerAll_lines (l : List JBody) (s : State) : (l.foldl (fun x b => offer b x) s).lines = s.lines := by
  induction l generalizing s with
  | nil => rfl
  | cons b l ih => rw [List.foldl_cons, ih]; simp

theorem offerAll_nodes (l : List JBody) (s : State) : (l.foldl (fun x b => offer b x) s).nodes = s.nodes := by
  induction l generalizing s with
  | nil => rfl
  | cons b l ih => rw [List.foldl_cons, ih]; simp

/-- The records of these orders lost on a line (R71). -/
def lostRecords (i : LineId) (c : LostCause) (l : List Order) : List JBody :=
  (l.filter fun o => decide (o.cls = .decision)).map fun o =>
    ⟨.orderLost, some (i, o.target.getD 0), none, none, .lostCause c, .order o.kind, .none⟩

theorem journalLost_eq (i : LineId) (c : LostCause) (l : List Order) (s : State) :
    journalLost i c l s = (lostRecords i c l).foldl (fun x b => offer b x) s := by
  unfold journalLost lostRecords
  rw [List.foldl_map]
  rfl

end

/-! ### The line master and its nodes as they start and stop -/

section
variable {s : State} {l : LineId}

/-- The nodes of a line changed. -/
def nodesChanged (l : LineId) (f : Node → Node) (m : FMap Node) : FMap Node :=
  m.mapVals fun key n => if keyLine key = l then f n else n

theorem modNodesOn_wired (f : Node → Node) (s : State) : modNodesOn l f s = s.wired s.lines (nodesChanged l f s.nodes) := rfl

theorem nodesChanged_node {i : LineId} {a : Nat} (f : Node → Node) (ha : a ≤ 120) (s : State) {t : State}
    (h : t.nodes = nodesChanged l f s.nodes) : t.node i a = (s.node i a).map fun n => if i = l then f n else n := by
  unfold State.node nodesChanged at *
  rw [h, FMap.get_mapVals, keyLine_nodeKey i ha]

/-- A line master and its nodes DISABLED (R84). -/
theorem stopLine_eq (l : LineId) (s : State) : stopLine l s =
    ((lostRecords l .disabled (s.line l).queue).foldl (fun x b => offer b x) s).wired
      (s.lines.set l { s.line l with running := false, exch := none, cycle := none, queue := [] })
      (nodesChanged l Node.lineStops s.nodes) := by
  unfold stopLine
  rw [journalLost_eq]
  show State.modLine (modNodesOn l Node.lineStops ((lostRecords l .disabled (s.line l).queue).foldl (fun x b => offer b x)
    (s.wired (s.lines.set l { s.line l with exch := none, cycle := none, queue := [] }) s.nodes))) l _ = _
  rw [offerAll_wired]
  unfold State.modLine State.onLines modNodesOn State.onNodes State.wired nodesChanged
  congr 1
  refine PerLine.ext_get fun j => ?_
  by_cases hj : j = l
  · simp only [PerLine.get_set, hj, if_true]
  · simp only [PerLine.get_set, hj, if_false]

/-- The queue of a line as it starts or resets (R72). -/
def State.firstOrders (s : State) : List Order :=
  if s.clock.valid = .invalid then [⟨.standalone, .other, none, 0⟩] else []

/-- A node of a line as it starts. -/
def startsAs (n : Node) : Node := { n with link := { n.link with
  state := if n.entry.enabled = true then .unknown else .disabled
  miss := if n.entry.enabled = true then 0 else n.link.miss
  modeOwed := false, groupOwed := false } }

theorem Node.lineStarts_eq : Node.lineStarts = startsAs := by
  funext n
  unfold Node.lineStarts startsAs
  split <;> rfl

/-- The state from which a line goes on as it starts or resets: it stands as `x` but for its queue. -/
def startsFrom (l : LineId) (x : Line) (s : State) : State :=
  s.wired (s.lines.set l { x with queue := s.firstOrders }) (nodesChanged l startsAs s.nodes)

theorem placeStandalone_starts {x : Line} (hr : x.running = true) (hq : x.queue = []) :
    placeStandalone l (modNodesOn l Node.lineStarts (s.modLine l fun _ => x)) = startsFrom l x s := by
  have line : (modNodesOn l Node.lineStarts (s.modLine l fun _ => x)).line l = x :=
    State.line_modLine_self s l fun _ => x
  rw [Node.lineStarts_eq] at *
  unfold placeStandalone startsFrom State.firstOrders
  show (if s.clock.valid = .invalid then _ else _) = _
  split
  · unfold placeOrder
    rw [line, if_pos (by simp [Line.places, hr, hq]; decide)]
    unfold State.modLine State.onLines modNodesOn State.onNodes State.wired nodesChanged
    congr 1
    refine PerLine.ext_get fun j => ?_
    by_cases hj : j = l
    · simp only [PerLine.get_set, hj, if_true, hq, List.nil_append]
    · simp only [PerLine.get_set, hj, if_false]
  · rw [← hq]; rfl

/-- How a line starts or resets (R65, R85): the lost orders are journaled, and then it goes on from the state in which it
stands as `x`. -/
def restarted (l : LineId) (x : Line) (lost : List JBody) (s : State) : State :=
  lost.foldl (fun y b => offer b y) (startsFrom l x s)

theorem startLine_eq (l : LineId) (s : State) : startLine l s =
    proceed l (restarted l { Line.start with running := true, tag := (s.line l).tag } [] s) := by
  unfold startLine restarted
  rw [List.foldl_nil, ← placeStandalone_starts rfl rfl]
  rfl

theorem resetLine_eq (hr : (s.line l).running = true) : resetLine l s =
    proceed l (restarted l { s.line l with exch := none, cycle := none, queue := [], restart := true, periodEnd := none }
      (lostRecords l .reset (s.line l).queue) s) := by
  let y : Line := { s.line l with exch := none, cycle := none, queue := [], restart := true, periodEnd := none }
  let v := (lostRecords l .reset (s.line l).queue).foldl (fun x b => offer b x) s
  have first : journalLost l .reset (s.line l).queue (s.modLine l fun l =>
      { l with exch := none, cycle := none, queue := [], restart := true, periodEnd := none }) = v.modLine l fun _ => y := by
    rw [journalLost_eq]
    show ((lostRecords l .reset (s.line l).queue).foldl (fun x b => offer b x) (s.wired (s.lines.set l y) s.nodes)) = _
    rw [offerAll_wired]
    unfold State.modLine State.onLines State.wired
    rw [show v.lines = s.lines from offerAll_lines _ _, ← show v.nodes = s.nodes from offerAll_nodes _ _]
  have orders : v.firstOrders = s.firstOrders := by
    unfold State.firstOrders; rw [show v.clock = s.clock from offerAll_clock _ _]
  unfold resetLine restarted
  dsimp only
  rw [first, placeStandalone_starts (x := y) hr rfl]
  unfold startsFrom
  rw [offerAll_wired, show v.lines = s.lines from offerAll_lines _ _, show v.nodes = s.nodes from offerAll_nodes _ _, orders]

end

/-! ### The requests -/

section
variable {h : ReqHead} {s : State} {l : LineId}

theorem restarted_line (l : LineId) (x : Line) (lost : List JBody) (s : State) :
    (restarted l x lost s).line l = { x with queue := s.firstOrders } :=
  (State.line_congr (offerAll_lines _ _) l).trans (PerLine.get_set_self _ _ _)

theorem restarted_other {i : LineId} (x : Line) (lost : List JBody) (s : State) (hi : i ≠ l) :
    (restarted l x lost s).line i = s.line i :=
  (State.line_congr (offerAll_lines _ _) i).trans (PerLine.get_set_other _ _ hi)

theorem restarted_nodes (l : LineId) (x : Line) (lost : List JBody) (s : State) :
    (restarted l x lost s).nodes = nodesChanged l startsAs s.nodes := offerAll_nodes _ _

theorem alters_restarted (l : LineId) (x : Line) (lost : List JBody) (s : State) :
    alters [] [.nodes, .lines, .journal] [.journal] s (restarted l x lost s) :=
  alters.offerAll (((alters.refl _ _ _ _).onLines fun _ => s.lines.set l { x with queue := s.firstOrders }).onNodes
    fun m => nodesChanged l startsAs m) lost

/-- A request that starts or resets a line, and how it comes to go on. -/
structure starts (h : ReqHead) (l : LineId) (c : Instr) (lines : List RLine) (x : Line) (lost : List JBody) (s : State) :
    Prop where
  run : exec c s = .next (finish (placeReply h.tag lines (proceed l (restarted l x lost s))))
  running : x.running = true
  restart : x.restart = true
  due : due l (restarted l x lost s)

theorem starts.answers {c : Instr} {lines : List RLine} {x : Line} {lost : List JBody} (g : starts h l c lines x lost s) :
    answersOnly h lines [] [.nodes, .lines, .journal] [.journal, .line] s
      (finish (placeReply h.tag lines (proceed l (restarted l x lost s)))) :=
  (((alters_restarted l x lost s).mono (by simp) (by simp) (by simp)).trans g.due.altered).answersOnly h lines

theorem due_restarted {x : Line} (lost : List JBody) (a : accepts h s) (hr : x.running = true) (hx : x.exch = none)
    (hc : x.cycle = none) (hp : x.periodEnd = none) : due l (restarted l x lost s) := by
  have line := restarted_line l x lost s
  have power : (restarted l x lost s).power = s.power := (alters_restarted l x lost s).rest .power (by simp)
  refine ⟨by rw [line]; exact hr, by rw [line]; exact hx, ?_, by rw [line]; exact hc, by rw [line]; exact hp⟩
  unfold State.draining
  rw [power]
  exact a.2.1

theorem lineEnable_starts (a : accepts h s) (hi : s.store.identity.isSome = true) (hr : (s.line l).running = false) :
    starts h l (.lineEnable h (.given (lineNum l))) [.lineState true]
      { Line.start with running := true, tag := (s.line l).tag } [] s := by
  obtain ⟨i, hi⟩ := Option.isSome_iff_exists.1 hi
  refine ⟨?_, rfl, rfl, due_restarted _ a rfl rfl rfl rfl⟩
  rw [← startLine_eq]
  refine desk_reply a (u := startLine l s) (lines := [.lineState true]) ?_
  simp [badLine_lineNum, namedLine_lineNum, hi, hr]

theorem lineReset_starts (a : accepts h s) (hr : (s.line l).running = true) :
    starts h l (.lineReset h (.given (lineNum l))) [.lineReset (s.line l).queue.length (s.line l).decisions]
      { s.line l with exch := none, cycle := none, queue := [], restart := true, periodEnd := none }
      (lostRecords l .reset (s.line l).queue) s := by
  refine ⟨?_, hr, rfl, due_restarted _ a hr rfl rfl rfl⟩
  rw [← resetLine_eq hr]
  refine desk_reply a (u := resetLine l s)
    (lines := [.lineReset (s.line l).queue.length (s.line l).decisions]) ?_
  simp [badLine_lineNum, namedLine_lineNum, hr]

/-! ### The first visit -/

/-- The first of a sorted list is the one element of least key. -/
theorem sorted_head {α : Type} {key : α → Nat} {e : α} {m : List α} (hs : m.Pairwise fun a b => key a ≤ key b)
    (he : e ∈ m) (hl : ∀ y ∈ m, y ≠ e → key e < key y) : ∃ t, m = e :: t := by
  cases m with
  | nil => cases he
  | cons y t =>
    by_cases h : y = e
    · exact ⟨t, by rw [h]⟩
    · have first := hl y List.mem_cons_self h
      have mem : e ∈ t := (List.mem_cons.1 he).resolve_left fun g => h g.symm
      have := List.rel_of_pairwise_cons hs mem
      omega

/-- The visit list of a line that starts begins with the enabled node of lowest position (R67). -/
theorem visitList_starts {a : Nat} {n : Node} {w : State} {p : Nat} (hw : w.nodes = nodesChanged l startsAs s.nodes)
    (hn : s.node l a = some n) (he : n.entry.enabled = true) (ha : a ≤ 120) (hwf : s.nodes.wf)
    (hlow : ∀ e ∈ s.nodes, keyLine e.1 = l → e.2.entry.enabled = true → e.1 ≠ nodeKey l a → n.entry.pos < e.2.entry.pos) :
    ∃ more, w.visitList l p = a :: more := by
  have mem : ∀ e : Nat × Node, e ∈ w.nodesOn l ↔ ∃ k m, (k, m) ∈ s.nodes ∧ keyLine k = l ∧ e = (keyAddr k, startsAs m) := by
    intro e
    simp only [State.nodesOn, hw, nodesChanged, FMap.mapVals, List.mem_map, List.mem_filter, decide_eq_true_eq]
    constructor
    · rintro ⟨_, ⟨⟨⟨k, m⟩, hm, rfl⟩, hk⟩, rfl⟩
      exact ⟨k, m, hm, hk, by rw [if_pos hk]⟩
    · rintro ⟨k, m, hm, hk, rfl⟩
      exact ⟨(k, startsAs m), ⟨⟨(k, m), hm, by rw [if_pos hk]⟩, hk⟩, rfl⟩
  have here : (nodeKey l a, n) ∈ s.nodes := FMap.mem_of_get hn
  have least : ∀ k m, (k, m) ∈ s.nodes → keyLine k = l → m.entry.enabled = true → (keyAddr k, startsAs m) ≠ (a, startsAs n) →
      n.entry.pos < m.entry.pos := by
    intro k m hm hk hen hne
    by_cases hkey : k = nodeKey l a
    · subst hkey
      obtain rfl : m = n := Option.some.inj ((FMap.get_of_mem hwf hm).symm.trans (FMap.get_of_mem hwf here))
      rw [keyAddr_nodeKey l ha] at hne
      exact absurd rfl hne
    · exact hlow (k, m) hm hk hen hkey
  have listed : (a, startsAs n) ∈ (w.nodesOn l).filter fun e => e.2.entry.enabled && e.2.link.listed p := by
    refine List.mem_filter.2 ⟨(mem _).2 ⟨_, n, here, keyLine_nodeKey l ha, by rw [keyAddr_nodeKey l ha]⟩, ?_⟩
    simp [startsAs, he, NodeLink.listed]
  obtain ⟨t, ht⟩ := sorted_head (key := fun e : Nat × Node => e.2.entry.pos) (sortBy_sorted _ _)
    ((mem_sortBy (fun e : Nat × Node => e.2.entry.pos) _ _).2 listed) fun y hy hne => by
      obtain ⟨hy, hl⟩ := List.mem_filter.1 ((mem_sortBy _ _ _).1 hy)
      obtain ⟨k, m, hm, hk, rfl⟩ := (mem y).1 hy
      exact least k m hm hk (Bool.and_eq_true_iff.1 hl).1 hne
  exact ⟨t.map Prod.fst, by unfold State.visitList; rw [ht]; rfl⟩

/-- What the first visit of a line that starts sends: the STANDALONE broadcast while the clock is INVALID, and otherwise
the poll of its node, which is owed no order (R65, R72, R73). -/
theorem firstVisit_sends {w : State} {x : Line} {a : Nat} {more : List Nat} {n : Node} (hx : x.queue = s.firstOrders)
    (hc : x.cycle = some ⟨more, some (n.visit a)⟩) (hn : w.node l a = some n) (hm : n.link.modeOwed = false)
    (hg : n.link.groupOwed = false) : w.sends l x = if s.clock.valid = .invalid
      then .order ⟨.standalone, .other, none, 0⟩ else .poll (n.visit a) n := by
  unfold State.firstOrders at hx
  by_cases h : s.clock.valid = .invalid
  · rw [if_pos h] at hx ⊢
    unfold State.sends
    rw [hx]
  · rw [if_neg h] at hx ⊢
    rw [State.sends_visit hx (by rw [hc]; rfl) hn, if_neg (by simp [Node.visit, hm]), if_neg (by simp [Node.visit, hg])]

theorem firstVisit {c : Instr} {lines : List RLine} {x : Line} {lost : List JBody} {a0 : Nat} {n0 : Node}
    (g : starts h l c lines x lost s) (hn : s.node l a0 = some n0) (he : n0.entry.enabled = true) (ha : a0 ≤ 120)
    (hlow : ∀ e ∈ s.nodes, keyLine e.1 = l → e.2.entry.enabled = true → e.1 ≠ nodeKey l a0 → n0.entry.pos < e.2.entry.pos)
    (hwf : s.nodes.wf) :
    ∃ t, exec c s = .next t ∧ (t.line l).running = true ∧ (t.line l).phase = 1 ∧
      (t.line l).periodEnd = some (s.settings.period.get l) ∧
      (t.line l).queue = (if s.clock.valid = .invalid then [⟨.standalone, .other, none, 0⟩] else []) ∧
      (t.line l).exch.map Exchange.kind = some (if s.clock.valid = .invalid
        then .broadcast ⟨.standalone, .other, none, 0⟩ else .poll false) ∧
      (s.clock.valid = .valid → (t.line l).exch.map Exchange.addr = some a0) ∧
      (t.line l).cycle.map (fun y => y.visit.map Visit.addr) = some (some a0) ∧
      (∀ i, i ≠ l → t.line i = s.line i) ∧
      (∀ i a, a ≤ 120 → t.node i a = (s.node i a).map fun n => if i = l then startsAs n else n) ∧
      journaled lost s t ∧ answersOnly h lines [] [.nodes, .lines, .journal] [.journal] s t := by
  let w := restarted l x lost s
  have line : w.line l = { x with queue := s.firstOrders } := restarted_line l x lost s
  have phase : (w.line l).phaseNext = 1 := by rw [line]; simp [Line.phaseNext, g.restart]
  have kept := alters_restarted l x lost s
  have settings : w.settings = s.settings := kept.rest .settings (by simp)
  obtain ⟨more, hl⟩ := visitList_starts (p := (w.line l).phaseNext) (restarted_nodes l x lost s) hn he ha hwf hlow
  have node : w.node l a0 = some (startsAs n0) := by
    rw [nodesChanged_node startsAs ha s (restarted_nodes l x lost s), hn]; simp
  obtain ⟨u, stands, opens, sent, -⟩ := g.due.begins hl node he
  have sends := firstVisit_sends (s := s) (w := w) (x := { (w.line l).begun (w.line l).phaseNext (w.settings.period.get l) with
    cycle := some ⟨more, some ((startsAs n0).visit a0)⟩ }) (by rw [line]; rfl) rfl node rfl rfl
  let t := finish (placeReply h.tag lines (proceed l w))
  obtain ⟨others, tline, nodes⟩ := stands.hasSent (t := t) sent (by simp [t, w]) (by simp [t, w])
  have nodesT : t.nodes = nodesChanged l startsAs s.nodes := by
    rw [nodes, sends, ← restarted_nodes l x lost s]
    split <;> rfl
  have journal : t.journal = w.journal := by
    show (finish (placeReply h.tag lines (proceed l w))).journal = _
    rw [show (finish (placeReply h.tag lines (proceed l w))).journal = (proceed l w).journal by simp,
      show (proceed l w).journal = u.journal from sent.onLine.altered.rest .journal (by simp),
      opens.rest .journal (by simp)]
  have all := (kept.trans (opens.mono (by simp) (by simp) (by simp))).sendsOn sent.onLine
  refine ⟨t, g.run, ?_, ?_, ?_, ?_, ?_, fun hv => ?_, ?_, fun i hi => ?_, fun i a hi => ?_, ?_, all.answersOnly h lines⟩
  · rw [tline]; show (w.line l).running = true; rw [line]; exact g.running
  · rw [tline]; exact phase
  · rw [tline, ← settings]; rfl
  · rw [tline]; show (w.line l).queue = _; rw [line]; rfl
  · rw [tline, sends]; split <;> rfl
  · rw [tline, sends, if_neg (by simp [hv])]; rfl
  · rw [tline, sends]; split <;> rfl
  · rw [others i hi]; exact restarted_other x lost s hi
  · exact nodesChanged_node startsAs hi s nodesT
  · refine journaled_all (w := startsFrom l x s) journal rfl ?_
    exact (all.rest .clock (by simp)).symm.trans (by simp [t, w])

/-- Settles O32: `stopLine_eq` for a line that stops, and `starts` for one that starts or resets, with its first visit
(`firstVisit`). -/
theorem linesAreEnabledDisabledAndReset : Obligations.LinesAreEnabledDisabledAndReset := by
  intro h s l a
  have named := And.intro (badLine_lineNum l) (namedLine_lineNum l)
  refine ⟨fun hi hr => ?_, fun hr => ?_, fun hr => ?_, fun c lost lines x w hcase hw => ?_,
    fun c lost a0 n0 lines hcase hn he h1 h2 hlow hwf hkeys => ?_⟩
  · obtain ⟨i, hi⟩ := Option.isSome_iff_exists.1 hi
    exact ⟨_, desk_reply a (u := s) (lines := [.lineState true]) (by simp [named, hi, hr]),
      (alters.refl _ _ _ _).answersOnly h _⟩
  · exact ⟨_, desk_reply a (u := s) (lines := [.lineState false]) (by simp [named, hr]),
      (alters.refl _ _ _ _).answersOnly h _⟩
  · let u := (lostRecords l .disabled (s.line l).queue).foldl (fun x b => offer b x) s
    let y : Line := { s.line l with running := false, exch := none, cycle := none, queue := [] }
    have altered : alters [] [.nodes, .lines, .journal] [.journal] s
        (u.wired (s.lines.set l y) (nodesChanged l Node.lineStops s.nodes)) :=
      (((alters.refl _ _ _ _).offerAll _).onLines fun _ => s.lines.set l y).onNodes fun _ =>
        nodesChanged l Node.lineStops s.nodes
    refine ⟨_, desk_reply a (u := u.wired (s.lines.set l y) (nodesChanged l Node.lineStops s.nodes))
      (lines := [.lineState false]) ?_, ?_, fun i hi => ?_, fun i b hb => ?_, ?_, altered.answersOnly h _⟩
    · rw [← stopLine_eq]; simp [named, hr]
    · rw [finish_line, placeReply_line]; exact PerLine.get_set_self _ _ _
    · rw [finish_line, placeReply_line]; exact PerLine.get_set_other _ _ hi
    · rw [finish_node, placeReply_node]; exact nodesChanged_node Node.lineStops hb s rfl
    · exact journaled_all (w := s) (by simp; rfl) rfl (by simp; exact (altered.rest .clock (by simp)).symm)
  · rcases hcase with ⟨rfl, rfl, hi, hr, rfl, rfl⟩ | ⟨rfl, rfl, hr, rfl, rfl⟩
    · have g := lineEnable_starts a hi hr
      subst hw
      exact ⟨_, g.run, fun k y hy => g.due.goesOn (keepsLines_reply _ _ _) hy, g.answers⟩
    · have g := lineReset_starts a hr
      subst hw
      exact ⟨_, g.run, fun k y hy => g.due.goesOn (keepsLines_reply _ _ _) hy, g.answers⟩
  · rcases hcase with ⟨rfl, rfl, hi, hr, rfl⟩ | ⟨rfl, rfl, hr, rfl⟩
    · exact firstVisit (lineEnable_starts a hi hr) hn he h2 hlow hwf
    · exact firstVisit (lineReset_starts a hr) hn he h2 hlow hwf

end

end Sys2Proof.Machine
/-! ## Orders placed on request: DOOR UNLOCK and the release states of groups (R103 to R105) -/

namespace Sys2Proof.Machine

set_option Elab.async false

/-! ### An order placed on a settled line -/

/-- A line master that is at work (R68): an exchange is outstanding, or it rests between cycles with nothing queued. -/
def Line.restsOrWaits (l : Line) : Prop :=
  l.exch.isSome = true ∨ (l.cycle = none ∧ l.periodEnd.isSome = true ∧ l.queue = [])

/-- The line once an order has been placed behind its queue and, where the line was at rest, sent. -/
def State.placing (s : State) (i : LineId) (o : Order) : Line :=
  if (s.line i).exch.isSome = true then { s.line i with queue := (s.line i).queue ++ [o] }
  else { s.line i with
    queue := (s.line i).queue ++ [o], exch := some (s.orderExchange i o)
    tag := if o.target.isSome = true then ((s.line i).tag + 1) % 256 else (s.line i).tag }

section
variable {s v : State} {i : LineId} {o : Order}

/-- A line goes on with an order placed behind its queue (R68): it sends the order at once where it was at rest. -/
theorem proceed_placed (hline : v.line i = { s.line i with queue := (s.line i).queue ++ [o] })
    (hr : (s.line i).running = true) (hd : v.draining = false) (hs : (s.line i).restsOrWaits) :
    onLine i v (proceed i v) ∧ (proceed i v).nodes = v.nodes ∧
      (v.orderExchange i o = s.orderExchange i o → (proceed i v).line i = s.placing i o) := by
  unfold State.placing
  cases hx : (s.line i).exch with
  | some x =>
    have busy : proceed i v = v := by
      unfold proceed
      rw [hline]
      simp [hx]
    rw [busy, if_pos (show (some x).isSome = true from rfl), hline]
    exact ⟨.refl i v, rfl, fun _ => rfl⟩
  | none =>
    obtain ⟨hc, hp, hq⟩ := hs.resolve_left (by simp [hx])
    have exch : (v.line i).exch = none := by rw [hline]; exact hx
    have cycle : (v.line i).cycle = none := by rw [hline]; exact hc
    have queue : (v.line i).queue = [o] := by rw [hline]; simp [hq]
    rw [proceed_between (by rw [hline]; exact hr) exch hd cycle (by rw [hline]; exact hp), if_neg (by simp)]
    have sent := sendOldest_sent exch (.inl (by simp [queue]))
    have order : v.sends i (v.line i) = .order o := by unfold State.sends; rw [queue]
    refine ⟨sent.onLine, by rw [sent.nodes, order]; rfl, fun same => ?_⟩
    rw [sent.line, order, cycle_having_order, show v.sentExchange i (v.line i) (.order o) = some (v.orderExchange i o) from rfl,
      same, hline]
    rfl

theorem places_other (hr : (s.line i).running = true) : (s.line i).places .other = decide ((s.line i).queue.length < 12) := by
  simp [Line.places, hr, Config.otherOrderPlaces]
  rfl

theorem placeOrder_line (hp : (s.line i).places o.cls = true) :
    (placeOrder i o s).line i = { s.line i with queue := (s.line i).queue ++ [o] } := by
  unfold placeOrder
  rw [if_pos hp]
  exact State.line_modLine_self _ _ _

theorem placeOrder_other {j : LineId} (hj : j ≠ i) : (placeOrder i o s).line j = s.line j := by
  unfold placeOrder
  split
  · exact State.line_modLine_other _ _ hj
  · rfl

theorem placeOrder_nodes : (placeOrder i o s).nodes = s.nodes := by
  unfold placeOrder; split <;> rfl

end

/-- Settles O31: the order is placed, the door's last release set and the record offered, and then the line goes on
(`proceed_placed`). -/
theorem doorUnlockTakesEffect : Obligations.DoorUnlockTakesEffect := by
  intro h s l a time arg n hacc h1 h2 harg hn hk hr hq hset htime
  let o : Order := ⟨.unlatch, .other, some a, time⟩
  let p := placeOrder l o s
  let v := offer (remoteBody (l, a) n time) (setRelease l a .remote p)
  have places : (s.line l).places .other = true := by rw [places_other hr]; simpa using hq
  have node : p.node l a = some n := (State.node_congr placeOrder_nodes l a).trans hn
  have nodesV : v.nodes = s.nodes.put (nodeKey l a) { n with door := { n.door with release := .remote } } := by
    show (offer _ (setRelease l a .remote p)).nodes = _
    rw [show (offer (remoteBody (l, a) n time) (setRelease l a .remote p)).nodes = (setRelease l a .remote p).nodes by simp,
      setRelease, State.modNode_eq node]
    exact congrArg (fun m => FMap.put m _ _) placeOrder_nodes
  have lineV : ∀ j, v.line j = p.line j := fun j => by
    show (offer _ (setRelease l a .remote p)).line j = _
    rw [offer_line, setRelease, State.line_modNode]
  have altered : alters [] [.nodes, .lines, .journal] [.journal] s v :=
    (((alters.refl _ _ _ _).placeOrder l o).modNode _ _ _).offer _
  have hd : v.draining = false := by
    unfold State.draining; rw [altered.rest .power (by simp)]; exact hacc.2.1
  obtain ⟨online, nodes, line⟩ := proceed_placed (s := s) (v := v) (i := l) (o := o) ((lineV l).trans (placeOrder_line places)) hr hd
    (hset l hr)
  have settings : v.settings = s.settings := altered.rest .settings (by simp)
  have tagV : (v.line l).tag = (s.line l).tag := by rw [lineV, placeOrder_line places]
  have nodeV : v.node l a = some { n with door := { n.door with release := .remote } } := by
    unfold State.node; rw [nodesV]; exact FMap.get_put_self _ _ _
  have exchange : ∀ w : State, w.settings = s.settings → (w.line l).tag = (s.line l).tag →
      (w.node l a).map Node.orderLeg = some n.orderLeg → w.orderExchange l o = ⟨.order o, n.link.state.firstLeg false, a, false,
        true, s.settings.timeout.get l,
        frameBytes a 2 (leBytes 1 (s.line l).tag ++ (leBytes 1 OrderKind.unlatch.code ++ leBytes 1 time)), false⟩ := by
    intro w hw ht hl
    unfold State.orderExchange
    dsimp only [o]
    rw [hl, hw, State.orderFrame, ht]
    simp [Node.orderLeg, LinkState.firstLeg]
  have lineT := line ((exchange v settings tagV (by rw [nodeV]; rfl)).trans
    (exchange s rfl rfl (by rw [hn]; rfl)).symm)
  have all := altered.sendsOn online
  refine ⟨_, desk_reply hacc (u := proceed l v) (lines := [.unlock time]) ?_, ?_⟩
  · simp only [badNode_eq_false l h1 h2, argMalformed_eq_false harg, namedLine_lineNum, argNat_given, hn, hk, hr, places, ← htime]
    rfl
  simp only [finish_line, placeReply_line, finish_node, placeReply_node]
  rw [lineT]
  refine ⟨?_, fun hx => ?_, ?_, fun hx => ?_, fun i hi => ?_, ?_, fun key hkey => ?_, ?_, all.answersOnly h _⟩
  · unfold State.placing; split <;> rfl
  · unfold State.placing; rw [if_pos hx]; exact ⟨rfl, rfl⟩
  · unfold State.placing; split <;> rfl
  · unfold State.placing
    rw [if_neg (by simp [hx]), exchange s rfl rfl (by rw [hn]; rfl)]
    exact ⟨rfl, rfl⟩
  · rw [online.others i hi, lineV, placeOrder_other hi]
  · exact (State.node_congr nodes l a).trans nodeV
  · rw [show (finish (placeReply h.tag [.unlock time] (proceed l v))).nodes = v.nodes by simp [nodes], nodesV,
      FMap.get_put_other _ _ hkey]
  · refine journaled_one (t := setRelease l a .remote p) ?_ ?_ ?_
    · rw [show (finish (placeReply h.tag [.unlock time] (proceed l v))).journal = (proceed l v).journal by simp]
      exact online.altered.rest .journal (by simp)
    · simp [setRelease, p]
    · simpa [setRelease, p] using (altered.rest .clock (by simp)).symm

/-! ### A group's order offered to every line -/

/-- A node whose group order is owed where it is enabled and of the group (R105). -/
def Node.owesGroup (g : Nat) (n : Node) : Node :=
  if n.entry.enabled && decide (n.entry.group = g) then { n with link := n.link.oweGroup } else n

/-- Whether a line takes the group's broadcast. -/
def Line.takes (l : Line) : Bool := l.running && decide (l.queue.length < 12)

/-- Whether its nodes are left owing the group's order instead. -/
def Line.owes (l : Line) : Bool := l.running && decide (12 ≤ l.queue.length)

/-- What a group's order does to a line. -/
def State.offered (s : State) (i : LineId) (o : Order) : Line := if (s.line i).takes then s.placing i o else s.line i

/-- How the group's order, offered to these lines, leaves lines, nodes and the tally of the reply. -/
structure groupOffered (g : Nat) (o : Order) (l : List LineId) (s : State) (c : GroupSent) (r : State × GroupSent) : Prop where
  lines : ∀ i ∈ l, r.1.line i = s.offered i o
  others : ∀ i, i ∉ l → r.1.line i = s.line i
  node : ∀ i a, a ≤ 120 → r.1.node i a = (s.node i a).map fun n =>
    if i ∈ l ∧ (s.line i).owes = true then n.owesGroup g else n
  altered : alters [] [.nodes, .lines] [] s r.1
  placed : r.2.placed = c.placed + (l.filter fun i => (s.line i).takes).length
  owed : r.2.owed = c.owed + (l.filter fun i => (s.line i).owes).length
  disabled : r.2.disabled = c.disabled + (l.filter fun i => !(s.line i).running).length

section
variable {s : State} {g : Nat} {o : Order} {i : LineId} {c : GroupSent}

/-- A broadcast's exchange depends on the settings alone. -/
theorem broadcast_exchange {v : State} (ho : o.target = none) (hs : v.settings = s.settings) :
    v.orderExchange i o = s.orderExchange i o := by
  unfold State.orderExchange; rw [ho, hs]

/-- A node changed under a condition that does not hold. -/
theorem node_unless {x : Option Node} {p : Prop} [Decidable p] {f : Node → Node} (h : ¬ p) :
    (x.map fun n => if p then f n else n) = x := by
  cases x with
  | none => rfl
  | some n => rw [Option.map_some, if_neg h]

/-- A settled line is settled once an order has been placed on it. -/
theorem offered_rests (h : (s.line i).restsOrWaits) : (s.offered i o).restsOrWaits := by
  unfold State.offered State.placing
  split
  · split
    · next hx => exact .inl hx
    · exact .inl rfl
  · exact h

theorem offered_running (s : State) (i : LineId) (o : Order) : (s.offered i o).running = (s.line i).running := by
  unfold State.offered State.placing
  split
  · split <;> rfl
  · rfl

/-- The group's order offered to one line (R105). -/
theorem sendGroup_offered (ho : o.target = none) (hc : o.cls = .other) (hd : s.draining = false)
    (hs : (s.line i).running = true → (s.line i).restsOrWaits) : groupOffered g o [i] s c (sendGroup g o (s, c) i) := by
  unfold sendGroup
  dsimp only
  cases hr : (s.line i).running with
  | false =>
    have takes : (s.line i).takes = false := by simp [Line.takes, hr]
    have owes : (s.line i).owes = false := by simp [Line.owes, hr]
    exact ⟨fun j hj => by rw [List.mem_singleton.1 hj, State.offered, takes]; rfl, fun _ _ => rfl,
      fun j a _ => (node_unless (by rintro ⟨hj, ho⟩; rw [List.mem_singleton.1 hj, owes] at ho; cases ho)).symm, alters.refl _ _ _ _, by simp [takes], by simp [owes],
      by simp [hr]⟩
  | true =>
    rw [if_neg (by simp)]
    by_cases hq : (s.line i).queue.length < 12
    · have takes : (s.line i).takes = true := by simp [Line.takes, hr, hq]
      have owes : (s.line i).owes = false := by simp [Line.owes, hq]
      have places : (s.line i).places .other = true := by rw [places_other hr]; simpa using hq
      rw [if_pos places]
      have draining : (placeOrder i o s).draining = false := by
        unfold State.draining
        rw [show (placeOrder i o s).power = s.power by simp]
        exact hd
      obtain ⟨online, nodes, line⟩ := proceed_placed (placeOrder_line (hc ▸ places)) hr draining (hs hr)
      have exchange := broadcast_exchange (s := s) (v := placeOrder i o s) (i := i) ho (by simp)
      refine ⟨fun j hj => ?_, fun j hj => ?_, fun j a _ => ?_, ?_, by simp [takes], by simp [owes], by simp [hr]⟩
      · obtain rfl := List.mem_singleton.1 hj
        rw [line exchange, State.offered, takes]; rfl
      · have hj : j ≠ i := by simpa using hj
        rw [online.others j hj, placeOrder_other hj]
      · rw [State.node_congr nodes, State.node_congr placeOrder_nodes]
        exact (node_unless (by rintro ⟨hj, ho⟩; rw [List.mem_singleton.1 hj, owes] at ho; cases ho)).symm
      · exact ((alters.refl _ _ _ _).placeOrder i o).sendsOn online
    · have takes : (s.line i).takes = false := by simp [Line.takes, hq]
      have owes : (s.line i).owes = true := by simp [Line.owes, hr, Nat.not_lt.1 hq]
      have places : (s.line i).places .other = false := by rw [places_other hr]; simpa using hq
      rw [if_neg (by simp [places])]
      refine ⟨fun j hj => ?_, fun _ _ => rfl, fun j a ha => ?_, (alters.refl _ _ _ _).onNodes _, by simp [takes],
        by simp [owes], by simp [hr]⟩
      · rw [List.mem_singleton.1 hj, State.offered, takes]; rfl
      · rw [nodesChanged_node (t := oweGroup i g s) (Node.owesGroup g) ha s rfl]
        cases s.node j a with
        | none => rfl
        | some n =>
          by_cases hj : j = i
          · simp [hj, owes]
          · simp [hj]

/-- The group's order offered to lines in turn. -/
theorem sendGroups_offered (l : List LineId) (hl : l.Nodup) (ho : o.target = none) (hc : o.cls = .other)
    (hd : s.draining = false) (hs : s.linesSettled) : groupOffered g o l s c (l.foldl (sendGroup g o) (s, c)) := by
  induction l generalizing s c with
  | nil =>
    exact ⟨nofun, fun _ _ => rfl, fun i a _ => (node_unless (by simp)).symm, alters.refl _ _ _ _, rfl, rfl, rfl⟩
  | cons i l ih =>
    obtain ⟨hi, hl⟩ := List.nodup_cons.1 hl
    have first : groupOffered g o [i] s c (sendGroup g o (s, c) i) := sendGroup_offered ho hc hd (hs i)
    generalize hx : sendGroup g o (s, c) i = x at first
    have same : ∀ j ∈ l, x.1.line j = s.line j := fun j hj => first.others j (by simp; exact fun e => hi (e ▸ hj))
    have settled : x.1.linesSettled := fun j hj => by
      by_cases hji : j = i
      · subst hji
        rw [first.lines j (by simp)] at hj ⊢
        exact offered_rests (hs j (offered_running s j o ▸ hj))
      · rw [first.others j (by simpa using hji)] at hj ⊢
        exact hs j hj
    have power : x.1.draining = false := by
      unfold State.draining; rw [first.altered.rest .power (by simp)]; exact hd
    have next := ih (s := x.1) (c := x.2) hl power settled
    have settings : x.1.settings = s.settings := first.altered.rest .settings (by simp)
    have fold : (i :: l).foldl (sendGroup g o) (s, c) = l.foldl (sendGroup g o) (x.1, x.2) := by rw [List.foldl_cons, hx]
    rw [fold]
    have counts : ∀ p : Line → Bool, (l.filter fun j => p (x.1.line j)) = l.filter fun j => p (s.line j) := fun p =>
      List.filter_congr fun j hj => by rw [same j hj]
    refine ⟨fun j hj => ?_, fun j hj => ?_, fun j a ha => ?_, first.altered.trans next.altered, ?_, ?_, ?_⟩
    · rcases List.mem_cons.1 hj with rfl | hj
      · rw [next.others j hi, first.lines j (by simp)]
      · rw [next.lines j hj]
        unfold State.offered State.placing
        rw [same j hj, broadcast_exchange ho settings]
    · rw [List.mem_cons, not_or] at hj
      rw [next.others j hj.2, first.others j (by simpa using hj.1)]
    · rw [next.node j a ha, first.node j a ha]
      cases s.node j a with
      | none => rfl
      | some n =>
        by_cases hji : j = i
        · subst hji; simp [hi]
        · by_cases hjl : j ∈ l
          · simp [hji, hjl, same j hjl]
          · simp [hji, hjl]
    · rw [next.placed, first.placed, counts Line.takes, Nat.add_assoc, ← List.length_append, ← List.filter_append]; rfl
    · rw [next.owed, first.owed, counts Line.owes, Nat.add_assoc, ← List.length_append, ← List.filter_append]; rfl
    · rw [next.disabled, first.disabled, counts fun y => !y.running, Nat.add_assoc, ← List.length_append,
        ← List.filter_append]; rfl

end

/-- Settles O24: the entry is set and queued, the order offered to every line (`sendGroups_offered`), and a change
journaled. -/
theorem groupStatesAreSet : Obligations.GroupStatesAreSet := by
  intro h s g asked c o hcase ho hacc hg hoff hro hq hset
  let s1 := enqueue (.group g) (s.onGroups fun m => putGroup m g ⟨false, asked⟩)
  have queued : alters [.group g] [.groups] [] s s1 := ((alters.refl _ _ _ _).onGroups _).enqueue _
  have group1 : ∀ j, s1.group j = if j = g then ⟨false, asked⟩ else s.group j := fun j => by
    simp [s1, State.group_putGroup]
  have order : (⟨s1.groupOrder g, .other, none, g⟩ : Order) = o := by
    rw [ho, State.groupOrder, group1, if_pos rfl]
  have draining : s1.draining = false := by
    unfold State.draining; rw [queued.rest .power (by simp)]; exact hacc.2.1
  have offered : groupOffered g o allLines s1 ⟨0, 0, 0⟩ (sendGroupOrder g s1) := by
    unfold sendGroupOrder
    rw [order]
    exact sendGroups_offered allLines (by decide) (by rw [ho]) (by rw [ho]) draining hset
  generalize hr : sendGroupOrder g s1 = r at offered
  let s2 := if (s.group g).release = asked then r.1 else offer (groupStateBody g asked (s.group g).release) r.1
  have all2 : alters [.group g] [.nodes, .groups, .lines, .journal] [.journal] s s2 := by
    have first : alters [.group g] [.nodes, .groups, .lines, .journal] [.journal] s r.1 :=
      (queued.mono (by simp) (by simp) (by simp)).trans (offered.altered.mono (by simp) (by simp) (by simp))
    show alters _ _ _ s (if _ then _ else _)
    split
    · exact first
    · exact first.offer _
  have keeps : s2.lines = r.1.lines ∧ s2.nodes = r.1.nodes ∧ s2.groups = r.1.groups ∧ s2.store = r.1.store := by
    simp only [s2]; split <;> simp
  obtain ⟨lines2, nodes2, groups2, store2⟩ := keeps
  have inAll : ∀ i : LineId, i ∈ allLines := fun i => by cases i <;> decide
  have line2 : ∀ i, s2.line i = s.offered i o := fun i => by
    rw [State.line_congr lines2, offered.lines i (inAll i)]
    unfold State.offered State.placing
    rw [broadcast_exchange (s := s) (v := s1) (by rw [ho]) (queued.rest .settings (by simp))]
    rfl
  have groups : ∀ j, s2.group j = if j = g then ⟨false, asked⟩ else s.group j := fun j => by
    rw [← group1]
    unfold State.group
    rw [groups2, show r.1.groups = s1.groups from offered.altered.rest .groups (by simp)]
  have tally : [RLine.groupState asked r.2.placed r.2.owed r.2.disabled] = [.groupState asked
      (allLines.filter fun i => (s.line i).running && decide ((s.line i).queue.length < 12)).length
      (allLines.filter fun i => (s.line i).running && decide (12 ≤ (s.line i).queue.length)).length
      (allLines.filter fun i => !(s.line i).running).length] := by
    rw [offered.placed, offered.owed, offered.disabled]
    simp only [Nat.zero_add]
    rfl
  have request : groupRequest h (.given g) asked s = .reply s2 [.groupState asked r.2.placed r.2.owed r.2.disabled] := by
    unfold groupRequest
    have common : ∀ k, common false h s k = k := fun k => by
      unfold Machine.common; rw [hacc.2.1, hacc.2.2]; rfl
    rw [common]
    refine (tableRequest_ok (by simp [badGroup, hg]) rfl (by simpa using hoff) hro (by simpa using hq)).trans ?_
    rw [show ({ s.group (argNat (.given g)) with release := asked } : GroupEntry) = ⟨false, asked⟩ by
      rw [argNat_given]; simp [hoff]]
    simp only [argNat_given, hr, s1] at *
    rfl
  have run : exec c s = .next (finish (placeReply h.tag [.groupState asked r.2.placed r.2.owed r.2.disabled] s2)) := by
    have taken : desk h.tag s (groupRequest h (.given g) asked s) =
        .next (finish (placeReply h.tag [.groupState asked r.2.placed r.2.owed r.2.disabled] s2)) := by
      rw [desk, if_pos hacc.1, request]; rfl
    rcases hcase with ⟨rfl, rfl⟩ | ⟨rfl, rfl⟩ | ⟨rfl, rfl⟩ <;> exact taken
  rw [tally] at run
  have takes : ∀ i, (s.line i).takes = true ↔ (s.line i).running = true ∧ (s.line i).queue.length < 12 := fun i => by
    simp [Line.takes]
  refine ⟨_, run, ?_, fun j hj => ?_, fun i hi hl => ?_, fun i hn => ?_, fun i => ?_, fun i a ha => ?_, ?_, ?_,
    all2.answersOnly h _⟩
  · simp [groups]
  · simp [groups, hj]
  · rw [finish_line, placeReply_line, line2, State.offered, (takes i).2 ⟨hi, hl⟩]
    unfold State.placing State.orderExchange
    cases hx : (s.line i).exch <;> simp [ho, hx]
  · rw [finish_line, placeReply_line, line2, State.offered, if_neg (by rw [takes]; exact hn)]
  · rw [finish_line, placeReply_line, line2]
    unfold State.offered State.placing
    split
    · split
      · rfl
      · rw [ho]; rfl
    · rfl
  · rw [finish_node, placeReply_node, State.node_congr nodes2, offered.node i a ha]
    refine Option.map_congr fun n _ => ?_
    have owes : (s1.line i).owes = true ↔ (s.line i).running = true ∧ 12 ≤ (s.line i).queue.length := by
      rw [show s1.line i = s.line i from rfl]
      simp [Line.owes]
    unfold Node.owesGroup
    by_cases hw : (s.line i).running = true ∧ 12 ≤ (s.line i).queue.length
    · rw [if_pos ⟨inAll i, owes.2 hw⟩]
      by_cases he : n.entry.enabled = true ∧ n.entry.group = g
      · rw [if_pos (by simpa using he), if_pos ⟨hw.1, hw.2, he.1, he.2⟩]; rfl
      · rw [if_neg (by simpa using he), if_neg fun x => he ⟨x.2.2.1, x.2.2.2⟩]
    · rw [if_neg fun x => hw (owes.1 x.2), if_neg fun x => hw ⟨x.1, x.2.1⟩]
  · have journal : r.1.journal = s.journal :=
      (offered.altered.rest .journal (by simp)).trans (queued.rest .journal (by simp))
    have clock : r.1.clock = s.clock := (offered.altered.rest .clock (by simp)).trans (queued.rest .clock (by simp))
    have clock2 : s2.clock = s.clock := all2.rest .clock (by simp)
    by_cases hsame : (s.group g).release = asked
    · rw [if_pos hsame]
      exact journaled_nil (by simp [s2, hsame, journal])
    · rw [if_neg hsame]
      exact journaled_one (t := r.1) (by simp [s2, hsame, groupStateBody]) journal (by simp [clock2, clock])
  · have placed1 : placed [.group g] s1 := placed_enqueue (canQueue_roomFor hq (by simp))
    refine placed_finish fun k hk => ?_
    obtain rfl := List.mem_singleton.1 hk
    have contents : s2.store.contents (.group g) = s1.store.contents (.group g) :=
      (congrArg (fun x => Store.contents x (.group g)) store2).trans (offered.altered.changes _ (by simp)).1
    refine (contents.trans (placed1 _ (by simp))).trans ?_
    have same : s2.group g = s1.group g := (groups g).trans (group1 g).symm
    simp [State.entryVal, same]

end Sys2Proof.Machine
/-! ## The part is commissioned (R155) -/

namespace Sys2Proof.Machine

set_option Elab.async false

/-! ### What moves the head of the table log -/

/-- The store with its head moved, or what the reclaimer and the table writer wait for changed, and nothing else. -/
def Store.moves (t u : Store) : Prop :=
  { u with head := t.head, work := t.work, held := t.held, stalled := t.stalled } = t

theorem Store.moves_trans {t u v : Store} (h : t.moves u) (g : u.moves v) : t.moves v := by
  unfold Store.moves at *
  rw [← h, ← g]

theorem stall_moves (s : State) : s.store.moves (stall s).store := by
  unfold stall; split <;> rfl

theorem countErased_moves (s : State) : s.store.moves (countErased s).store := by
  unfold countErased; split
  · rfl
  · split
    · rfl
    · exact stall_moves s

/-- What the head's move keeps: the head may stall, the writer may be held, and the erased sectors may be counted. -/
theorem moveLogHead_induct {P : State → Prop} {s : State} (copy : Bool) (h : P s) (stalls : P (stall s)) (holds : P (holdWriter s))
    (moves : ∀ u k, P u → P (countErased (u.onStore fun t => { t with head := k }))) : P (moveLogHead copy s) := by
  have held : P (if s.store.hasReclaim && !s.draining then holdWriter s else s) := by
    split
    · exact holds
    · exact h
  have takes : ∀ (u : State) (k : Nat), P u → P (if u.store.held && !copy then u else
      countErased (u.onStore fun t => { t with head := k })) := fun u k hu => by
    split
    · exact hu
    · exact moves u k hu
  unfold moveLogHead; split
  · exact h
  · split
    · exact stalls
    · exact takes _ _ held
    · exact moves _ _ h

theorem moveLogHead_moves (copy : Bool) (s : State) : s.store.moves (moveLogHead copy s).store :=
  moveLogHead_induct (P := fun u => s.store.moves u.store) copy rfl (stall_moves s) rfl fun u k h =>
    Store.moves_trans h (Store.moves_trans (u := (u.onStore fun t => { t with head := k }).store) rfl (countErased_moves _))

/-! ### The identity asked for -/

theorem keepsBut_mono {l l' : List Part} {s t : State} (hl : l ⊆ l') (h : keepsBut l s t) : keepsBut l' s t :=
  fun p hp => h p fun hm => hp (hl hm)

/-- The identity waits to be programmed, or the engine programs it in a place that was erased. -/
def Store.bringing (t : Store) (i : Identity) (u : Store) : Prop :=
  u.idRequest = some i ∨ ∃ p, u.engine = .programming (.identity p i) ∧ t.freeIdPlace = some p

section
variable {s : State} {i : Identity}

theorem tableRequest_identity {t : Store} {n : Nat} {x : Identity} (h : t.idRequest = some i)
    (hr : t.tableRequest = some (.identity n x)) : t.freeIdPlace = some n ∧ x = i := by
  have log : t.logRequest ≠ some (.identity n x) := by
    unfold Store.logRequest
    split
    · exact nofun
    · cases t.queue.head? <;> exact nofun
  unfold Store.tableRequest at hr
  cases hf : t.freeIdPlace with
  | none =>
    rw [h, hf] at hr
    cases hs : t.stalled <;> rw [hs] at hr
    · exact absurd hr log
    · cases hr
  | some m =>
    rw [h, hf] at hr
    cases hs : t.stalled <;> rw [hs] at hr <;> cases hr
    exact ⟨rfl, rfl⟩

theorem serve_bringing (r : Requester) (h : s.store.idRequest = some i) : s.store.bringing i (serve r s).store := by
  unfold serve
  cases r with
  | tableWriter =>
    dsimp only
    cases hr : s.store.tableRequest with
    | none => exact .inl h
    | some p =>
      cases p with
      | identity n id =>
        obtain ⟨free, rfl⟩ := tableRequest_identity h hr
        exact .inr ⟨n, rfl, free⟩
      | table | copy | journal =>
        have keeps : s.store.takeOldest.idRequest = s.store.idRequest := by
          unfold Store.takeOldest; split <;> rfl
        exact .inl (keeps.trans h)
  | journalWriter =>
    dsimp only
    cases s.journalRequest with
    | none => exact .inl h
    | some p => exact .inl h
  | reclaimer =>
    dsimp only
    cases s.store.reclaimRequest with
    | none => exact .inl h
    | some q =>
      cases q with
      | erase w => exact .inl h
      | copy c => exact .inl ((congrArg Store.idRequest (moveLogHead_moves true s) :).trans h)

/-- What ends a step takes the identity up, or leaves it to be taken up (R155, R157). -/
theorem finish_bringing (h : s.store.idRequest = some i) : s.store.bringing i (finish s).store := by
  have engine : s.store.bringing i (pumpEngine s).store := by
    unfold pumpEngine
    split
    · exact .inl h
    · split
      · exact .inl h
      · unfold orderSuspension; split <;> exact .inl h
      · split
        · exact serve_bringing _ h
        · unfold resume; split <;> exact .inl h
  rw [show (finish s).store = (pumpEngine s).store from (by unfold finish; simp)]
  exact engine

theorem freeIdPlace_some {t : Store} {p : Nat} (h : t.freeIdPlace = some p) : t.idPlaces[p]? = some .erased := by
  obtain ⟨hlt, he, -⟩ := List.findIdx?_eq_some_iff_getElem.1 h
  rw [List.getElem?_eq_getElem hlt, of_decide_eq_true he]

theorem freeIdPlace_none {t : Store} : t.freeIdPlace = none ↔ IdPlace.erased ∉ t.idPlaces := by
  unfold Store.freeIdPlace
  rw [List.findIdx?_eq_none_iff]
  exact ⟨fun h he => by simpa using h _ he, fun h x hx => decide_eq_false fun e => h (e ▸ hx)⟩

end

/-! ### Lines that start -/

/-- The other lines stand, and the line stays RUNNING, or DISABLED. -/
structure onlyLine (i : LineId) (s u : State) : Prop where
  others : ∀ j, j ≠ i → u.line j = s.line j
  running : (u.line i).running = (s.line i).running

namespace onlyLine

variable {i : LineId} {r s t : State}

theorem refl (s : State) : onlyLine i s s := ⟨fun _ _ => rfl, rfl⟩

theorem modLine (h : onlyLine i r s) {f : Line → Line} (hf : ∀ l, (f l).running = l.running := by exact fun _ => rfl) :
    onlyLine i r (s.modLine i f) :=
  ⟨fun j hj => (State.line_modLine_other _ f hj).trans (h.others j hj),
    (congrArg Line.running (State.line_modLine_self _ _ _)).trans ((hf _).trans h.running)⟩

theorem rest (h : onlyLine i r s) (hl : t.lines = s.lines := by simp) : onlyLine i r t :=
  ⟨fun j hj => (State.line_congr hl j).trans (h.others j hj), (congrArg Line.running (State.line_congr hl i)).trans h.running⟩

theorem modLink (h : onlyLine i r s) {a : Nat} {f : NodeLink → NodeLink} : onlyLine i r (modLink i a f s) :=
  ⟨fun j hj => (State.line_modNode _ _ _ _ _).trans (h.others j hj),
    (congrArg Line.running (State.line_modNode _ _ _ _ _)).trans h.running⟩

theorem sendFrame (h : onlyLine i r s) {k : ExchKind} {g : Leg} {a : Nat} {b : Bool} {f : List Byte} :
    onlyLine i r (sendFrame i k g a b f s) := h.modLine

theorem sendTagged (h : onlyLine i r s) {k : ExchKind} {g : Leg} {a : Nat} {b : Bool} {f : List Byte} :
    onlyLine i r (sendTagged i k g a b f s) := h.sendFrame.modLine

theorem sendOldest (h : onlyLine i r s) : onlyLine i r (sendOldest i s) := by
  unfold Machine.sendOldest; split
  · exact h
  · split
    · exact h.sendTagged
    · exact h.sendFrame

theorem workVisit (h : onlyLine i r s) {v : Visit} : onlyLine i r (workVisit i v s) := by
  unfold Machine.workVisit; split
  · exact h.sendOldest
  · split
    · exact h
    · split
      · exact h.modLine.sendTagged.modLink
      · split
        · exact h.modLine.sendTagged.modLink
        · exact h.sendFrame

theorem completeCycle (h : onlyLine i r s) : onlyLine i r (completeCycle i s) :=
  ⟨fun j hj => (completeCycle_other _ hj).trans (h.others j hj), by rw [completeCycle_line]; exact h.running⟩

theorem nextVisit (h : onlyLine i r s) {l : List Nat} : onlyLine i r (nextVisit i l s) := by
  unfold Machine.nextVisit; split
  · exact h.completeCycle
  · exact h.modLine.workVisit

theorem beginCycle (h : onlyLine i r s) : onlyLine i r (beginCycle i s) := by
  unfold Machine.beginCycle openCycle
  dsimp only; split
  · exact h.modLine.modLine
  · exact h.modLine.nextVisit

theorem sendBetween (h : onlyLine i r s) : onlyLine i r (sendBetween i s) := by
  unfold Machine.sendBetween; split
  · exact h.sendOldest
  · exact h

theorem betweenCycles (h : onlyLine i r s) : onlyLine i r (betweenCycles i s) := by
  unfold Machine.betweenCycles; split
  · exact h.beginCycle.sendBetween
  · exact h.sendBetween

theorem workCycle (h : onlyLine i r s) {c : Cycle} : onlyLine i r (workCycle i c s) := by
  unfold Machine.workCycle; split
  · split
    · exact h.nextVisit
    · exact h.workVisit
  · exact h.nextVisit

theorem proceed (h : onlyLine i r s) : onlyLine i r (proceed i s) := by
  unfold Machine.proceed; split
  · exact h
  · split
    · exact h.sendFrame
    · split
      · exact h.betweenCycles
      · exact h.workCycle.betweenCycles

end onlyLine

/-- What the start of lines changes (R65): each of them is RUNNING, a RUNNING one and the others stand. -/
structure linesStarted (l : List LineId) (s u : State) : Prop where
  running : ∀ i ∈ l, (u.line i).running = true
  stands : ∀ i, (i ∉ l ∨ (s.line i).running = true) → u.line i = s.line i
  altered : alters [] [.nodes, .lines, .journal] [.journal, .line] s u

section
variable {s : State} {i : LineId}

theorem startLine_starts (hd : s.draining = false) (hr : (s.line i).running = false) : linesStarted [i] s (startLine i s) := by
  let x : Line := { Line.start with running := true, tag := (s.line i).tag }
  have line := restarted_line i x [] s
  have kept := alters_restarted i x [] s
  have d : due i (restarted i x [] s) := ⟨by rw [line], by rw [line]; rfl, by
    unfold State.draining; rw [kept.rest .power (by simp)]; exact hd, by rw [line]; rfl, by rw [line]; rfl⟩
  have only := (onlyLine.refl (i := i) (restarted i x [] s)).proceed
  rw [startLine_eq]
  refine ⟨fun j hj => ?_, fun j hj => ?_, (kept.mono (by simp) (by simp) (by simp)).trans d.altered⟩
  · rw [List.mem_singleton.1 hj, only.running, line]
  · have hji : j ≠ i := by
      rintro rfl
      rcases hj with hj | hj
      · exact hj (by simp)
      · rw [hr] at hj; cases hj
    rw [only.others j hji]
    exact restarted_other x [] s hji

theorem startIfStopped_starts (hd : s.draining = false) : linesStarted [i] s (startIfStopped s i) := by
  unfold startIfStopped
  cases hr : (s.line i).running with
  | false => exact startLine_starts hd hr
  | true => exact ⟨fun j hj => by rw [List.mem_singleton.1 hj]; exact hr, fun _ _ => rfl, alters.refl _ _ _ _⟩

theorem startLines_starts (l : List LineId) (hd : s.draining = false) : linesStarted l s (l.foldl startIfStopped s) := by
  induction l generalizing s with
  | nil => exact ⟨nofun, fun _ _ => rfl, alters.refl _ _ _ _⟩
  | cons i l ih =>
    have first : linesStarted [i] s (startIfStopped s i) := startIfStopped_starts hd
    have next := ih (s := startIfStopped s i) (by
      unfold State.draining; rw [first.altered.rest .power (by simp)]; exact hd)
    have runs : ∀ j, ((startIfStopped s i).line j).running = true → ((l.foldl startIfStopped (startIfStopped s i)).line j) =
        (startIfStopped s i).line j := fun j hj => next.stands j (.inr hj)
    rw [List.foldl_cons]
    refine ⟨fun j hj => ?_, fun j hj => ?_, first.altered.trans next.altered⟩
    · rcases List.mem_cons.1 hj with rfl | hj
      · have := first.running j (by simp)
        rw [runs j this]; exact this
      · exact next.running j hj
    · have here : (startIfStopped s i).line j = s.line j := first.stands j (hj.imp_left fun h => by
        simpa using (not_or.1 (mt List.mem_cons.2 h)).1)
      refine (next.stands j ?_).trans here
      rcases hj with hj | hj
      · exact .inl (not_or.1 (mt List.mem_cons.2 hj)).2
      · exact .inr (by rw [here]; exact hj)

/-! ### The deferred request answered -/

/-- The deferred request is answered in the empty reply slot (R174). -/
theorem answerDeferred_replies {tag : List (Fin 10)} {x : Identity} (lines : List RLine)
    (hf : s.link.deferred = some (tag, x)) (hs : s.link.slot = none) (hd : s.link.deferredDone = none) :
    answerDeferred lines s = placeReply tag lines { s with link := { s.link with deferred := none } } := by
  unfold answerDeferred
  rw [hf]
  simp [State.onLink, hs, hd]

/-- What ends the step once the deferred request has been answered. -/
theorem deferred_answered {tag : List (Fin 10)} {x : Identity} (lines : List RLine)
    (hf : s.link.deferred = some (tag, x)) (hs : s.link.slot = none) (hd : s.link.deferredDone = none) :
    replied ⟨tag, false⟩ lines (finish (answerDeferred lines s)) ∧ (finish (answerDeferred lines s)).link.deferred = none ∧
      keepsCells s (finish (answerDeferred lines s)) ∧ keepsBut [.store, .link] s (finish (answerDeferred lines s)) := by
  rw [answerDeferred_replies lines hf hs hd]
  obtain ⟨reply, cells, -, link, -, rest⟩ :=
    (alters.refl [] [] [] { s with link := { s.link with deferred := none } }).answersOnly ⟨tag, false⟩ lines
  refine ⟨reply, link.deferred, ⟨cells.1, cells.2, cells.3, cells.4, cells.5, cells.6⟩, fun p hp => ?_⟩
  have := rest p hp
  cases p <;> first | exact this | exact absurd (by simp) hp

end

theorem exec_identityProgramComplete {s : State} {n : Nat} {i : Identity} (sound : Bool) (hr : s.power.state = .run)
    (he : s.store.engine = .programming (.identity n i)) : exec (.identityProgramComplete sound) s = done (if sound = true
      then commissioned i ((freeEngine s).onStore fun t => { t with idPlaces := t.idPlaces.set n (.written i) })
      else identityFailed n i (freeEngine s)) := by
  have works : s.working = true := by unfold State.working; rw [hr]
  show execIdentityProgramComplete sound s = _
  unfold execIdentityProgramComplete programCompletes
  rw [he, works]
  have draining : (freeEngine s).draining = false := by
    unfold State.draining; rw [show (freeEngine s).power = s.power from rfl, hr]; rfl
  dsimp only [identityCompletes]
  rw [draining]
  rfl

/-- Settles O34: `finish_bringing` for the request, `startLines_starts` for a sound program, and `deferred_answered`. -/
theorem thePartIsCommissioned : Obligations.ThePartIsCommissioned := by
  refine ⟨fun h s site seed name a hs1 hs2 hseed hne hlen hchars hdef hid hfree => ?_,
    fun s p i tag x hr he hp hdef hslot hdone => ?_, fun s p i tag x hr he hp hdef hslot hdone => ?_⟩
  · obtain ⟨p, hp⟩ := Option.isSome_iff_exists.1 hfree
    let i : Identity := ⟨site, seed, name⟩
    let u : State := { s with
      store := { s.store with idRequest := some i }, link := { s.link with deferred := some (h.tag, i) } }
    have slot : s.link.slot = none := by
      have := a.1
      simp only [State.takesRequest, Bool.and_eq_true, Option.isNone_iff_eq_none] at this
      exact this.1.2
    have run : exec (.commission h (.given site) (.given seed) (.given name)) s = .next (finish u) := by
      show desk h.tag s (reqCommission h (.given site) (.given seed) (.given name) s) = _
      have named : badName (.given name) = false := by
        simp only [badName, Bool.or_eq_false_iff]
        simp [hne, hlen]
        exact hchars
      have site' : badReq (.given site) 1 max32 = false := (badReq_given ..).2 ⟨hs1, hs2⟩
      have seed' : badReq (.given seed) 0 max32 = false := (badReq_given ..).2 ⟨Nat.zero_le _, hseed⟩
      unfold reqCommission common
      rw [a.2.1, a.2.2, named, site', seed', hdef, hid, hp, desk, if_pos a.1]
      rfl
    have same := (alters.refl [] [] [] u).changesOnly
    refine ⟨_, run, same.link.deferred, finish_slot_none slot, same.cells.identity.trans hid, ?_,
      ⟨same.cells.1, same.cells.2, same.cells.3, same.cells.4, same.cells.5, same.cells.6⟩, same.changes, fun q hq => ?_, ?_⟩
    · rcases finish_bringing (s := u) (i := i) rfl with h | ⟨q, h, -⟩
      · exact .inl h
      · exact .inr ⟨q, h⟩
    · have := same.rest q hq
      cases q <;> first | exact this | exact absurd (by simp) hq
    · have e := finish_ends u
      have t : (finish u).link.slot = s.link.slot := (finish_slot_none (s := u) slot).trans slot.symm
      have fields : ∀ l : Link, l.rate = s.link.rate → l.inbound = s.link.inbound → l.holdOut = s.link.holdOut →
          l.holdIn = s.link.holdIn → l.slot = s.link.slot → l.deferredDone = s.link.deferredDone → l.errors = s.link.errors →
          { l with tx := s.link.tx, notices := s.link.notices, deferred := s.link.deferred } = s.link := by
        rintro ⟨⟩ h1 h2 h3 h4 h5 h6 h7
        cases hl : s.link
        simp_all
      exact fields _ e.rate e.inbound e.holdOut e.holdIn t e.deferredDone e.errors
  · let u : State := { s with
      store := { s.store with engine := .idle, idPlaces := s.store.idPlaces.set p (.written i), identity := some i } }
    have started := startLines_starts allLines (s := u) (by unfold State.draining; rw [show u.power.state = .run from hr]; rfl)
    let v := allLines.foldl startIfStopped u
    have link := started.altered.link.rest
    obtain ⟨reply, deferred, cells, rest⟩ := deferred_answered (s := v) [.commissioned i.site i.name]
      ((congrArg Link.deferred link :).trans hdef) ((congrArg Link.slot link :).trans hslot)
      ((congrArg Link.deferredDone link :).trans hdone)
    have lines : ∀ l, (finish (answerDeferred [.commissioned i.site i.name] v)).line l = v.line l := fun l =>
      State.line_congr (rest .lines (by simp)) l
    refine ⟨_, (exec_identityProgramComplete true hr he).trans rfl, ?_, ?_, fun l => ?_, fun l hl => ?_, deferred, reply,
      fun q hq => ?_⟩
    · exact cells.identity.trans started.altered.cells.identity
    · exact cells.idPlaces.trans started.altered.cells.idPlaces
    · exact (congrArg Line.running (lines l)).trans (started.running l (by cases l <;> decide))
    · exact (lines l).trans (started.stands l (.inr hl))
    · have h1 := keepsBut_mono (l' := [.nodes, .lines, .journal, .store, .link]) (by simp) rest
      have h2 := keepsBut_mono (l' := [.nodes, .lines, .journal, .store, .link]) (by simp) started.altered.rest
      have h3 : keepsBut [.nodes, .lines, .journal, .store, .link] s u := fun q hq => by
        cases q <;> first | rfl | exact absurd (by simp) hq
      exact keepsBut_trans h3 (keepsBut_trans h2 h1) q hq
  · let u : State := { s with store := { s.store with engine := .idle, idPlaces := s.store.idPlaces.set p .spoiled } }
    have kept : keepsBut [.store, .link] s u := fun q hq => by cases q <;> first | rfl | exact absurd (by simp) hq
    have run : exec (.identityProgramComplete false) s = .next (finish (match u.store.freeIdPlace with
        | some _ => u.onStore fun t => { t with idRequest := some i }
        | none => answerDeferred [.err .store] u)) := (exec_identityProgramComplete false hr he).trans rfl
    rw [run]
    cases hf : u.store.freeIdPlace with
    | some q =>
      let v : State := u.onStore fun t => { t with idRequest := some i }
      have same := (alters.refl [] [] [] v).changesOnly
      have places : (finish v).store.idPlaces = s.store.idPlaces.set p .spoiled := same.cells.idPlaces
      have free : IdPlace.erased ∈ (finish v).store.idPlaces := by
        rw [places]; exact List.mem_of_getElem? (freeIdPlace_some hf)
      refine ⟨_, rfl, same.cells.identity, places, keepsBut_trans kept (keepsBut_trans (fun q hq => ?_) same.rest), ?_⟩
      · cases q <;> first | rfl | exact absurd (by simp) hq
      · rw [if_pos free]
        refine ⟨same.link.deferred, finish_slot_none hslot, (finish_bringing (s := v) (i := i) rfl).imp_right ?_⟩
        rintro ⟨q', hq', hfree⟩
        exact ⟨q', hq', by rw [places]; exact freeIdPlace_some hfree⟩
    | none =>
      obtain ⟨reply, deferred, cells, rest⟩ := deferred_answered (s := u) [.err .store] hdef hslot hdone
      have places : (finish (answerDeferred [.err .store] u)).store.idPlaces = s.store.idPlaces.set p .spoiled := cells.idPlaces
      refine ⟨_, rfl, cells.identity, places, keepsBut_trans kept rest, ?_⟩
      rw [if_neg (by rw [places]; exact freeIdPlace_none.1 hf)]
      exact ⟨deferred, reply⟩

end Sys2Proof.Machine
/-! ## The store's work goes on (R142, R158, R160) -/

namespace Sys2Proof.Machine

set_option Elab.async false

section
variable {s : State}

theorem finish_store (s : State) : (finish s).store = (pumpEngine s).store := by unfold finish; simp

theorem pumpEngine_programming {p : Program} (hw : s.working = true) (hp : s.store.engine = .programming p) :
    pumpEngine s = s := by
  unfold pumpEngine; rw [hw, hp]; rfl

theorem pumpEngine_erasing {e : EraseRun} (hw : s.working = true) (he : s.store.engine = .erasing e) :
    pumpEngine s = orderSuspension e s := by
  unfold pumpEngine; rw [hw, he]; rfl

theorem pumpEngine_idle (hw : s.working = true) (hi : s.store.engine = .idle) :
    pumpEngine s = match (rotation s.store.lastServed).find? s.waits with
      | some r => serve r s
      | none => resume s := by
  unfold pumpEngine; rw [hw, hi]; rfl

/-! ### The reclaimer's list -/

theorem stall_work (s : State) : (stall s).store.work = s.store.work := by unfold stall; split <;> rfl

theorem countErased_work (s : State) : s.store.work <+: (countErased s).store.work := by
  unfold countErased; split
  · exact List.prefix_rfl
  · split
    · exact List.prefix_append _ _
    · rw [stall_work]

theorem moveLogHead_work (copy : Bool) (s : State) : s.store.work <+: (moveLogHead copy s).store.work :=
  moveLogHead_induct (P := fun u => s.store.work <+: u.store.work) copy List.prefix_rfl (by rw [stall_work]) List.prefix_rfl
    fun u k h => h.trans (countErased_work (u.onStore fun t => { t with head := k }))

theorem mem_dueWork {t : Store} {w : Work} (h : w ∈ t.work) (hk : w.kind ≠ .evacuation) : w ∈ t.dueWork := by
  unfold Store.dueWork
  have split := List.takeWhile_append_dropWhile (l := t.work)
    (p := fun w => decide (w.kind = .evacuation) && (t.liveIn w.sector).isEmpty)
  rw [← split] at h
  refine (List.mem_append.1 h).resolve_left fun ht => hk ?_
  have := List.mem_takeWhile_imp ht
  simp only [Bool.and_eq_true, decide_eq_true_eq] at this
  exact this.1

/-- An item of the list that is no evacuation stays in it while the engine takes up its next request. -/
theorem pumpEngine_work {w : Work} (h : w ∈ s.store.work) (hk : w.kind ≠ .evacuation) :
    w ∈ (pumpEngine s).store.work := by
  have serves : ∀ r, w ∈ (serve r s).store.work := fun r => by
    have oldest : s.store.takeOldest.work = s.store.work := by unfold Store.takeOldest; split <;> rfl
    cases r with
    | tableWriter =>
      have taken : w ∈ s.store.takeOldest.work := oldest ▸ h
      unfold serve
      rcases s.store.tableRequest with _ | _ | _ | _ | _
      · exact h
      all_goals first | exact h | exact taken
    | journalWriter =>
      unfold serve
      rcases s.journalRequest with _ | ⟨⟩ <;> exact h
    | reclaimer =>
      unfold serve
      rcases s.store.reclaimRequest with _ | ⟨c⟩ | ⟨v⟩
      · exact h
      · exact mem_dueWork ((moveLogHead_work true s).subset h) hk
      · exact mem_dueWork h hk
  unfold pumpEngine
  split
  · exact h
  · split
    · exact h
    · unfold orderSuspension; split <;> exact h
    · split
      · exact serves _
      · unfold resume; split <;> exact h

/-! ### The pre-erase -/

theorem le_newestIn {c : Sector JRec} {r : JRec} (h : r ∈ c.recs) : r.seq ≤ newestIn c := by
  unfold newestIn
  have grows : ∀ (l : List JRec) (m : Nat), m ≤ l.foldl (fun m r => max m r.seq) m ∧
      ∀ r ∈ l, r.seq ≤ l.foldl (fun m r => max m r.seq) m := by
    intro l
    induction l with
    | nil => simp
    | cons x l ih =>
      intro m
      obtain ⟨hm, hl⟩ := ih (max m x.seq)
      rw [List.foldl_cons, List.forall_mem_cons]
      generalize l.foldl (fun m r => max m r.seq) (max m x.seq) = n at hm hl ⊢
      exact ⟨by omega, by omega, hl⟩
  exact (grows _ _).2 r h

theorem newestIn_le {c : Sector JRec} {n : Nat} (h : ∀ r ∈ c.recs, r.seq ≤ n) : newestIn c ≤ n := by
  unfold newestIn
  have bound : ∀ (l : List JRec) (m : Nat), m ≤ n → (∀ r ∈ l, r.seq ≤ n) → l.foldl (fun m r => max m r.seq) m ≤ n := by
    intro l
    induction l with
    | nil => exact fun m hm _ => hm
    | cons x l ih =>
      intro m hm hl
      rw [List.foldl_cons]
      exact ih _ (max_le hm (hl x (by simp))) fun r hr => hl r (by simp [hr])
  exact bound _ _ (Nat.zero_le _) h

/-- What is done to the engine, the waiting program or the reclaimer's list alters nothing the step keeps. -/
theorem alters_onStore {f : Store → Store} {K : List EntryKey} {P : List Part} {C : List NoticeClass}
    (h : ∃ w e x l, f s.store = { s.store with work := w, engine := e, suspended := x, lastServed := l }) :
    alters K P C s (s.onStore f) := by
  obtain ⟨w, e, x, l, hf⟩ := h
  have hs : (s.onStore f).store = { s.store with work := w, engine := e, suspended := x, lastServed := l } := hf
  refine ⟨?_, fun k _ => ?_, Link.posts_refl _ _, fun p hp => ?_⟩
  · constructor <;> rw [hs]
  · rw [hs]; exact ⟨rfl, Iff.rfl⟩
  · cases p <;> first | rfl | exact absurd (by simp) hp

/-! ### The waiting set (R160) -/

theorem offerChange_leaves_waiting {t : Store} {k : EntryKey} (v : EntryVal) (hr : t.queue.length < Config.changePlaces)
    (hw : t.hasPlace k = true → k ∉ t.waiting) : k ∉ (t.offerChange k v).waiting := by
  unfold Store.offerChange
  rw [if_pos hr]
  split
  · next h => exact hw h
  · simp

theorem placeWaitingAll (l : List EntryKey) (hw : ∀ k ∈ l, s.store.hasPlace k = true → k ∉ s.store.waiting)
    (hl : s.store.queue.length + l.length ≤ Config.changePlaces) :
    l.foldl placeWaiting s = l.foldl (fun x k => enqueue k x) s ∧
      ∀ j ∈ (l.foldl placeWaiting s).store.waiting, j ∈ s.store.waiting ∧ j ∉ l := by
  induction l generalizing s with
  | nil => exact ⟨rfl, fun j hj => ⟨hj, nofun⟩⟩
  | cons k l ih =>
    have room : s.store.queue.length < Config.changePlaces := by simp only [List.length_cons] at hl; omega
    have first : placeWaiting s k = enqueue k s := if_pos room
    have gone : ∀ j ∈ (enqueue k s).store.waiting, j ≠ k := fun j hj e =>
      offerChange_leaves_waiting _ room (hw k (by simp)) (e ▸ hj)
    have stays : ∀ j, j ∈ (enqueue k s).store.waiting → j ∈ s.store.waiting := fun j hj =>
      (offerChange_waiting_other _ _ (gone j hj)).1 hj
    have grows : (enqueue k s).store.queue.length ≤ s.store.queue.length + 1 := by
      rw [show (enqueue k s).store.queue.length = _ from offerChange_length _ _ _]; split <;> omega
    obtain ⟨same, waits⟩ := ih (s := enqueue k s)
      (fun j hj hp => by
        rcases offerChange_hasPlace _ _ _ _ hp with h | rfl
        · exact fun hm => hw j (by simp [hj]) h (stays j hm)
        · exact fun hm => gone j hm rfl)
      (by simp only [List.length_cons] at hl; omega)
    simp only [List.foldl_cons, first]
    exact ⟨same, fun j hj => ⟨stays j (waits j hj).1, fun hm =>
      (List.mem_cons.1 hm).elim (gone j (waits j hj).1) (waits j hj).2⟩⟩

theorem running_of_run (h : s.power.state = .run) : s.running = true := by unfold State.running; rw [h]; rfl

/-- Settles O60: `pumpEngine_work` for the pre-erase, the engine's next request for the suspension, and
`placeWaitingAll`. -/
theorem storeWorkGoesOn : Obligations.StoreWorkGoesOn := by
  refine ⟨fun s hr => ⟨fun hw he ht hm hl => ?_, fun hm => ?_⟩, fun s e hw he hran hord => ?_, fun s e hw he hord => ?_,
    fun s hw hsig hfresh hlen => ?_⟩
  · have due : s.preEraseDue = true := by
      have listed : (s.store.work.any fun w => decide (w.sector = s.journal.spare)) = false := by simpa using hl
      unfold State.preEraseDue
      rw [decide_eq_true hw, he, ht, listed, decide_eq_true (newestIn_le fun r h => (hm r h).2)]
      simpa [reclaimable] using fun r h => (hm r h).1
    let u : State := s.onStore fun t => { t with work := t.work ++ [⟨s.journal.spare, .journalErase⟩] }
    have run : exec .preErase s = .next (finish u) := by
      show execPreErase s = _
      unfold execPreErase; rw [running_of_run hr, due]; rfl
    refine ⟨_, run, ?_, (alters_onStore ⟨_, _, _, _, rfl⟩).changesOnly⟩
    rw [finish_store]
    exact pumpEngine_work (s := u) (by simp [u]) nofun
  · obtain ⟨r, hr, hlt⟩ := hm
    have due : s.preEraseDue = false := by
      unfold State.preEraseDue
      rw [decide_eq_false (Nat.not_le.2 (hlt.trans_le (le_newestIn hr)))]
      simp
    show execPreErase s = _
    unfold execPreErase; rw [due, Bool.and_false]; rfl
  · let u : State := s.onStore fun t => { t with engine := .erasing { e with ran := true } }
    have run : exec .eraseSuspend s = .next (finish u) := by
      show execEraseSuspend s = _
      unfold execEraseSuspend; rw [he]; dsimp only; rw [hran]; rfl
    refine ⟨_, run, (alters_onStore ⟨_, _, _, _, rfl⟩).changesOnly, ?_⟩
    rw [finish_store, pumpEngine_erasing (s := u) hw rfl]
    have waits : u.programWaits = true ↔ s.store.tableRequest.isSome = true ∨ s.journalRequest.isSome = true :=
      Bool.or_eq_true_iff
    unfold orderSuspension
    by_cases hp : e.suspensions < 8 ∧ (s.store.tableRequest.isSome = true ∨ s.journalRequest.isSome = true)
    · rw [if_pos hp, waits.2 hp.2, decide_eq_true hp.1, hord]; rfl
    · have unordered : ¬(true && !e.ordered && decide (e.suspensions < 8) && u.programWaits) = true := fun h => by
        simp only [Bool.and_eq_true, decide_eq_true_eq] at h
        exact hp ⟨h.1.2, waits.1 h.2⟩
      rw [if_neg hp, if_neg unordered]; rfl
  · let u : State := s.onStore fun t => { t with engine := .idle, suspended := some { e with ordered := false } }
    have run : exec .suspensionTakesEffect s = .next (finish u) := by
      show execSuspensionTakesEffect s = _
      unfold execSuspensionTakesEffect; rw [he]; dsimp only; rw [hord]; rfl
    have passed : u.waits .reclaimer = false := by simp [State.waits, u]
    have table : u.store.tableRequest = s.store.tableRequest := rfl
    have journal : u.journalRequest = s.journalRequest := rfl
    refine ⟨_, run, (alters_onStore ⟨_, _, _, _, rfl⟩).changesOnly, fun hp => ?_, fun ht hj => ?_⟩
    · rw [finish_store, pumpEngine_idle (s := u) hw rfl]
      have some : ∃ r, (rotation u.store.lastServed).find? u.waits = some r := by
        refine Option.isSome_iff_exists.1 (List.find?_isSome.2 ?_)
        rcases hp with h | h
        · exact ⟨.tableWriter, by cases u.store.lastServed <;> decide, h⟩
        · exact ⟨.journalWriter, by cases u.store.lastServed <;> decide, h⟩
      obtain ⟨r, hr⟩ := some
      have waits := List.find?_some hr
      rw [hr]
      cases r with
      | reclaimer => rw [passed] at waits; cases waits
      | tableWriter =>
        obtain ⟨p, hp⟩ := Option.isSome_iff_exists.1 waits
        have keeps : u.store.takeOldest.suspended = u.store.suspended := by unfold Store.takeOldest; split <;> rfl
        unfold serve
        dsimp only
        rw [hp]
        cases p <;> first
          | exact ⟨rfl, _, rfl, .inl hp⟩
          | exact ⟨keeps, _, rfl, .inl hp⟩
      | journalWriter =>
        obtain ⟨p, hp⟩ := Option.isSome_iff_exists.1 waits
        unfold serve
        dsimp only
        rw [hp]
        exact ⟨rfl, p, rfl, .inr hp⟩
    · rw [finish_store, pumpEngine_idle (s := u) hw rfl]
      have none : (rotation u.store.lastServed).find? u.waits = none := by
        rw [List.find?_eq_none]
        intro r _
        cases r with
        | reclaimer => simp [passed]
        | tableWriter => simp [State.waits, table, ht]
        | journalWriter => simp [State.waits, journal, hj]
      rw [none]
      exact ⟨rfl, rfl⟩
  · let u : State := s.onSignals fun g => { g with waiting := false }
    have run : exec .waitingSetPlacement s = .next (finish (s.store.waiting.foldl placeWaiting u)) := by
      show execWaitingSetPlacement s = _
      unfold execWaitingSetPlacement; rw [hw, hsig]; rfl
    obtain ⟨same, waits⟩ := placeWaitingAll (s := u) s.store.waiting
      (fun k hk hp => by
        obtain ⟨p, hq, hpk⟩ := (Store.hasPlace_iff _ _).1 hp
        exact absurd hpk (hfresh k hk p hq)) hlen
    have fits : u.store.canQueue s.store.waiting 0 = true := by
      rw [canQueue_iff]
      have h1 := List.length_filter_le (fun k => !u.store.hasPlace k) s.store.waiting.dedup
      have h2 := (List.dedup_sublist s.store.waiting).length_le
      have h3 : u.store.queue.length + s.store.waiting.length ≤ Config.changePlaces := hlen
      omega
    have altered : alters s.store.waiting [.signals] [] s (s.store.waiting.foldl (fun x k => enqueue k x) u) :=
      ((alters.refl _ _ _ s).onSignals _).enqueueAll fun _ h => h
    have empty : (s.store.waiting.foldl placeWaiting u).store.waiting = [] :=
      List.eq_nil_iff_forall_not_mem.2 fun j hj => (waits j hj).2 (waits j hj).1
    rw [run]
    rw [same] at empty ⊢
    have signals : (s.store.waiting.foldl (fun x k => enqueue k x) u).signals = u.signals := by
      have : ∀ (l : List EntryKey) (v : State), (l.foldl (fun x k => enqueue k x) v).signals = v.signals := by
        intro l
        induction l with
        | nil => exact fun _ => rfl
        | cons k l ih => exact fun v => ih _
      exact this _ _
    refine ⟨_, rfl, ?_, by rw [finish_waiting]; exact empty, placed_end (placed_enqueueAll fits), altered.changesOnly⟩
    rw [(finish_part _ (p := .signals) nofun nofun : _ = _), signals]
    rfl

end

end Sys2Proof.Machine
/-! ## What a full head, a retirement and a fault do to the journal unit (R141 to R146, R151, R168) -/

namespace Sys2Proof.Machine

set_option Elab.async false

/-! ### The STORE occurrences of a step -/

/-- The STORE class's entry once these occurrences have been posted, and after them STALLED, where the table log has
stalled since. -/
structure stallsAfter (l : List Detail) (s u : State) : Prop where
  notice : u.link.notices.get .store = (l ++ if s.store.stalled = false ∧ u.store.stalled = true then [Detail.stalled] else
    []).foldl Notice.occur (s.link.notices.get .store)
  stays : s.store.stalled = true → u.store.stalled = true

namespace stallsAfter

variable {l : List Detail} {s u v : State}

theorem refl (s : State) : stallsAfter [] s s := ⟨by cases s.store.stalled <;> rfl, id⟩

theorem same (h : stallsAfter l s u) (hn : v.link.notices.get .store = u.link.notices.get .store := by rfl)
    (hs : v.store.stalled = u.store.stalled := by rfl) : stallsAfter l s v :=
  ⟨by rw [hn, hs]; exact h.notice, fun g => hs.trans (h.stays g)⟩

/-- An operation that posts to other classes and leaves the stall alone. -/
theorem inner {classes : List NoticeClass} (h : stallsAfter l s u) (hp : u.link.posts classes v.link)
    (hs : v.store.stalled = u.store.stalled) (hc : NoticeClass.store ∉ classes := by simp) : stallsAfter l s v :=
  h.same (hp.notices _ hc) hs

theorem posted (h : stallsAfter l s u) (d : Detail) (hs : u.store.stalled = s.store.stalled) :
    stallsAfter (l ++ [d]) s (post .store d u) := by
  have none : ¬(s.store.stalled = false ∧ u.store.stalled = true) := fun g => by rw [hs, g.1] at g; exact absurd g.2 nofun
  refine ⟨?_, h.stays⟩
  have := h.notice
  rw [if_neg none, List.append_nil] at this
  rw [post_notice_self, this, show (post .store d u).store = u.store from rfl, if_neg none]
  simp

theorem stall (h : stallsAfter l s u) : stallsAfter l s (stall u) := by
  unfold Machine.stall
  split
  · exact h
  · next hu =>
    have hs : s.store.stalled = false := Bool.eq_false_iff.2 fun g => hu (h.stays g)
    have notice := h.notice
    rw [if_neg fun g => hu g.2, List.append_nil] at notice
    refine ⟨?_, fun _ => rfl⟩
    rw [post_notice_self, show (u.onStore _).link = u.link from rfl, notice, if_pos ⟨hs, rfl⟩]
    simp

theorem countErased (h : stallsAfter l s u) : stallsAfter l s (countErased u) := by
  unfold Machine.countErased
  split
  · exact h
  · split
    · exact h.same
    · exact h.stall

theorem moveLogHead (h : stallsAfter l s u) (copy : Bool) : stallsAfter l s (moveLogHead copy u) :=
  moveLogHead_induct copy h h.stall h.same fun v k hv => (hv.same (v := v.onStore fun t => { t with head := k })).countErased

theorem serve (h : stallsAfter l s u) (r : Requester) : stallsAfter l s (serve r u) := by
  have oldest : u.store.takeOldest.stalled = u.store.stalled := by unfold Store.takeOldest; split <;> rfl
  cases r with
  | tableWriter =>
    unfold Machine.serve
    rcases u.store.tableRequest with _ | _ | _ | _ | _
    · exact h
    · exact h.same rfl oldest
    · exact h.same
    · exact h.same rfl oldest
    · exact h.same rfl oldest
  | journalWriter =>
    unfold Machine.serve
    rcases u.journalRequest with _ | p
    · exact h
    · exact h.same
  | reclaimer =>
    unfold Machine.serve
    rcases u.store.reclaimRequest with _ | c | w
    · exact h
    · exact (h.moveLogHead true).same
    · exact h.same

theorem pumpEngine (h : stallsAfter l s u) : stallsAfter l s (pumpEngine u) := by
  unfold Machine.pumpEngine; split
  · exact h
  · split
    · exact h
    · unfold orderSuspension
      split
      · exact h.same
      · exact h
    · split
      · exact h.serve _
      · unfold resume
        split
        · exact h
        · exact h.same

/-- The STORE occurrences stand when the step has ended (R157, R180). -/
theorem finish (h : stallsAfter l s u) : postedAll .store
    (l ++ if s.store.stalled = false ∧ (finish u).store.stalled = true then [Detail.stalled] else []) s (finish u) := by
  have g := pumpTx_notice (Machine.pumpEngine u) .store
  unfold Link.begunOr at g
  rw [h.pumpEngine.notice, ← finish_store u] at g
  exact g

end stallsAfter

/-! ### What the acceptance of records leaves of the journal unit -/

/-- The staging queue has grown, or not, and the next sequence, the tallies and the held OVERRUN records may have
changed; nothing else of the journal unit has. -/
structure Journal.takesIn (j k : Journal) : Prop where
  staged : j.staging <+: k.staging
  rest : k = { j with
    nextSeq := k.nextSeq, staging := k.staging, heldOverruns := k.heldOverruns, dropAdm := k.dropAdm, dropOther := k.dropOther }

namespace Journal.takesIn

variable {j k : Journal}

theorem trans {i : Journal} (h : j.takesIn k) (g : k.takesIn i) : j.takesIn i :=
  ⟨h.staged.trans g.staged, by rw [g.rest, h.rest]⟩

theorem refl (j : Journal) : j.takesIn j := ⟨List.prefix_rfl, rfl⟩

theorem writer (h : j.takesIn k) : k.writer = j.writer := by rw [h.rest]
theorem head (h : j.takesIn k) : k.head = j.head := by rw [h.rest]
theorem spare (h : j.takesIn k) : k.spare = j.spare := by rw [h.rest]
theorem mark (h : j.takesIn k) : k.mark = j.mark := by rw [h.rest]
theorem newest (h : j.takesIn k) : k.newest = j.newest := by rw [h.rest]

theorem tally (j : Journal) (k : JKind) : j.takesIn (j.tally k) := by
  rw [Journal.tally_eq]; split <;> exact ⟨List.prefix_rfl, rfl⟩

theorem dropHeld (j : Journal) : j.takesIn j.dropHeld := by
  unfold Journal.dropHeld
  split
  · rw [Journal.tallied]; exact ⟨List.prefix_rfl, rfl⟩
  · exact refl j

theorem append (j : Journal) (c : HotelClock) (b : JBody) : j.takesIn (j.append c b) := ⟨List.prefix_append _ _, rfl⟩

theorem acceptRec (b : JBody) (s : State) : s.journal.takesIn (acceptRec b s).journal := by
  rw [acceptRec_journal]; exact (append _ _ _).trans (dropHeld _)

theorem dropRec (b : JBody) (s : State) : s.journal.takesIn (dropRec b s).journal := tally _ _

theorem acceptGap (s : State) : s.journal.takesIn (acceptGap s).journal :=
  Journal.takesIn.trans (k := { s.journal with dropAdm := 0, dropOther := 0 }) ⟨List.prefix_rfl, rfl⟩ (acceptRec s.journal.gapBody (s.onJournal fun j => { j with dropAdm := 0, dropOther := 0 }))

theorem offer (b : JBody) (s : State) : s.journal.takesIn (offer b s).journal := by
  unfold Machine.offer
  split
  · exact dropRec b s
  · split
    · split
      · split
        · exact (acceptGap s).trans (dropRec b _)
        · exact (acceptGap s).trans (acceptRec b _)
      · exact dropRec b s
    · split
      · exact acceptRec b s
      · exact dropRec b s

theorem offerOverrun (r : Nat × Nat) (s : State) : s.journal.takesIn (offerOverrun r s).journal := by
  unfold Machine.offerOverrun
  split
  · exact dropRec _ s
  · split
    · exact acceptRec _ s
    · exact ⟨List.prefix_rfl, rfl⟩

end Journal.takesIn

section
variable {s t u : State}

theorem offerOverrun_congr {s t : State} (r : Nat × Nat) (h : s.journal = t.journal) (g : s.clock = t.clock) :
    (offerOverrun r s).journal = (offerOverrun r t).journal := by
  unfold offerOverrun dropRec
  rw [h]
  split
  · simp [h]
  · split
    · exact acceptRec_congr _ h g
    · simp [h]

/-- An OVERRUN record below the last sequence posts nothing. -/
theorem offerOverrun_link (r : Nat × Nat) (h : s.journal.nextSeq < max32) : (offerOverrun r s).link = s.link := by
  unfold offerOverrun
  split
  · rfl
  · split
    · unfold acceptRec; rw [if_neg (Nat.ne_of_lt h)]; rfl
    · rfl

/-! ### The head-full test -/

/-- The test leaves the store alone, or queues the journal-state entry. -/
theorem testHead_store (s : State) : (testHead s).store = s.store ∨ ∃ v, (testHead s).store = s.store.offerChange .journalState v := by
  unfold testHead
  split
  · unfold headFullTest
    split
    · exact .inl (by simp)
    · split
      · exact .inl rfl
      · split
        · exact .inl (by simp)
        · exact .inr ⟨_, (offerOverrun_frame _ _).2.2.2.2.2.2.2.2.2.2.1⟩
  · exact .inl rfl

theorem offerChange_stalled (t : Store) (k : EntryKey) (v : EntryVal) : (t.offerChange k v).stalled = t.stalled := by
  unfold Store.offerChange; split
  · rfl
  · split
    · rfl
    · split <;> rfl

theorem testHead_stalled (s : State) : (testHead s).store.stalled = s.store.stalled := by
  rcases testHead_store s with h | ⟨v, h⟩
  · rw [h]
  · rw [h, offerChange_stalled]

theorem alters.offerOverrun {K : List EntryKey} {P : List Part} {C : List NoticeClass} (h : alters K P C s t) (r : Nat × Nat)
    (hp : Part.journal ∈ P := by simp) (hc : NoticeClass.journal ∈ C := by simp) : alters K P C s (offerOverrun r t) := by
  unfold Machine.offerOverrun dropRec
  split
  · exact h.onJournal _ hp
  · split
    · exact h.acceptRec _ hp hc
    · exact h.onJournal _ hp

theorem alters.moveJournalHead {K : List EntryKey} {P : List Part} {C : List NoticeClass} (h : alters K P C s t)
    (hp : Part.journal ∈ P := by simp) : alters K P C s (moveJournalHead t) := by
  unfold Machine.moveJournalHead chooseSpare
  exact (h.onJournal _ hp).onJournal _ hp

theorem alters.testHead {K : List EntryKey} {P : List Part} {C : List NoticeClass} (h : alters K P C s t)
    (hk : EntryKey.journalState ∈ K := by simp) (hp : Part.journal ∈ P := by simp) (hc : NoticeClass.journal ∈ C := by simp) :
    alters K P C s (testHead t) := by
  unfold Machine.testHead
  split
  · unfold headFullTest
    split
    · exact h.moveJournalHead hp
    · split
      · exact h.onJournal _ hp
      · split
        · exact (h.onJournal _ hp).post _ _ hc
        · exact (((h.onJournal _ hp).enqueue _ hk).post _ _ hc).offerOverrun _ hp hc
  · exact h

theorem testHead_due (hf : u.headFull = true) (hw : u.journal.writer ≠ .fault) : testHead u = headFullTest u := by
  unfold testHead; rw [hf, decide_eq_true hw]; rfl

theorem testHead_early (h : u.headFull = false ∨ u.journal.writer = .fault) : testHead u = u := by
  unfold testHead
  rcases h with h | h
  · rw [h]; rfl
  · rw [decide_eq_false (not_not.2 h), Bool.and_false]; rfl

theorem raiseMark_journal (s : State) :
    (raiseMark s).journal = { s.journal with mark := newestIn s.spareSec, writer := .overrun } := rfl

/-- The test leaves the head where it is while the spare is not erased, and the writer out of FAULT. -/
theorem testHead_stands (he : u.spareSec.erased = false) : (testHead u).journal.head = u.journal.head ∧
    (testHead u).journal.spare = u.journal.spare := by
  unfold testHead
  split
  · unfold headFullTest
    rw [if_neg (by rw [he]; exact Bool.false_ne_true)]
    split
    · exact ⟨rfl, rfl⟩
    · split
      · exact ⟨rfl, rfl⟩
      · have takes := Journal.takesIn.offerOverrun u.overrunRange (raiseMark u)
        exact ⟨takes.head, takes.spare⟩
  · exact ⟨rfl, rfl⟩

theorem testHead_writer (hw : u.journal.writer ≠ .fault) : (testHead u).journal.writer ≠ .fault := by
  unfold testHead
  split
  · unfold headFullTest
    split
    · exact nofun
    · split
      · exact nofun
      · split
        · exact nofun
        · exact (Journal.takesIn.offerOverrun u.overrunRange (raiseMark u)).writer.trans_ne nofun
  · exact hw

theorem testHead_staged (u : State) : u.journal.staging <+: (testHead u).journal.staging := by
  unfold testHead
  split
  · unfold headFullTest
    split
    · exact List.prefix_rfl
    · split
      · exact List.prefix_rfl
      · split
        · exact List.prefix_rfl
        · exact (Journal.takesIn.offerOverrun u.overrunRange (raiseMark u)).staged
  · exact List.prefix_rfl

/-- The step's state `u` differs from the state `s` before it in the journal unit and in one sector other than the
spare, and these JOURNAL occurrences have been posted. -/
structure headReady (posts : List Detail) (s u : State) : Prop where
  spare : u.journal.spare = s.journal.spare
  sector : u.store.jsec s.journal.spare = s.store.jsec s.journal.spare
  retired : ∀ i, (u.store.jsec i).retired = (s.store.jsec i).retired
  settings : u.settings = s.settings
  clock : u.clock = s.clock
  queue : u.store.queue = s.store.queue
  waiting : u.store.waiting = s.store.waiting
  notice : u.link.notices.get .journal = posts.foldl Notice.occur (s.link.notices.get .journal)

theorem headReady.queues {posts : List Detail} {v : State} (r : headReady posts s u) (h : alters [] P C u v) : queuesOnly [] s (finish v) :=
  queuesOnly_trans (t := u) (fun k _ => ⟨by unfold Store.contents; rw [r.queue], by rw [r.waiting]⟩) h.changesOnly.changes

/-- The head-full test of a full head, the writer not in FAULT (R142, R144, R145). -/
theorem headFilled_testHead {posts : List Detail} (r : headReady posts s u) (hf : u.headFull = true) (hw : u.journal.writer ≠ .fault) :
    headFilled u.journal posts s (finish (testHead u)) := by
  have sec : u.spareSec = s.store.jsec s.journal.spare := by unfold State.spareSec; rw [r.spare, r.sector]
  rw [testHead_due hf hw]
  unfold headFullTest
  rw [sec]
  refine ⟨fun he => ?_, fun he hr => ?_, fun he hr hp => ?_, fun m he hr hp hin hle => ?_⟩
  · rw [if_pos he]
    refine ⟨postedAll_finish nofun (by simpa using r.notice),
      r.queues (P := [.journal]) (C := []) (alters.refl _ _ _ u).moveJournalHead, ?_⟩
    have next : u.store.nextUsable u.journal.spare =
        (circleAfter s.journal.spare).find? fun i => !(s.store.jsec i).retired := by
      unfold Store.nextUsable
      rw [r.spare]
      simp only [r.retired]
    rw [(finish_part _ (p := .journal) nofun nofun : _ = _)]
    show ({ u.journal with
      head := u.journal.spare, writer := .writing, spare := (u.store.nextUsable u.journal.spare).getD u.journal.spare } : Journal) = _
    rw [next, r.spare]
  · rw [if_neg (by rw [he]; exact Bool.false_ne_true), if_pos (by simpa [reclaimable] using hr)]
    exact ⟨postedAll_finish nofun r.notice, r.queues (P := [.journal]) (C := []) ((alters.refl _ _ _ u).onJournal _),
      finish_part _ (p := .journal) nofun nofun⟩
  · have kept : ¬reclaimable u.journal.mark (s.store.jsec s.journal.spare) = true := by simpa [reclaimable] using hr
    rw [if_neg (by rw [he]; exact Bool.false_ne_true), if_neg kept, r.settings, hp]
    refine ⟨postedAll_finish nofun ?_, r.queues (P := [.journal]) (C := [.journal]) (((alters.refl _ _ _ u).onJournal _).post _ _),
      finish_part _ (p := .journal) nofun nofun⟩
    rw [List.foldl_append, ← r.notice]
    exact post_notice_self _ _ _
  · have kept : ¬reclaimable u.journal.mark (s.store.jsec s.journal.spare) = true := by simpa [reclaimable] using hr
    rw [if_neg (by rw [he]; exact Bool.false_ne_true), if_neg kept, r.settings, hp]
    obtain ⟨x, hx, rfl⟩ := hin
    have newest : newestIn u.spareSec = x.seq := by
      rw [sec]; exact le_antisymm (newestIn_le hle) (le_newestIn hx)
    have journal : (overrunPath u).journal = (offerOverrun (u.journal.mark + 1, x.seq)
        { s with journal := { u.journal with mark := x.seq, writer := .overrun } }).journal := by
      unfold overrunPath State.overrunRange
      rw [newest]
      refine offerOverrun_congr _ ?_ r.clock
      rw [raiseMark_journal, newest]
    have store : (overrunPath u).store = (raiseMark u).store := (offerOverrun_frame _ _).2.2.2.2.2.2.2.2.2.2.1
    refine ⟨(finish_part _ (p := .journal) nofun nofun).trans journal, fun hn => ?_, ?_, fun hq => ?_⟩
    · refine postedAll_finish nofun ?_
      rw [show (overrunPath u).link = (raiseMark u).link from offerOverrun_link _ hn, List.foldl_append, ← r.notice, ← newest]
      exact post_notice_self _ _ _
    · have altered : alters [.journalState] [.journal] [.journal] u (overrunPath u) :=
        ((((alters.refl _ _ _ u).onJournal _).enqueue _).post _ _).offerOverrun _
      exact queuesOnly_trans (t := u) (fun k _ => ⟨by unfold Store.contents; rw [r.queue], by rw [r.waiting]⟩)
        altered.changesOnly.changes
    · have fits : u.store.canQueue [.journalState] 0 = true := by
        rw [canQueue_iff] at hq ⊢
        unfold Store.hasPlace at hq ⊢
        rw [r.queue]; exact hq
      rw [finish_contents, store, ← newest]
      exact enqueue_contents_self (s := u.onJournal fun j => { j with mark := newestIn u.spareSec, writer := .overrun })
        (canQueue_roomFor fits (by simp))

end

end Sys2Proof.Machine
/-! ## Journal programs and retired journal sectors (R140, R141, R150, R166, R168) -/

namespace Sys2Proof.Machine

set_option Elab.async false

section
variable {s t u v w : State} {k : Nat} {c : RetireCause}

/-! ### What retires with a journal sector -/

theorem alters.reportRetired {K : List EntryKey} {P : List Part} {C : List NoticeClass} (h : alters K P C s t)
    (k : Nat) (c : RetireCause) (hp : Part.journal ∈ P := by simp) (hj : NoticeClass.journal ∈ C := by simp)
    (hs : NoticeClass.store ∈ C := by simp) : alters K P C s (reportRetired k c t) :=
  (h.offer _ hp hj).post _ _ hs

theorem alters.declareFault {K : List EntryKey} {P : List Part} {C : List NoticeClass} (h : alters K P C s t)
    (hp : Part.journal ∈ P := by simp) (hs : NoticeClass.store ∈ C := by simp) : alters K P C s (declareFault t) :=
  ((h.onJournal _ hp).trans (alters_onStore ⟨_, _, _, _, rfl⟩)).post _ _ hs

theorem alters.endEvacuations {K : List EntryKey} {P : List Part} {C : List NoticeClass} (h : alters K P C s t) :
    alters K P C s (endEvacuations t) := h.trans (alters_onStore ⟨_, _, _, _, rfl⟩)

theorem alters.journalRetired {K : List EntryKey} {P : List Part} {C : List NoticeClass} (h : alters K P C s t) (k : Nat)
    (hk : EntryKey.journalState ∈ K := by simp) (hp : Part.journal ∈ P := by simp)
    (hj : NoticeClass.journal ∈ C := by simp) (hs : NoticeClass.store ∈ C := by simp) :
    alters K P C s (journalRetired k t) := by
  unfold Machine.journalRetired
  split
  · exact h
  · split
    · exact h.declareFault hp hs
    · split
      · exact h.testHead hk hp hj
      · split
        · exact alters.testHead (h.onJournal _ hp) hk hp hj
        · exact h

theorem declareFault_takesIn (s : State) :
    ({ s.journal with writer := .fault } : Journal).takesIn (declareFault s).journal := Journal.takesIn.dropHeld _

theorem declareFault_writer (s : State) : (declareFault s).journal.writer = .fault := (declareFault_takesIn s).writer

/-- A retirement leaves the writer in FAULT where it was, or where fewer than two usable sectors remain (R168). -/
theorem journalRetired_writer (k : Nat) (s : State) :
    (journalRetired k s).journal.writer = .fault ↔ s.journal.writer = .fault ∨ s.store.usableJournal < 2 := by
  unfold journalRetired
  split
  · next h => exact ⟨fun _ => .inl h, fun _ => h⟩
  · next hw =>
    split
    · next hn => exact ⟨fun _ => .inr hn, fun _ => declareFault_writer s⟩
    · next hn =>
      refine iff_of_false ?_ (not_or.2 ⟨hw, hn⟩)
      split
      · exact testHead_writer hw
      · split
        · exact testHead_writer (u := chooseSpare s) hw
        · exact hw

theorem journalRetired_staged (k : Nat) (s : State) : s.journal.staging <+: (journalRetired k s).journal.staging := by
  unfold journalRetired
  split
  · exact List.prefix_rfl
  · split
    · exact (declareFault_takesIn s).staged
    · split
      · exact testHead_staged s
      · split
        · exact testHead_staged (chooseSpare s)
        · exact List.prefix_rfl

theorem stallsAfter.testHead {l : List Detail} (h : stallsAfter l s u) : stallsAfter l s (testHead u) :=
  h.inner (alters.testHead (alters.refl [.journalState] [.journal] [.journal] u)).link (testHead_stalled u)

/-- A retirement posts JOURNAL_FAULT as it brings it on. -/
theorem stallsAfter.journalRetired {l : List Detail} (h : stallsAfter l s u) (hs : u.store.stalled = s.store.stalled) (k : Nat) :
    stallsAfter (l ++ if u.journal.writer ≠ .fault ∧ (journalRetired k u).journal.writer = .fault then [.journalFault] else [])
      s (journalRetired k u) := by
  by_cases hw : u.journal.writer = .fault
  · rw [if_neg fun g => g.1 hw, List.append_nil, show Machine.journalRetired k u = u from if_pos hw]
    exact h
  · by_cases hn : u.store.usableJournal < 2
    · rw [if_pos ⟨hw, (journalRetired_writer k u).2 (.inr hn)⟩,
        show Machine.journalRetired k u = declareFault u from (if_neg hw).trans (if_pos hn)]
      exact h.same.posted _ hs
    · rw [if_neg fun g => (not_or.2 ⟨hw, hn⟩) ((journalRetired_writer k u).1 g.2), List.append_nil]
      unfold Machine.journalRetired
      rw [if_neg hw, if_neg hn]
      split
      · exact h.testHead
      · split
        · exact (h.same (v := chooseSpare u)).testHead
        · exact h

/-- The state with a journal sector marked retired. -/
def State.retiresJ (k : Nat) (s : State) : State := s.onStore fun t => t.modJ k fun x => { x with retired := true }

theorem retiresJ_jsec (k i : Nat) (s : State) : (s.retiresJ k).store.jsec i =
    if i = k then { s.store.jsec k with retired := true } else s.store.jsec i := Store.jsec_modJ _ _ _ _

theorem alters_retireJournal (k : Nat) (c : RetireCause) (s : State) :
    alters [.journalState] [.journal] [.journal, .store] (s.retiresJ k) (retireJournal k c s) :=
  (((alters.refl _ _ _ (s.retiresJ k)).reportRetired k c).journalRetired k).endEvacuations

theorem reportRetired_journal (k : Nat) (c : RetireCause) (s : State) :
    (reportRetired k c s).journal = (offer (storeFaultBody k c) s).journal := rfl

theorem reportRetired_store (k : Nat) (c : RetireCause) (s : State) : (reportRetired k c s).store = s.store := by
  unfold reportRetired; simp

theorem retireJournal_writer (k : Nat) (c : RetireCause) (s : State) : (retireJournal k c s).journal.writer = .fault ↔
    s.journal.writer = .fault ∨ (s.retiresJ k).store.usableJournal < 2 := by
  have report : (reportRetired k c (s.retiresJ k)).journal.writer = s.journal.writer :=
    (Journal.takesIn.offer (storeFaultBody k c) (s.retiresJ k)).writer
  refine (journalRetired_writer k (reportRetired k c (s.retiresJ k))).trans ?_
  rw [report, reportRetired_store]

theorem retireJournal_staged (k : Nat) (c : RetireCause) (s : State) :
    (offer (storeFaultBody k c) (s.retiresJ k)).journal.staging <+: (retireJournal k c s).journal.staging :=
  journalRetired_staged k (reportRetired k c (s.retiresJ k))

/-- The STORE occurrences of a journal sector's retirement (R166, R168). -/
theorem retireJournal_stalls (k : Nat) (c : RetireCause) (hl : u.link = s.link) (hs : u.store.stalled = s.store.stalled)
    (hj : u.journal.writer = s.journal.writer) : stallsAfter ([.sector k c] ++
      if s.journal.writer ≠ .fault ∧ (retireJournal k c u).journal.writer = .fault then [.journalFault] else [])
      s (retireJournal k c u) := by
  have begins : stallsAfter [] s (u.retiresJ k) :=
    (stallsAfter.refl s).same (by rw [← hl]; rfl) (by rw [← hs]; rfl)
  have offered : stallsAfter [] s (offer (storeFaultBody k c) (u.retiresJ k)) :=
    begins.inner (offer_posts _ _) (by simp)
  have report : (reportRetired k c (u.retiresJ k)).journal.writer = s.journal.writer :=
    ((Journal.takesIn.offer (storeFaultBody k c) (u.retiresJ k)).writer.trans rfl).trans hj
  have stalled : (offer (storeFaultBody k c) (u.retiresJ k)).store.stalled = s.store.stalled := by
    rw [(offer_frame _ _).2.2.2.2.2.2.2.2.2.2.1]; exact hs
  have retired := ((offered.posted (.sector k c) stalled).journalRetired stalled k)
  rw [show (post .store (.sector k c) (offer (storeFaultBody k c) (u.retiresJ k))).journal.writer = s.journal.writer from report]
    at retired
  exact retired.same

/-- What the STORE occurrences are at the end of the step. -/
theorem storePosts_finish {ret : Option (Nat × RetireCause)} {l : List Detail} (h : stallsAfter l s v)
    (hl : l = ret.toList.map (fun e => .sector e.1 e.2) ++
      (if s.store.readOnly = false ∧ v.store.readOnly = true then [.readOnly] else []) ++
      if s.journal.writer ≠ .fault ∧ v.journal.writer = .fault then [.journalFault] else []) :
    storePosts ret s (finish v) := by
  unfold storePosts
  rw [finish_readOnly, (finish_part v (p := .journal) nofun nofun : _ = _), ← hl]
  exact h.finish

/-- The part neither becomes read-only nor comes into FAULT. -/
theorem storePosts_none (h : stallsAfter [] s v) (hr : v.store.readOnly = s.store.readOnly)
    (hj : s.journal.writer ≠ .fault → v.journal.writer ≠ .fault) : storePosts none s (finish v) := by
  refine storePosts_finish h ?_
  rw [hr, if_neg fun g => by rw [g.1] at g; exact absurd g.2 nofun, if_neg fun g => hj g.1 g.2]
  simp

/-! ### Journal programs -/

theorem working_of_run (h : s.power.state = .run) : s.working = true := by unfold State.working; rw [h]

theorem testDrainEnd_running (h : s.power.state = .run) : testDrainEnd s = s := by
  have draining : s.draining = false := by unfold State.draining; rw [h]; rfl
  unfold testDrainEnd
  split
  · rfl
  · rw [draining]; rfl

theorem exec_journalProgramComplete {r : JRec} (sound : Bool) (hw : s.working = true)
    (he : s.store.engine = .programming (.journal k r)) : exec (.journalProgramComplete sound) s =
      .next (finish (testDrainEnd (if sound = true then journalProgrammed k r (freeEngine s) else spoilJournal k (freeEngine s)))) := by
  show execJournalProgramComplete sound s = _
  unfold execJournalProgramComplete programCompletes
  rw [he, hw]
  rfl

theorem postLevel_notice (old new : Nat) (s : State) : (postLevel old new s).link.notices.get .journal =
    (levelPosts old new).foldl Notice.occur (s.link.notices.get .journal) := by
  show (if old < 9856 ∧ 9856 ≤ new then post .journal (.near new) s
    else if old < 5632 ∧ 5632 ≤ new then post .journal (.half new) s else s).link.notices.get .journal = _
  unfold levelPosts
  by_cases near : old < 9856 ∧ 9856 ≤ new
  · rw [if_pos near, if_pos near]
    exact post_notice_self _ _ _
  · rw [if_neg near, if_neg near]
    by_cases half : old < 5632 ∧ 5632 ≤ new
    · rw [if_pos half, if_pos half]
      exact post_notice_self _ _ _
    · rw [if_neg half, if_neg half]; rfl

theorem postLevel_posts (old new : Nat) (s : State) : s.link.posts [.journal] (postLevel old new s).link := by
  unfold postLevel
  split
  · exact post_posts (by simp) _ _
  · split
    · exact post_posts (by simp) _ _
    · exact Link.posts_refl _ _

theorem queuesOnly_finish (hq : u.store.queue = s.store.queue) (hw : u.store.waiting = s.store.waiting) :
    queuesOnly [] s (finish u) :=
  queuesOnly_trans (t := u) (fun k _ => ⟨by unfold Store.contents; rw [hq], by rw [hw]⟩)
    (alters.refl [] [] [] u).changesOnly.changes

/-- The state with a record in the next slot of a journal sector, out of the staging queue, and space signalled. -/
def State.journalHolds (k : Nat) (r : JRec) (s : State) : State :=
  journalSpace ((s.onStore fun t => t.modJ k (Sector.program (some r))).onJournal fun j =>
    { j with staging := j.staging.drop 1, newest := r.seq, oldest := some (min (j.oldest.getD r.seq) r.seq) })

/-- The state a sound journal program leaves before the head-full test. -/
def State.journalLands (k : Nat) (r : JRec) (s : State) : State :=
  postLevel s.journal.uncollected (r.seq - s.journal.mark) (s.journalHolds k r)

theorem journalProgrammed_eq (k : Nat) (r : JRec) (s : State) : journalProgrammed k r s = testHead (s.journalLands k r) := rfl

theorem journalLands_store (k : Nat) (r : JRec) (s : State) :
    (s.journalLands k r).store = s.store.modJ k (Sector.program (some r)) := by
  unfold State.journalLands; rw [(postLevel_frame _ _ _).2.2.2.2.2.2.2.2.2.2.2.1]; rfl

theorem journalLands_journal (k : Nat) (r : JRec) (s : State) : (s.journalLands k r).journal = { s.journal with
    staging := s.journal.staging.drop 1, newest := r.seq, oldest := some (min (s.journal.oldest.getD r.seq) r.seq) } := by
  unfold State.journalLands; rw [(postLevel_frame _ _ _).2.2.2.2.2.2.2.2.2.2.1]; rfl

theorem program_spoiledCount {α : Type} (c : Sector α) : (Sector.program none c).spoiledCount = c.spoiledCount + 1 := by
  simp [Sector.program, Sector.spoiledCount]

/-- A sector with a slot has a further one until its last. -/
theorem program_hasSlot {α : Type} {c : Sector α} (x : Option α) (h : c.hasSlot = true) (hl : c.cells.length ≤ 126) :
    (c.program x).hasSlot = true := by
  simp only [Sector.hasSlot, Sector.program, Bool.and_eq_true, decide_eq_true_eq, List.length_append] at h ⊢
  exact ⟨h.1, by simp only [Config.sectorSlots, List.length_singleton]; omega⟩

theorem program_full {α : Type} {c : Sector α} (x : Option α) (hl : c.cells.length = 127) : (c.program x).hasSlot = false := by
  simp [Sector.hasSlot, Sector.program, hl, Config.sectorSlots]

theorem modJ_program_jsec (t : Store) (k i : Nat) (x : Option JRec) : (t.modJ k (Sector.program x)).jsec i =
    if i = k then (t.jsec k).program x else t.jsec i := Store.jsec_modJ _ _ _ _

theorem modJ_program_retired (t : Store) (k i : Nat) (x : Option JRec) :
    ((t.modJ k (Sector.program x)).jsec i).retired = (t.jsec i).retired := by
  rw [modJ_program_jsec]; split
  · next h => rw [h]; rfl
  · rfl

end

end Sys2Proof.Machine
/-! ## The end of a journal program (R140, R141, R150, R156, R166) -/

namespace Sys2Proof.Machine

set_option Elab.async false

section
variable {s : State} {k : Nat} {r : JRec}

/-- What a sound journal program leaves, whatever becomes of the head. -/
structure landsSound (k : Nat) (r : JRec) (s u : State) : Prop where
  store : u.store = { s.store with engine := .idle }.modJ k (Sector.program (some r))
  journal : u.journal = { s.journal with
    staging := s.journal.staging.drop 1, newest := r.seq, oldest := some (min (s.journal.oldest.getD r.seq) r.seq) }
  signals : u.signals = { s.signals with minibar := true, credential := true, overrun := true }
  kept : keepsBut [.journal, .store, .link, .signals] s u
  notice : u.link.notices.get .journal =
    (levelPosts (s.journal.newest - s.journal.mark) (r.seq - s.journal.mark)).foldl Notice.occur (s.link.notices.get .journal)
  stalls : stallsAfter [] s u
  posts : s.link.posts [.journal] u.link

theorem keepsBut_postLevel (old new : Nat) (s : State) : keepsBut [.journal, .store, .link, .signals] s (postLevel old new s) := by
  have posts : ∀ d, keepsBut [.journal, .store, .link, .signals] s (post .journal d s) := fun d p hp => by
    cases p <;> first | rfl | exact absurd (by simp) hp
  unfold postLevel
  split
  · exact posts _
  · split
    · exact posts _
    · exact keepsBut_refl _ s

theorem landsSound_journalLands (k : Nat) (r : JRec) (s : State) : landsSound k r s ((freeEngine s).journalLands k r) := by
  have posts : s.link.posts [.journal] ((freeEngine s).journalLands k r).link :=
    postLevel_posts _ _ ((freeEngine s).journalHolds k r)
  have kept : keepsBut [.journal, .store, .link, .signals] s ((freeEngine s).journalLands k r) := by
    have holds : keepsBut [.journal, .store, .link, .signals] s ((freeEngine s).journalHolds k r) := fun p hp => by
      cases p <;> first | (simp at hp; done) | rfl
    exact keepsBut_trans holds (keepsBut_postLevel _ _ _)
  have signals : ((freeEngine s).journalLands k r).signals = { s.signals with
      minibar := true, credential := true, overrun := true } :=
    (postLevel_frame _ _ ((freeEngine s).journalHolds k r)).2.2.2.2.2.2.2.2.2.2.2.2.1
  have store : ((freeEngine s).journalLands k r).store = { s.store with engine := .idle }.modJ k (Sector.program (some r)) :=
    journalLands_store k r (freeEngine s)
  exact ⟨store, journalLands_journal k r (freeEngine s), signals, kept, postLevel_notice _ _ ((freeEngine s).journalHolds k r),
    (stallsAfter.refl s).inner posts (by rw [store]; rfl), posts⟩

theorem landsSound.ready (h : landsSound k r s u) (hk : s.journal.spare ≠ k) :
    headReady (levelPosts (s.journal.newest - s.journal.mark) (r.seq - s.journal.mark)) s u := by
  refine ⟨by rw [h.journal], ?_, fun i => ?_, h.kept .settings (by simp), h.kept .clock (by simp), by rw [h.store]; rfl,
    by rw [h.store]; rfl, h.notice⟩
  · rw [h.store, modJ_program_jsec, if_neg hk]; rfl
  · rw [h.store, modJ_program_retired]; rfl

theorem jsec_congr {t u : Store} (h : u.jreg = t.jreg) (i : Nat) : u.jsec i = t.jsec i := by unfold Store.jsec; rw [h]

/-- A sound journal program (R141, R150). -/
theorem soundJournalProgram {base : Journal} {posts : List Detail} (hr : s.power.state = .run)
    (he : s.store.engine = .programming (.journal k r)) (hk : k = s.journal.head) (hs : (s.store.jsec k).hasSlot = true)
    (hb : base = { s.journal with
      staging := s.journal.staging.drop 1, newest := r.seq
      oldest := some (match s.journal.oldest with
        | none => r.seq
        | some q => min q r.seq) })
    (hp : posts = levelPosts (s.journal.newest - s.journal.mark) (r.seq - s.journal.mark)) :
    ∃ t, exec (.journalProgramComplete true) s = .next t ∧
      t.signals = { s.signals with minibar := true, credential := true, overrun := true } ∧
      t.store.jsec k = { s.store.jsec k with cells := (s.store.jsec k).cells ++ [some r] } ∧
      (∀ i, i ≠ k → t.store.jsec i = s.store.jsec i) ∧ t.store.tlog = s.store.tlog ∧
      t.store.idPlaces = s.store.idPlaces ∧ t.store.identity = s.store.identity ∧ storePosts none s t ∧
      keepsBut [.journal, .store, .link, .signals] s t ∧
      (((s.store.jsec k).cells.length ≤ 126 ∨ s.journal.writer = .fault) →
        t.journal = base ∧ postedAll .journal posts s t ∧ queuesOnly [] s t) ∧
      ((s.store.jsec k).cells.length = 127 → s.journal.writer ≠ .fault → s.journal.spare ≠ k →
        headFilled base posts s t) := by
  obtain ⟨u, hu⟩ : ∃ u, (freeEngine s).journalLands k r = u := ⟨_, rfl⟩
  have lands : landsSound k r s u := hu ▸ landsSound_journalLands k r s
  have journal : u.journal = base := by
    rw [lands.journal, hb]
    cases s.journal.oldest with
    | none => simp
    | some q => rfl
  have altered : alters [.journalState] [.journal] [.journal] u (testHead u) := (alters.refl _ _ _ u).testHead
  have ends := altered.changesOnly
  have run : exec (.journalProgramComplete true) s = .next (finish (testHead u)) := by
    have power : (testHead u).power.state = .run := by
      rw [(testHead_frame u).1, (lands.kept .power (by simp) : u.power = s.power), hr]
    rw [exec_journalProgramComplete true (working_of_run hr) he, if_pos rfl, journalProgrammed_eq, hu,
      testDrainEnd_running power]
  have sector : ∀ i, (finish (testHead u)).store.jsec i = if i = k then (s.store.jsec k).program (some r) else s.store.jsec i :=
    fun i => (jsec_congr ends.cells.jreg i).trans (by rw [lands.store, modJ_program_jsec]; rfl)
  have full : u.headFull = !(Sector.program (some r) (s.store.jsec k)).hasSlot := by
    unfold State.headFull
    rw [lands.journal, ← hk, lands.store, modJ_program_jsec, if_pos rfl]; rfl
  refine ⟨_, run, ?_, (sector k).trans (if_pos rfl), fun i hi => (sector i).trans (if_neg hi), ?_, ?_, ?_, ?_, ?_, fun h => ?_,
    fun hl hw hsp => ?_⟩
  · exact (ends.rest .signals (by simp) : _ = _).trans lands.signals
  · exact ends.cells.tlog.trans (by rw [lands.store]; rfl)
  · exact ends.cells.idPlaces.trans (by rw [lands.store]; rfl)
  · exact ends.cells.identity.trans (by rw [lands.store]; rfl)
  · refine storePosts_none lands.stalls.testHead (altered.cells.readOnly.trans (by rw [lands.store]; rfl)) fun hw => ?_
    exact testHead_writer (by rw [lands.journal]; exact hw)
  · exact keepsBut_trans lands.kept (keepsBut_mono (by simp) ends.rest)
  · have early : testHead u = u := testHead_early <| h.imp
      (fun hl => by rw [full, program_hasSlot _ hs hl]; rfl) fun hw => by rw [lands.journal]; exact hw
    rw [early]
    refine ⟨(finish_part u (p := .journal) nofun nofun : _ = _).trans journal, postedAll_finish nofun (hp ▸ lands.notice),
      queuesOnly_finish (by rw [lands.store]; rfl) (by rw [lands.store]; rfl)⟩
  · rw [← journal, hp]
    exact headFilled_testHead (lands.ready hsp) (by rw [full, program_full _ hl]; rfl) (by rw [lands.journal]; exact hw)

/-! ### A failed program -/

/-- The state with a journal slot spoiled. -/
def State.spoiledJ (k : Nat) (s : State) : State := s.onStore fun t => { t with engine := .idle }.modJ k (Sector.program none)

theorem spoilJournal_eq (k : Nat) (s : State) : spoilJournal k (freeEngine s) =
    if 2 ≤ (s.store.jsec k).spoiledCount ∧ (s.store.jsec k).retired = false
      then retireJournal k .spoiledSlots (s.spoiledJ k) else testHead (s.spoiledJ k) := by
  have sector : (s.spoiledJ k).store.jsec k = (s.store.jsec k).program none := (modJ_program_jsec _ _ _ _).trans (if_pos rfl)
  show (if 3 ≤ ((s.spoiledJ k).store.jsec k).spoiledCount && !((s.spoiledJ k).store.jsec k).retired then _ else _) = _
  rw [sector, program_spoiledCount]
  by_cases h : 2 ≤ (s.store.jsec k).spoiledCount ∧ (s.store.jsec k).retired = false
  · rw [if_pos h, if_pos (by
      rw [show (Sector.program none (s.store.jsec k)).retired = _ from h.2, decide_eq_true (by omega)]; rfl)]
    rfl
  · rw [if_neg h, if_neg fun g => h ?_]
    · rfl
    · simp only [Bool.and_eq_true, decide_eq_true_eq, Bool.not_eq_true'] at g
      exact ⟨by omega, g.2⟩

end

end Sys2Proof.Machine
/-! ## The end of a failed journal program (R141, R156, R166, R168) -/

namespace Sys2Proof.Machine

set_option Elab.async false

section
variable {s : State} {k : Nat} {r : JRec}

theorem spoiledJ_jsec (k i : Nat) (s : State) : (s.spoiledJ k).store.jsec i =
    if i = k then (s.store.jsec k).program none else s.store.jsec i := modJ_program_jsec _ _ _ _

/-- What a failed journal program leaves before the head and the spare are looked at: its slot spoiled, and the sector
retired with its third. -/
structure spoils (k : Nat) (s w : State) : Prop where
  store : w.store = { s.store with engine := .idle, jreg := w.store.jreg }
  link : w.link = s.link
  kept : keepsBut [.store] s w
  sector : w.store.jsec k = { (s.store.jsec k).program none with
    retired := (s.store.jsec k).retired || decide (2 ≤ (s.store.jsec k).spoiledCount) }
  others : ∀ i, i ≠ k → w.store.jsec i = s.store.jsec i

theorem spoilJournal_spoils (k : Nat) (s : State) : ∃ w, spoils k s w ∧
    alters [.journalState] [.journal] [.journal, .store] w (spoilJournal k (freeEngine s)) := by
  rw [spoilJournal_eq]
  have kept : ∀ f, keepsBut [.store] s (s.onStore f) := fun f p hp => by
    cases p <;> first | (simp at hp; done) | rfl
  by_cases h : 2 ≤ (s.store.jsec k).spoiledCount ∧ (s.store.jsec k).retired = false
  · rw [if_pos h]
    refine ⟨(s.spoiledJ k).retiresJ k, ⟨rfl, rfl, keepsBut_trans (t := s.spoiledJ k) (kept _) ?_, ?_, fun i hi => ?_⟩, alters_retireJournal _ _ _⟩
    · exact fun p hp => by cases p <;> first | (simp at hp; done) | rfl
    · rw [retiresJ_jsec, if_pos rfl, spoiledJ_jsec, if_pos rfl, h.2, decide_eq_true h.1]; rfl
    · rw [retiresJ_jsec, if_neg hi, spoiledJ_jsec, if_neg hi]
  · rw [if_neg h]
    refine ⟨s.spoiledJ k, ⟨rfl, rfl, kept _, ?_, fun i hi => ?_⟩, (alters.refl _ _ _ _).testHead⟩
    · rw [spoiledJ_jsec, if_pos rfl]
      have : ((s.store.jsec k).retired || decide (2 ≤ (s.store.jsec k).spoiledCount)) = (s.store.jsec k).retired := by
        cases hr : (s.store.jsec k).retired with
        | true => rfl
        | false => rw [decide_eq_false fun g => h ⟨g, hr⟩]; rfl
      rw [this]; rfl
    · rw [spoiledJ_jsec, if_neg hi]

theorem exec_failedJournalProgram {c : Instr} (hw : s.working = true) (he : s.store.engine = .programming (.journal k r))
    (hc : c = .journalProgramComplete false ∨ c = .programTimeout) :
    exec c s = .next (finish (testDrainEnd (spoilJournal k (freeEngine s)))) := by
  have complete := exec_journalProgramComplete false hw he
  rcases hc with rfl | rfl
  · exact complete
  · refine Eq.trans ?_ complete
    show execProgramTimeout s = execJournalProgramComplete false s
    unfold execProgramTimeout execJournalProgramComplete
    rw [he]

theorem spoiledJ_stalls (k : Nat) (s : State) : stallsAfter [] s (s.spoiledJ k) := (stallsAfter.refl s).same

/-- With fewer than three spoiled slots the head-full test is all that follows. -/
theorem spoilJournal_usable (h : (s.store.jsec k).spoiledCount ≤ 1) :
    spoilJournal k (freeEngine s) = testHead (s.spoiledJ k) := by
  rw [spoilJournal_eq, if_neg fun g => by omega]

theorem spoilJournal_retires (h : (s.store.jsec k).spoiledCount = 2) (hr : (s.store.jsec k).retired = false) :
    spoilJournal k (freeEngine s) = retireJournal k .spoiledSlots (s.spoiledJ k) := by
  rw [spoilJournal_eq, if_pos ⟨h.ge, hr⟩]

/-- A failed journal program (R141, R166, R168). -/
theorem failedJournalProgram {c : Instr} (hr : s.power.state = .run) (he : s.store.engine = .programming (.journal k r))
    (hc : c = .journalProgramComplete false ∨ c = .programTimeout) :
    ∃ t, exec c s = .next t ∧ (t.store.jsec k).cells = (s.store.jsec k).cells ++ [none] ∧
      (∀ i, i ≠ k → t.store.jsec i = s.store.jsec i) ∧ t.store.tlog = s.store.tlog ∧
      t.store.idPlaces = s.store.idPlaces ∧ t.store.identity = s.store.identity ∧
      queuesOnly [.journalState] s t ∧ keepsBut [.journal, .store, .link] s t ∧
      ((s.store.jsec k).spoiledCount ≤ 1 → (t.store.jsec k).retired = (s.store.jsec k).retired ∧ storePosts none s t) ∧
      ((s.store.jsec k).spoiledCount ≤ 1 → (s.store.jsec k).cells.length ≤ 126 → k = s.journal.head →
        (s.store.jsec k).hasSlot = true → t.journal = s.journal ∧ (t.store.jsec k).retired = false) ∧
      ((s.store.jsec k).spoiledCount ≤ 1 → (s.store.jsec k).cells.length = 127 → k = s.journal.head →
        (s.store.jsec k).hasSlot = true → s.journal.writer ≠ .fault → s.journal.spare ≠ k →
        headFilled s.journal [] s t) ∧
      ((s.store.jsec k).spoiledCount = 2 → (t.store.jsec k).retired = true ∧
        ((s.store.jsec k).retired = false → storePosts (some (k, .spoiledSlots)) s t ∧
          (s.journal.writer ≠ .fault → (t.journal.writer = .fault ↔ t.store.usableJournal < 2))) ∧
        (s.journal.writer ≠ .fault → s.journal.nextSeq < max32 → s.journal.owed = false →
          s.journal.staging.length ≤ 55 → (s.store.jsec k).retired = false →
          ∃ x ∈ t.journal.staging, x.seq = s.journal.nextSeq ∧
            x.body = ⟨.storeFault, none, none, none, .num k, .retire .spoiledSlots, .none⟩)) := by
  obtain ⟨w, sp, altered⟩ := spoilJournal_spoils k s
  obtain ⟨v, hv⟩ : ∃ v, spoilJournal k (freeEngine s) = v := ⟨_, rfl⟩
  rw [hv] at altered
  have ends := altered.changesOnly
  have run : exec c s = .next (finish v) := by
    rw [exec_failedJournalProgram (working_of_run hr) he hc, hv, testDrainEnd_running]
    rw [(altered.rest .power (by simp) : _ = _), (sp.kept .power (by simp) : _ = _), hr]
  have sector : ∀ i, (finish v).store.jsec i = w.store.jsec i := jsec_congr ends.cells.jreg
  have journal : (finish v).journal = v.journal := finish_part v (p := .journal) nofun nofun
  have readOnly : v.store.readOnly = s.store.readOnly := altered.cells.readOnly.trans (by rw [sp.store])
  refine ⟨_, run, ?_, fun i hi => (sector i).trans (sp.others i hi), ?_, ?_, ?_, ?_, ?_, fun hn => ⟨?_, ?_⟩,
    fun hn hl hk hs => ⟨?_, ?_⟩, fun hn hl hk hs hw hsp => ?_, fun hn => ⟨?_, fun hret => ⟨?_, fun hw => ?_⟩,
    fun hw hnext how hst hret => ?_⟩⟩
  · rw [sector, sp.sector]; rfl
  · exact ends.cells.tlog.trans (by rw [sp.store])
  · exact ends.cells.idPlaces.trans (by rw [sp.store])
  · exact ends.cells.identity.trans (by rw [sp.store])
  · refine queuesOnly_trans (t := w) (fun q _ => ⟨?_, ?_⟩) ends.changes
    · unfold Store.contents; rw [sp.store]
    · rw [sp.store]
  · exact keepsBut_trans (keepsBut_mono (by simp) sp.kept) (keepsBut_mono (by simp) ends.rest)
  · rw [sector, sp.sector, decide_eq_false (by omega), Bool.or_false]
  · rw [spoilJournal_usable hn] at hv
    subst hv
    exact storePosts_none (spoiledJ_stalls k s).testHead readOnly fun hw => testHead_writer (u := s.spoiledJ k) hw
  · have full : (s.spoiledJ k).headFull = false := by
      unfold State.headFull
      rw [show (s.spoiledJ k).journal.head = k from hk.symm, spoiledJ_jsec, if_pos rfl, program_hasSlot _ hs hl]; rfl
    rw [journal, ← hv, spoilJournal_usable hn, testHead_early (.inl full)]; rfl
  · rw [sector, sp.sector, decide_eq_false (by omega), Bool.or_false]
    simp only [Sector.hasSlot, Bool.and_eq_true, Bool.not_eq_true'] at hs
    exact hs.1.1.1
  · have full : (s.spoiledJ k).headFull = true := by
      unfold State.headFull
      rw [show (s.spoiledJ k).journal.head = k from hk.symm, spoiledJ_jsec, if_pos rfl, program_full _ hl]; rfl
    have ready : headReady [] s (s.spoiledJ k) := ⟨rfl, by rw [spoiledJ_jsec, if_neg hsp], fun i => by
      rw [spoiledJ_jsec]; split
      · next h => rw [h]; rfl
      · rfl, rfl, rfl, rfl, rfl, rfl⟩
    rw [← hv, spoilJournal_usable hn]
    exact headFilled_testHead ready full hw
  · rw [sector, sp.sector, hn]; simp
  · rw [spoilJournal_retires hn hret] at hv
    subst hv
    refine storePosts_finish (retireJournal_stalls k .spoiledSlots (s := s) (u := s.spoiledJ k) rfl rfl rfl) ?_
    rw [readOnly, if_neg fun (g : s.store.readOnly = false ∧ s.store.readOnly = true) => by rw [g.1] at g; exact absurd g.2 nofun]
    simp
  · rw [spoilJournal_retires hn hret] at hv
    have usable : (finish v).store.usableJournal = ((s.spoiledJ k).retiresJ k).store.usableJournal := by
      unfold Store.usableJournal
      have same : ∀ i, (finish v).store.jsec i = ((s.spoiledJ k).retiresJ k).store.jsec i := fun i => by
        rw [← hv]
        exact jsec_congr (alters_retireJournal k .spoiledSlots (s.spoiledJ k)).changesOnly.cells.jreg i
      simp only [same]
    rw [journal, usable, ← hv, retireJournal_writer]
    exact or_iff_right hw
  · rw [spoilJournal_retires hn hret] at hv
    have staged := retireJournal_staged k .spoiledSlots (s.spoiledJ k)
    rw [hv, offer_accepted (s := (s.spoiledJ k).retiresJ k) hw hnext.le how hst, acceptRec_recorded (s := (s.spoiledJ k).retiresJ k) hw hnext] at staged
    rw [journal]
    exact ⟨_, staged.subset (List.mem_append_right _ (List.mem_singleton.2 rfl)), rfl, rfl⟩

end

/-- Settles O57: `soundJournalProgram`, `failedJournalProgram`, and the failure that PROGRAM_TIMEOUT is. -/
theorem journalProgramsComplete : Obligations.JournalProgramsComplete := by
  refine ⟨fun s k r base posts hr he hk hs hb hp => soundJournalProgram hr he hk hs hb hp,
    fun s k r c hr he hc => failedJournalProgram hr he hc, fun s p he => ?_⟩
  show execProgramTimeout s = _
  unfold execProgramTimeout
  rw [he]
  cases p with
  | journal => show _ = execJournalProgramComplete false s; unfold execJournalProgramComplete; rw [he]
  | table => show _ = execTableLogProgramComplete false s; unfold execTableLogProgramComplete; rw [he]
  | copy => show _ = execCopyForwardComplete false s; unfold execCopyForwardComplete; rw [he]
  | identity => show _ = execIdentityProgramComplete false s; unfold execIdentityProgramComplete; rw [he]

end Sys2Proof.Machine
/-! ## POWER_DOWN and the end of the drain (R191) -/

namespace Sys2Proof.Machine

set_option Elab.async false

section
variable {s t u v : State} {d : DrainInfo}

theorem mem_minibars_iff (s : State) (n : Node) :
    (∃ i a, (i, a, n) ∈ s.minibars) ↔ ∃ k, (k, n) ∈ s.nodes ∧ n.entry.kind = .minibar := by
  simp only [State.minibars, List.mem_map, mem_sortBy, List.mem_filter, decide_eq_true_eq, Prod.mk.injEq]
  constructor
  · rintro ⟨i, a, ⟨k, m⟩, ⟨hm, hk⟩, rfl, rfl, rfl⟩
    exact ⟨k, hm, hk⟩
  · rintro ⟨k, hm, hk⟩
    exact ⟨_, _, ⟨k, n⟩, ⟨hm, hk⟩, rfl, rfl, rfl⟩

/-- No minibar has a line pending. -/
theorem barsEmpty_iff (s : State) : (s.minibars.all fun e => e.2.2.bar.lines.isEmpty) = true ↔
    ∀ e ∈ s.nodes, e.2.entry.kind = .minibar → e.2.bar.lines = [] := by
  rw [List.all_eq_true]
  constructor
  · intro h e he hk
    obtain ⟨i, a, hm⟩ := (mem_minibars_iff s e.2).2 ⟨e.1, he, hk⟩
    simpa using h _ hm
  · intro h e he
    obtain ⟨k, hm, hk⟩ := (mem_minibars_iff s e.2.2).1 ⟨e.1, e.2.1, he⟩
    simpa using h _ hm hk

/-! ### The conditions of POWER_DOWN -/

theorem drained_iff (t : Store) : t.drained = true ↔ t.queue = [] ∧ t.waiting = [] := by simp [Store.drained]

theorem journalStuck_iff (s : State) :
    s.journalStuck = true ↔ s.journal.writer = .fault ∨ s.headFull = true ∧ s.spareSec.erased = false := by
  simp [State.journalStuck]

/-- The drain has nothing left to do (R191): the lines, the job, the tables and, whatever waits, the minibars. -/
theorem drainDone_intro (hl : ∀ i, (s.line i).running = false) (hj : s.enc.job = none)
    (ht : s.store.queue = [] ∧ s.store.waiting = [] ∨ s.store.stalled = true)
    (hb : s.journal.writer = .fault ∨ ∀ e ∈ s.nodes, e.2.entry.kind = .minibar → e.2.bar.lines = [])
    (hs : s.journal.staging.length ≤ 54 ∨ s.journalStuck = true) : s.drainDone = true := by
  have lines : (allLines.all fun i => !(s.line i).running) = true := by simp [hl]
  have job : s.jobAtRest = true := by unfold State.jobAtRest; rw [hj]
  have bars : s.barsAtRest = true := by
    unfold State.barsAtRest
    rcases hb with hw | hb
    · have shut : s.journal.shut = true := s.journal.shut_iff.2 (.inl hw)
      refine List.all_eq_true.2 fun e _ => ?_
      simp [State.lineAtRest, Journal.takesMoney, State.stagingCannotCome, shut]
    · have := (barsEmpty_iff s).2 hb
      rw [List.all_eq_true] at this ⊢
      exact fun e he => by rw [this e he]; rfl
  have tables : (s.store.drained || s.store.stalled) = true := by
    rcases ht with h | h
    · rw [(drained_iff _).2 h]; rfl
    · rw [h, Bool.or_true]
  have staging : (decide (s.journal.staging.length ≤ 54) || s.journalStuck) = true := by
    rcases hs with h | h
    · rw [decide_eq_true h]; rfl
    · rw [h, Bool.or_true]
  unfold State.drainDone
  rw [lines, job, bars, tables, staging]; rfl

/-- What holds POWER_DOWN back. -/
theorem drainDone_false (h : (∃ i, (s.line i).running = true) ∨ (∃ j, s.enc.job = some j ∧ j.outcome = none) ∨
    (s.store.stalled = false ∧ (s.store.queue ≠ [] ∨ s.store.waiting ≠ [])) ∨
    (55 ≤ s.journal.staging.length ∧ s.journal.writer ≠ .fault ∧ (s.headFull = false ∨ s.spareSec.erased = true))) :
    s.drainDone = false := by
  unfold State.drainDone
  rcases h with ⟨i, hi⟩ | ⟨j, hj, ho⟩ | ⟨hst, hq⟩ | ⟨hn, hw, hf⟩
  · have : (allLines.all fun i => !(s.line i).running) = false :=
      List.all_eq_false.2 ⟨i, by cases i <;> decide, by rw [hi]; decide⟩
    rw [this]; rfl
  · have : s.jobAtRest = false := by unfold State.jobAtRest; rw [hj]; dsimp only; rw [ho]
    simp [this]
  · have : s.store.drained = false := Bool.eq_false_iff.2 fun g => by
      rw [drained_iff] at g; exact hq.elim (fun h => h g.1) fun h => h g.2
    simp [this, hst]
  · have : s.journalStuck = false := Bool.eq_false_iff.2 fun g => by
      rcases (journalStuck_iff s).1 g with g | ⟨g1, g2⟩
      · exact hw g
      · rcases hf with h | h
        · rw [h] at g1; cases g1
        · rw [h] at g2; cases g2
    rw [this, decide_eq_false (by omega)]; simp

/-! ### The end of the drain -/

theorem draining_of (h : s.power.state = .draining) : s.draining = true := by unfold State.draining; rw [h]; rfl

theorem testDrainEnd_over (h : s.power.state = .draining) (hd : s.power.drain = some d) (ho : d.offered = true)
    (he : d.ended = false) (hover : s.drainOver d = true) : testDrainEnd s = endDrain d s := by
  unfold testDrainEnd
  rw [hd]
  dsimp only
  rw [draining_of h, ho, he, hover]; rfl

theorem testDrainEnd_goesOn (hd : s.power.drain = some d) (hover : s.drainOver d = false) : testDrainEnd s = s := by
  unfold testDrainEnd
  rw [hd]
  dsimp only
  rw [hover, Bool.and_false]; rfl

theorem alters.endDrain {K : List EntryKey} {P : List Part} {C : List NoticeClass} (h : alters K P C s t) (d : DrainInfo)
    (hp : Part.power ∈ P := by simp) (he : Part.enc ∈ P := by simp) (hc : NoticeClass.power ∈ C := by simp) :
    alters K P C s (endDrain d t) := by
  unfold Machine.endDrain
  dsimp only
  split
  · exact ((h.post _ _ hc).onPower _ hp).onEnc _ he
  · exact (h.post _ _ hc).onPower _ hp

/-- What the end of the drain leaves (R191, R193). -/
structure drainEnds (d : DrainInfo) (s t : State) : Prop where
  told : posted .power .parked s t
  parked : s.power.pfw = true → t.power = { s.power with state := .parked, drain := none } ∧ t.enc.job = none
  waits : s.power.pfw = false → t.power = { s.power with drain := some { d with ended := true } } ∧ t.enc = s.enc

theorem drainEnds_finish (hp : v.power = s.power) (he : v.enc = s.enc)
    (hn : v.link.notices.get .power = s.link.notices.get .power) : drainEnds d s (finish (endDrain d v)) := by
  have power : (finish (endDrain d v)).power = (endDrain d v).power := finish_part _ (p := .power) nofun nofun
  have enc : (finish (endDrain d v)).enc = (endDrain d v).enc := finish_part _ (p := .enc) nofun nofun
  have pfw : (post .power .parked v).power.pfw = s.power.pfw := congrArg PowerUnit.pfw hp
  have notice : (endDrain d v).link.notices.get .power = (s.link.notices.get .power).occur .parked := by
    rw [← hn, ← post_notice_self]
    unfold endDrain; dsimp only; split <;> rfl
  refine ⟨posted_finish nofun notice, fun h => ?_, fun h => ?_⟩
  · have ends : endDrain d v = ((post .power .parked v).onPower fun p => { p with state := .parked, drain := none }).onEnc
        fun e => { e with job := none, headOp := none } := if_pos (pfw.trans h)
    rw [power, enc, ends, ← hp]
    exact ⟨rfl, rfl⟩
  · have ends : endDrain d v = (post .power .parked v).onPower fun p => { p with drain := some { d with ended := true } } :=
      if_neg (by rw [pfw, h]; exact Bool.false_ne_true)
    rw [power, enc, ends, ← hp, ← he]
    exact ⟨rfl, rfl⟩

end

end Sys2Proof.Machine
/-! ## POWER_DOWN is offered, and the drain ends (R191) -/

namespace Sys2Proof.Machine

set_option Elab.async false

section
variable {s t u v w : State} {d : DrainInfo} {k : Nat} {r : JRec}

theorem working_of_draining (h : s.power.state = .draining) (hd : s.power.drain = some d) (he : d.ended = false) :
    s.working = true := by
  unfold State.working
  rw [h, hd]
  exact congrArg not he

/-- What journal and store say of a part that can program nothing further. -/
theorem journalStuck_congr (hs : t.store.jreg = s.store.jreg) (hw : t.journal.writer = s.journal.writer)
    (hh : t.journal.head = s.journal.head) (hp : t.journal.spare = s.journal.spare) : t.journalStuck = s.journalStuck := by
  unfold State.journalStuck State.headFull State.spareSec
  rw [hw, hh, hp, jsec_congr hs, jsec_congr hs]

theorem exec_powerDown (h : s.power.state = .draining) (hd : s.power.drain = some d) (ho : d.offered = false)
    (hdone : s.drainDone = true) : exec .powerDown s = .next (finish (offerPowerDown d s)) := by
  show execPowerDown s = _
  unfold execPowerDown
  rw [hd]
  dsimp only
  rw [draining_of h, ho, hdone]; rfl

theorem drainComplete_iff (s : State) (hj : s.enc.job = none) : s.drainComplete = true ↔
    s.store.queue = [] ∧ s.store.waiting = [] ∧ ∀ e ∈ s.nodes, e.2.entry.kind = .minibar → e.2.bar.lines = [] := by
  unfold State.drainComplete
  rw [hj, Bool.and_eq_true, Bool.and_eq_true, drained_iff, barsEmpty_iff]
  simp [and_assoc]

/-- The state with POWER_DOWN offered. -/
def State.powerDownOffered (d : DrainInfo) (s : State) : State :=
  (offer (powerDownBody d.cause s.drainComplete) s).onPower fun p => { p with
    drain := some { d with offered := true, seq := (offer (powerDownBody d.cause s.drainComplete) s).journal.powerDownSeq } }

theorem offerPowerDown_eq (d : DrainInfo) (s : State) : offerPowerDown d s = testDrainEnd (s.powerDownOffered d) := rfl

theorem powerDownOffered_power (d : DrainInfo) (s : State) : (s.powerDownOffered d).power = { s.power with
    drain := some { d with
      offered := true, seq := (offer (powerDownBody d.cause s.drainComplete) s).journal.powerDownSeq } } := by
  unfold State.powerDownOffered State.onPower; simp

theorem powerDownOffered_stuck (d : DrainInfo) (s : State) : (s.powerDownOffered d).journalStuck = s.journalStuck := by
  have takes := Journal.takesIn.offer (powerDownBody d.cause s.drainComplete) s
  refine journalStuck_congr ?_ takes.writer takes.head takes.spare
  unfold State.powerDownOffered State.onPower; simp

theorem alters_powerDownOffered (d : DrainInfo) (s : State) : alters [] [.power, .enc, .journal] [.power, .journal] s
    (s.powerDownOffered d) := ((alters.refl _ _ _ s).offer _).onPower _

/-- POWER_DOWN accepted while the journal goes on: the drain waits for its program. -/
theorem powerDown_waits (hst : s.journal.staging.length ≤ 54)
    (hw : s.journal.writer ≠ .fault) (ho : s.journal.owed = false) (hn : s.journal.nextSeq < max32)
    (hnew : s.journal.newest < s.journal.nextSeq) (hf : s.headFull = false) :
    offerPowerDown d s = (s.recorded (powerDownBody d.cause s.drainComplete)).onPower fun p =>
      { p with drain := some { d with offered := true, seq := some s.journal.nextSeq } } := by
  have accepted : offer (powerDownBody d.cause s.drainComplete) s = s.recorded (powerDownBody d.cause s.drainComplete) :=
    (offer_accepted hw hn.le ho (by omega)).trans (acceptRec_recorded hw hn)
  have seq : (s.recorded (powerDownBody d.cause s.drainComplete)).journal.powerDownSeq = some s.journal.nextSeq := by
    simp [Journal.powerDownSeq, State.recorded, powerDownBody]
  have offered : s.powerDownOffered d = (s.recorded (powerDownBody d.cause s.drainComplete)).onPower fun p =>
      { p with drain := some { d with offered := true, seq := some s.journal.nextSeq } } := by
    unfold State.powerDownOffered; rw [accepted, seq]
  have stuck : (s.powerDownOffered d).journalStuck = false := by
    rw [powerDownOffered_stuck]
    refine Bool.eq_false_iff.2 fun g => ((journalStuck_iff s).1 g).elim hw fun h => ?_
    rw [hf] at h; exact absurd h.1 nofun
  rw [offerPowerDown_eq, testDrainEnd_goesOn (d := { d with offered := true, seq := some s.journal.nextSeq }), offered]
  · rw [offered]; rfl
  · unfold State.drainOver
    rw [stuck, Bool.false_or]
    dsimp only
    rw [offered]
    exact decide_eq_false (Nat.not_le.2 hnew)

/-- POWER_DOWN offered to a journal that can program nothing further ends the drain. -/
theorem powerDown_ends (h : s.power.state = .draining) (he : d.ended = false) (hstuck : s.journalStuck = true) :
    offerPowerDown d s = endDrain { d with
      offered := true, seq := (offer (powerDownBody d.cause s.drainComplete) s).journal.powerDownSeq } (s.powerDownOffered d) := by
  have power := powerDownOffered_power d s
  rw [offerPowerDown_eq]
  refine testDrainEnd_over (by rw [power]; exact h) (by rw [power]) rfl he ?_
  unfold State.drainOver
  rw [powerDownOffered_stuck, hstuck]; rfl

/-! ### The program that ends the drain -/

/-- A head-full test with a spare that is not erased leaves the journal stuck (R191). -/
theorem testHead_stuck (hf : u.headFull = true) (he : u.spareSec.erased = false) : (testHead u).journalStuck = true := by
  obtain ⟨head, spare⟩ := testHead_stands he
  have jreg : (testHead u).store.jreg = u.store.jreg :=
    (alters.testHead (alters.refl [.journalState] [.journal] [.journal] u)).cells.jreg
  refine (journalStuck_iff _).2 (.inr ⟨?_, ?_⟩)
  · unfold State.headFull at hf ⊢
    rw [head, jsec_congr jreg]; exact hf
  · unfold State.spareSec at he ⊢
    rw [spare, jsec_congr jreg]; exact he

theorem usableJournal_retires (h1 : 40 ≤ k) (h2 : k ≤ 127) (hr : (s.store.jsec k).retired = false) :
    (s.retiresJ k).store.usableJournal < s.store.usableJournal := by
  have usable : ∀ i, (!((s.retiresJ k).store.jsec i).retired) = (!(s.store.jsec i).retired && decide (i ≠ k)) := fun i => by
    rw [retiresJ_jsec]
    by_cases hi : i = k <;> simp [hi]
  have member : k ∈ rangeInc 40 127 := by
    unfold rangeInc
    exact List.mem_map.2 ⟨k - 40, List.mem_range.2 (by omega), by omega⟩
  unfold Store.usableJournal
  simp only [usable]
  rw [← List.filter_filter, List.filter_comm]
  refine List.length_filter_lt_length_iff_exists.2 ⟨k, List.mem_filter.2 ⟨member, by rw [hr]; rfl⟩, by simp⟩

/-- A journal program that fills the head with no erased spare, or takes the last usable sector but one, leaves the
journal stuck. -/
theorem spoilJournal_stuck (hk : k = s.journal.head) (hsp : k ≠ s.journal.spare) (hw : s.journal.writer ≠ .fault)
    (h : (s.spareSec.erased = false ∧ (s.store.jsec k).cells.length = 127) ∨
      ((s.store.jsec k).spoiledCount = 2 ∧ (s.store.jsec k).retired = false ∧ 40 ≤ k ∧ k ≤ 127 ∧ s.store.usableJournal ≤ 2)) :
    (spoilJournal k (freeEngine s)).journalStuck = true := by
  have spare : (s.spoiledJ k).spareSec = s.spareSec := (spoiledJ_jsec k _ s).trans (if_neg hsp.symm)
  rw [spoilJournal_eq]
  by_cases hret : 2 ≤ (s.store.jsec k).spoiledCount ∧ (s.store.jsec k).retired = false
  · rw [if_pos hret]
    by_cases hu : ((s.spoiledJ k).retiresJ k).store.usableJournal < 2
    · exact (journalStuck_iff _).2 (.inl ((retireJournal_writer _ _ _).2 (.inr hu)))
    · have full : s.spareSec.erased = false := by
        rcases h with h | ⟨-, hr, h1, h2, hn⟩
        · exact h.1
        · have := usableJournal_retires (s := s.spoiledJ k) h1 h2 (by rw [spoiledJ_jsec, if_pos rfl]; exact hr)
          have same : (s.spoiledJ k).store.usableJournal = s.store.usableJournal := by
            unfold Store.usableJournal
            have : ∀ i, ((s.spoiledJ k).store.jsec i).retired = (s.store.jsec i).retired := fun i =>
              modJ_program_retired { s.store with engine := .idle } k i none
            simp only [this]
          omega
      let x := reportRetired k .spoiledSlots ((s.spoiledJ k).retiresJ k)
      have takes : s.journal.takesIn x.journal := Journal.takesIn.offer (storeFaultBody k .spoiledSlots) ((s.spoiledJ k).retiresJ k)
      have store : x.store = ((s.spoiledJ k).retiresJ k).store := reportRetired_store _ _ _
      have test : journalRetired k x = testHead x := by
        unfold journalRetired
        rw [if_neg (by rw [takes.writer]; exact hw), if_neg (by rw [store]; exact hu), if_pos (by rw [takes.head]; exact hk)]
      show (endEvacuations (journalRetired k x)).journalStuck = true
      rw [test]
      refine (journalStuck_congr (t := endEvacuations (testHead x)) rfl rfl rfl rfl).trans (testHead_stuck ?_ ?_)
      · unfold State.headFull
        rw [takes.head, ← hk, store, retiresJ_jsec, if_pos rfl]; rfl
      · unfold State.spareSec
        rw [takes.spare, store, retiresJ_jsec, if_neg hsp.symm]
        exact (congrArg Sector.erased spare).trans full
  · rw [if_neg hret]
    have full := h.resolve_right fun g => hret ⟨g.1.ge, g.2.1⟩
    refine testHead_stuck ?_ (by rw [spare]; exact full.1)
    unfold State.headFull
    rw [show (s.spoiledJ k).journal.head = k from hk.symm, spoiledJ_jsec, if_pos rfl, program_full _ full.2]; rfl

end

end Sys2Proof.Machine
/-! ## POWER_DOWN (R191): the statement -/

namespace Sys2Proof.Machine

set_option Elab.async false

section
variable {s v : State} {d : DrainInfo} {k : Nat} {r : JRec}

theorem powerDownBody_drained (hj : s.enc.job = none)
    (hb : ∀ e ∈ s.nodes, e.2.entry.kind = .minibar → e.2.bar.lines = []) : powerDownBody d.cause s.drainComplete =
      ⟨.powerDown, none, none, none, .drain d.cause,
        if s.store.queue = [] ∧ s.store.waiting = [] then .complete else .incomplete, .none⟩ := by
  have complete := drainComplete_iff s hj
  unfold powerDownBody
  by_cases h : s.store.queue = [] ∧ s.store.waiting = []
  · rw [complete.2 ⟨h.1, h.2, hb⟩, if_pos h]; rfl
  · rw [if_neg h, if_neg fun g => h ⟨(complete.1 g).1, (complete.1 g).2.1⟩]

theorem alters.recorded {K : List EntryKey} {P : List Part} {C : List NoticeClass} {t : State} (h : alters K P C s t) (b : JBody)
    (hp : Part.journal ∈ P := by simp) : alters K P C s (t.recorded b) := h.onJournal (fun _ => (t.recorded b).journal) hp

/-- What a journal program has done as the drain ends: the record landed, or its slot spoiled. -/
structure programEnds (s v : State) : Prop where
  kept : keepsBut [.journal, .store, .link, .signals] s v
  notice : v.link.notices.get .power = s.link.notices.get .power

theorem journalProgrammed_ends (k : Nat) (r : JRec) (s : State) : programEnds s (journalProgrammed k r (freeEngine s)) := by
  rw [journalProgrammed_eq]
  have lands := landsSound_journalLands k r s
  have tested := alters.testHead (alters.refl [.journalState] [.journal] [.journal] ((freeEngine s).journalLands k r))
  exact ⟨keepsBut_trans lands.kept (keepsBut_mono (by simp) tested.rest),
    (tested.link.notices .power (by simp)).trans (lands.posts.notices .power (by simp))⟩

theorem spoilJournal_ends (k : Nat) (s : State) : programEnds s (spoilJournal k (freeEngine s)) := by
  obtain ⟨w, sp, altered⟩ := spoilJournal_spoils k s
  exact ⟨keepsBut_trans (keepsBut_mono (by simp) sp.kept) (keepsBut_mono (by simp) altered.rest),
    (altered.link.notices .power (by simp)).trans (by rw [sp.link])⟩

/-- The drain ends with a program after which it is over. -/
theorem exec_endsDrain (sound : Bool) (hs : s.power.state = .draining) (hd : s.power.drain = some d) (ho : d.offered = true)
    (he : d.ended = false) (hp : s.store.engine = .programming (.journal k r))
    (hv : v = if sound = true then journalProgrammed k r (freeEngine s) else spoilJournal k (freeEngine s))
    (hover : v.drainOver d = true) : exec (.journalProgramComplete sound) s = .next (finish (endDrain d v)) ∧
      drainEnds d s (finish (endDrain d v)) ∧
      keepsBut [.power, .enc, .journal, .store, .link, .signals] s (finish (endDrain d v)) := by
  have ends : programEnds s v := by
    rw [hv]; split
    · exact journalProgrammed_ends k r s
    · exact spoilJournal_ends k s
  have power : v.power = s.power := ends.kept .power (by simp)
  have test : testDrainEnd v = endDrain d v :=
    testDrainEnd_over (by rw [power]; exact hs) (by rw [power]; exact hd) ho he hover
  have altered : alters [] [.power, .enc] [.power] v (endDrain d v) := (alters.refl _ _ _ v).endDrain d
  refine ⟨?_, drainEnds_finish power (ends.kept .enc (by simp)) ends.notice,
    keepsBut_trans (keepsBut_mono (by simp) ends.kept) (keepsBut_mono (by simp) altered.changesOnly.rest)⟩
  rw [exec_journalProgramComplete sound (working_of_draining hs hd he) hp, ← hv, test]

end

/-- Settles O53: `powerDown_waits` and `powerDown_ends` for the offer, `drainDone_false` for what holds it back, and
`exec_endsDrain` for the program that ends the drain. -/
theorem powerDownIsOffered : Obligations.PowerDownIsOffered := by
  refine ⟨fun s d hs hd ho he hl hj ht => ⟨fun hb hst hw how hn hnew hf => ?_, fun hstuck => ?_⟩, fun s h => ?_,
    fun s d k r hs hd ho he hp hk hslot hlen hover => ?_, fun s d k r sound hs hd ho he hp hk hsp hw h => ?_⟩
  · have run := exec_powerDown hs hd ho (drainDone_intro hl hj ht (.inr hb) (.inl hst))
    rw [powerDown_waits hst hw how hn hnew hf, powerDownBody_drained hj hb] at run
    refine ⟨_, run, finish_part _ (p := .journal) nofun nofun, finish_part _ (p := .power) nofun nofun, ?_⟩
    exact (((alters.refl [] [.power, .journal] [] s).recorded _).onPower _).changesOnly
  · have stuck : s.journalStuck = true := (journalStuck_iff s).2 (hstuck.imp_right fun h => ⟨h.1, h.2.1⟩)
    have run := exec_powerDown hs hd ho (drainDone_intro hl hj ht (hstuck.imp_right fun h => h.2.2) (.inr stuck))
    rw [powerDown_ends hs he stuck] at run
    obtain ⟨seq, hseq⟩ : ∃ q, (offer (powerDownBody d.cause s.drainComplete) s).journal.powerDownSeq = q := ⟨_, rfl⟩
    have altered : alters [] [.power, .enc, .journal] [.power, .journal] s
        (endDrain { d with offered := true, seq := seq } (s.powerDownOffered d)) := (alters_powerDownOffered d s).endDrain _
    have power := powerDownOffered_power d s
    rw [hseq] at run power
    have ends : drainEnds { d with offered := true, seq := seq } (s.powerDownOffered d)
        (finish (endDrain { d with offered := true, seq := seq } (s.powerDownOffered d))) := drainEnds_finish rfl rfl rfl
    have journal : (endDrain { d with offered := true, seq := seq } (s.powerDownOffered d)).journal =
        (offer (powerDownBody d.cause s.drainComplete) s).journal := (endDrain_frame _ _).2.2.2.2.2.2.2.2.1
    refine ⟨_, s.drainComplete, run, drainComplete_iff s hj, journaled_one (t := s) ?_ rfl ?_, ?_, fun hpf => ?_, fun hpf => ?_,
      altered.changesOnly⟩
    · exact (finish_part _ (p := .journal) nofun nofun : _ = _).trans journal
    · exact (altered.changesOnly.rest .clock (by simp) : _ = _).symm
    · have told := ends.told
      unfold posted at told ⊢
      rw [show (s.powerDownOffered d).link.notices.get .power = s.link.notices.get .power from offer_notice _ _ nofun] at told
      exact told
    · have parked := (ends.parked (by rw [power]; exact hpf)).1
      rw [power] at parked
      exact parked
    · have waits := (ends.waits (by rw [power]; exact hpf)).1
      rw [power] at waits
      exact ⟨seq, waits⟩
  · show execPowerDown s = _
    unfold execPowerDown
    cases hd : s.power.drain with
    | none => rfl
    | some d =>
      refine if_neg fun g => ?_
      rw [Bool.and_eq_true, Bool.and_eq_true] at g
      rcases h with h | ⟨e, he, ho⟩ | h
      · refine h ?_
        have := g.1.1
        unfold State.draining at this
        cases hs : s.power.state <;> rw [hs] at this <;> first | rfl | cases this
      · rw [hd] at he
        cases he
        rw [ho] at g; exact absurd g.1.2 nofun
      · rw [drainDone_false h] at g; exact absurd g.2 nofun
  · have lands := landsSound_journalLands k r s
    have sector : ((freeEngine s).journalLands k r).store.jsec k = (s.store.jsec k).program (some r) := by
      rw [lands.store, modJ_program_jsec, if_pos rfl]; rfl
    have full : ((freeEngine s).journalLands k r).headFull = false := by
      unfold State.headFull
      rw [lands.journal, ← hk, sector, program_hasSlot _ hslot hlen]; rfl
    have programmed : journalProgrammed k r (freeEngine s) = (freeEngine s).journalLands k r := testHead_early (.inl full)
    have ending : ((freeEngine s).journalLands k r).drainOver d = true := by
      unfold State.drainOver
      rw [lands.journal]
      rcases hover with ⟨q, hq, hle⟩ | ⟨hn, hl⟩
      · rw [hq]; simp [hle]
      · rw [hn]
        have : s.journal.staging.drop 1 = [] := List.drop_eq_nil_of_le hl
        simp [this]
    obtain ⟨run, ends, kept⟩ := exec_endsDrain true hs hd ho he hp programmed.symm ending
    have altered : alters [] [.power, .enc] [.power] ((freeEngine s).journalLands k r)
      (endDrain d ((freeEngine s).journalLands k r)) := (alters.refl _ _ _ _).endDrain d
    have cells := altered.changesOnly.cells
    have journal : (finish (endDrain d ((freeEngine s).journalLands k r))).journal = _ :=
      (altered.changesOnly.rest .journal (by simp) : _ = _).trans lands.journal
    refine ⟨_, run, ends.told, ends.parked, ends.waits, by rw [journal], by rw [journal], ?_, fun i hi => ?_, ?_, kept⟩
    · rw [jsec_congr cells.jreg, sector]; rfl
    · rw [jsec_congr cells.jreg, lands.store, modJ_program_jsec, if_neg hi]; rfl
    · exact cells.tlog.trans (by rw [lands.store]; rfl)
  · have ending : (if sound = true then journalProgrammed k r (freeEngine s) else spoilJournal k (freeEngine s)).drainOver d = true := by
      unfold State.drainOver
      refine Bool.or_eq_true_iff.2 (.inl ?_)
      split
      · next hsound =>
        obtain ⟨herased, hlen⟩ := h.resolve_right fun g => by rw [hsound] at g; exact absurd g.1 nofun
        have lands := landsSound_journalLands k r s
        rw [journalProgrammed_eq]
        refine testHead_stuck ?_ ?_
        · unfold State.headFull
          rw [lands.journal, ← hk, lands.store, modJ_program_jsec, if_pos rfl]
          exact congrArg not (program_full _ hlen)
        · unfold State.spareSec at herased ⊢
          rw [lands.journal, lands.store, modJ_program_jsec, if_neg hsp.symm]; exact herased
      · exact spoilJournal_stuck hk hsp hw (h.imp_right fun g => g.2)
    obtain ⟨run, ends, kept⟩ := exec_endsDrain sound hs hd ho he hp rfl ending
    exact ⟨_, run, ends.told, ends.parked, ends.waits, kept⟩

end Sys2Proof.Machine
/-! ## The end of an erase (R142, R143, R147, R159, R163 to R165) -/

namespace Sys2Proof.Machine

set_option Elab.async false

section
variable {s t u v : State} {w : Work} {k : Nat}

/-! ### Frames of the table log's operations -/

theorem Store.moves_cells {t u : State} (h : t.store.moves u.store) : keepsCells t u ∧ ∀ K, queuesOnly K t u := by
  have queue := congrArg Store.queue h
  have waiting := congrArg Store.waiting h
  refine ⟨⟨(congrArg Store.tlog h :), (congrArg Store.jreg h :), (congrArg Store.idPlaces h :), (congrArg Store.identity h :),
    (congrArg Store.nextAppend h :), (congrArg Store.readOnly h :)⟩, fun K k _ => ⟨?_, ?_⟩⟩
  · unfold Store.contents; rw [show u.store.queue = t.store.queue from queue]
  · rw [show u.store.waiting = t.store.waiting from waiting]

theorem alters_moves {K : List EntryKey} {P : List Part} {C : List NoticeClass} (hm : t.store.moves u.store)
    (hl : t.link.posts [.store] u.link) (hk : keepsBut [.store, .link] t u) (hc : NoticeClass.store ∈ C := by simp) :
    alters K P C t u :=
  ⟨(Store.moves_cells hm).1, (Store.moves_cells hm).2 K, Link.posts_mono hl (by simpa using hc), keepsBut_mono (by simp) hk⟩

theorem keepsBut_countErased (s : State) : keepsBut [.store, .link] s (countErased s) := fun p hp => by
  cases p <;> first | (simp at hp; done) | simp [Part.same]

theorem keepsBut_moveLogHead (copy : Bool) (s : State) : keepsBut [.store, .link] s (moveLogHead copy s) := fun p hp => by
  cases p <;> first | (simp at hp; done) | simp [Part.same]

theorem alters.countErased {K : List EntryKey} {P : List Part} {C : List NoticeClass} (h : alters K P C s t)
    (hc : NoticeClass.store ∈ C := by simp) : alters K P C s (countErased t) :=
  h.trans (alters_moves (countErased_moves t) (countErased_posts t) (keepsBut_countErased t) hc)

theorem alters.moveLogHead {K : List EntryKey} {P : List Part} {C : List NoticeClass} (h : alters K P C s t) (copy : Bool)
    (hc : NoticeClass.store ∈ C := by simp) : alters K P C s (moveLogHead copy t) :=
  h.trans (alters_moves (moveLogHead_moves copy t) (moveLogHead_posts copy t) (keepsBut_moveLogHead copy t) hc)

theorem alters.journalErased {K : List EntryKey} {P : List Part} {C : List NoticeClass} (h : alters K P C s t) (k : Nat)
    (hk : EntryKey.journalState ∈ K := by simp) (hp : Part.journal ∈ P := by simp) (hc : NoticeClass.journal ∈ C := by simp) :
    alters K P C s (journalErased k t) := by
  unfold Machine.journalErased
  split
  · exact h
  · split
    · exact ((h.onJournal _ hp).enqueue _ hk).testHead hk hp hc
    · exact h.enqueue _ hk

/-! ### An item that has ended stays off the list -/

theorem victim_some {t : Store} (h : t.victim = some k) :
    k < 40 ∧ (t.tsec k).retired = false ∧ (t.tsec k).erased = false := by
  have member := List.mem_of_mem_head? h
  simp only [mem_sortBy, List.mem_filter, Bool.and_eq_true, Bool.not_eq_true'] at member
  obtain ⟨hr, ⟨⟨-, hret⟩, -⟩, herased⟩ := member
  obtain ⟨i, hi, rfl⟩ := List.mem_map.1 hr
  exact ⟨by have := List.mem_range.1 hi; omega, hret, herased⟩

/-- An item is off the reclaimer's list, and its sector is no victim for a reclaim. -/
structure offList (w : Work) (s : State) : Prop where
  ended : w ∉ s.store.work
  spared : w.kind = .reclaim → 40 ≤ w.sector ∨ (s.store.tsec w.sector).retired = true ∨ (s.store.tsec w.sector).erased = true

theorem tsec_congr {t u : Store} (h : u.tlog = t.tlog) (i : Nat) : u.tsec i = t.tsec i := by unfold Store.tsec; rw [h]

namespace offList

theorem rest (h : offList w s) (hw : t.store.work ⊆ s.store.work) (ht : t.store.tlog = s.store.tlog) : offList w t :=
  ⟨fun g => h.ended (hw g), by rw [tsec_congr ht]; exact h.spared⟩

theorem stall (h : offList w s) : offList w (stall s) :=
  h.rest (by rw [stall_work]; exact fun _ g => g) (congrArg Store.tlog (stall_moves s) :)

theorem countErased (h : offList w s) : offList w (countErased s) := by
  unfold Machine.countErased
  split
  · exact h
  · split
    · next v hv =>
      obtain ⟨h1, h2, h3⟩ := victim_some hv
      refine ⟨fun g => (List.mem_append.1 g).elim h.ended fun g => ?_, h.spared⟩
      have := List.mem_singleton.1 g
      subst this
      rcases h.spared rfl with g | g | g
      · exact absurd h1 (Nat.not_lt.2 g)
      · rw [h2] at g; cases g
      · rw [h3] at g; cases g
    · exact h.stall

theorem moveLogHead (h : offList w s) (copy : Bool) : offList w (moveLogHead copy s) :=
  moveLogHead_induct copy h h.stall (h.rest (fun _ g => g) rfl) fun u k hu =>
    (hu.rest (t := u.onStore fun t => { t with head := k }) (fun _ g => g) rfl).countErased

theorem dueWork (h : offList w s) (ht : t.store.work = s.store.dueWork) (hl : t.store.tlog = s.store.tlog) : offList w t :=
  h.rest (by rw [ht]; exact (List.dropWhile_sublist _).subset) hl

theorem serve (h : offList w s) (r : Requester) : offList w (serve r s) := by
  have oldest : s.store.takeOldest.work = s.store.work ∧ s.store.takeOldest.tlog = s.store.tlog := by
    unfold Store.takeOldest; split <;> exact ⟨rfl, rfl⟩
  have taken : ∀ p l, offList w (s.onStore fun t => { t.takeOldest with engine := p, lastServed := l }) := fun p l =>
    h.rest (by rw [← oldest.1]; exact fun _ g => g) oldest.2
  cases r with
  | tableWriter =>
    unfold Machine.serve
    rcases s.store.tableRequest with _ | _ | _ | _ | _
    · exact h
    · exact taken _ _
    · exact h.rest (fun _ g => g) rfl
    · exact taken _ _
    · exact taken _ _
  | journalWriter =>
    unfold Machine.serve
    rcases s.journalRequest with _ | p
    · exact h
    · exact h.rest (fun _ g => g) rfl
  | reclaimer =>
    unfold Machine.serve
    rcases s.store.reclaimRequest with _ | c | x
    · exact h
    · exact (h.moveLogHead true).dueWork rfl rfl
    · exact h.dueWork rfl rfl

theorem finish (h : offList w s) : offList w (finish s) := by
  have engine : offList w (pumpEngine s) := by
    unfold pumpEngine
    split
    · exact h
    · split
      · exact h
      · unfold orderSuspension
        split
        · exact h.rest (fun _ g => g) rfl
        · exact h
      · split
        · exact h.serve _
        · unfold resume
          split
          · exact h
          · exact h.rest (fun _ g => g) rfl
  exact engine.rest (by rw [finish_store]; exact fun _ g => g) (by rw [finish_store])

theorem testHead (h : offList w s) : offList w (testHead s) := by
  have offered : ∀ v, (s.store.offerChange .journalState v).work = s.store.work ∧
      (s.store.offerChange .journalState v).tlog = s.store.tlog := fun v => by
    unfold Store.offerChange; split
    · exact ⟨rfl, rfl⟩
    · split
      · exact ⟨rfl, rfl⟩
      · split <;> exact ⟨rfl, rfl⟩
  rcases testHead_store s with g | ⟨v, g⟩
  · exact h.rest (by rw [g]; exact fun _ x => x) (by rw [g])
  · exact h.rest (by rw [g, (offered v).1]; exact fun _ x => x) (by rw [g, (offered v).2])

theorem enqueue (h : offList w s) (k : EntryKey) : offList w (Machine.enqueue k s) := by
  have offered : (Machine.enqueue k s).store.work = s.store.work ∧ (Machine.enqueue k s).store.tlog = s.store.tlog := by
    show (s.store.offerChange k _).work = _ ∧ (s.store.offerChange k _).tlog = _
    unfold Store.offerChange; split
    · exact ⟨rfl, rfl⟩
    · split
      · exact ⟨rfl, rfl⟩
      · split <;> exact ⟨rfl, rfl⟩
  exact h.rest (by rw [offered.1]; exact fun _ x => x) offered.2

theorem journalErased (h : offList w s) (k : Nat) : offList w (journalErased k s) := by
  unfold Machine.journalErased
  split
  · exact h
  · split
    · exact ((h.rest (t := s.onJournal _) (fun _ g => g) rfl).enqueue .journalState).testHead
    · exact h.enqueue .journalState

theorem journalRetired (h : offList w s) (k : Nat) : offList w (journalRetired k s) := by
  unfold Machine.journalRetired
  split
  · exact h
  · split
    · exact h.rest List.filter_sublist.subset rfl
    · split
      · exact h.testHead
      · split
        · exact (h.rest (t := chooseSpare s) (fun _ g => g) rfl).testHead
        · exact h

theorem endEvacuations (h : offList w s) : offList w (endEvacuations s) := h.dueWork rfl rfl

end offList

end

end Sys2Proof.Machine
/-! ## A sound erase (R142, R143, R147, R159, R164) -/

namespace Sys2Proof.Machine

set_option Elab.async false

section
variable {s t u v : State} {w : Work} {e : EraseRun} {k : Nat}

theorem exec_eraseComplete (sound : Bool) (he : s.store.engine = .erasing e) : exec (.eraseComplete sound) s =
    .next (finish (if sound = true then eraseSound e.work (freeEngine s) else eraseFailed e.work (freeEngine s))) := by
  show execEraseComplete sound s = _
  unfold execEraseComplete
  rw [he]; rfl

theorem enqueue_stalled (q : EntryKey) (s : State) : (enqueue q s).store.stalled = s.store.stalled := offerChange_stalled _ _ _

theorem stallsAfter.journalErased {l : List Detail} (h : stallsAfter l s u) (k : Nat) : stallsAfter l s (journalErased k u) := by
  unfold Machine.journalErased
  split
  · exact h
  · split
    · exact (h.same (v := enqueue .journalState (u.onJournal _)) rfl (enqueue_stalled _ _)).testHead
    · exact h.same rfl (enqueue_stalled _ _)

theorem stallsAfter.endEvacuations {l : List Detail} (h : stallsAfter l s u) : stallsAfter l s (endEvacuations u) := h.same

/-! ### A sector of the table log -/

/-- The state with a sector of the table log erased and its item ended. -/
def State.erasedT (w : Work) (s : State) : State := endWork w ((freeEngine s).onStore fun t => t.modT w.sector fun _ => .blank)

theorem erasedT_tsec (w : Work) (s : State) (i : Nat) :
    (s.erasedT w).store.tsec i = if i = w.sector then .blank else s.store.tsec i :=
  (Store.tsec_modT { s.store with engine := .idle } w.sector i fun _ => .blank).trans rfl

theorem eraseSound_log (h : w.sector < 40) :
    eraseSound w (freeEngine s) = endEvacuations (moveLogHead false (countErased (s.erasedT w))) := by
  unfold eraseSound
  rw [if_neg (by simp only [inJournalRegion, decide_eq_true_eq]; omega)]; rfl

/-- What a sound erase in the table log leaves. -/
theorem soundLogErase (hn : s.store.work.Nodup) (hk : w.sector < 40) (hv : v = eraseSound w (freeEngine s)) :
    offList w v ∧ stallsAfter [] s v ∧ alters [] [] [.store] (s.erasedT w) v := by
  rw [hv, eraseSound_log hk]
  have gone : offList w (s.erasedT w) :=
    ⟨hn.not_mem_erase, fun _ => .inr (.inr (by rw [erasedT_tsec, if_pos rfl]; rfl))⟩
  have stalls : stallsAfter [] s (s.erasedT w) := (stallsAfter.refl s).same
  exact ⟨(gone.countErased.moveLogHead false).endEvacuations, (stalls.countErased.moveLogHead false).endEvacuations,
    (((alters.refl _ _ _ _).countErased).moveLogHead false).endEvacuations⟩

/-! ### A sector of the journal region -/

/-- The state with a journal sector erased and its item ended. -/
def State.erasedJ (w : Work) (s : State) : State := endWork w ((freeEngine s).onStore fun t => t.modJ w.sector fun _ => .blank)

theorem erasedJ_jsec (w : Work) (s : State) (i : Nat) :
    (s.erasedJ w).store.jsec i = if i = w.sector then .blank else s.store.jsec i :=
  (Store.jsec_modJ { s.store with engine := .idle } w.sector i fun _ => .blank).trans rfl

theorem eraseSound_journal (h : 40 ≤ w.sector) :
    eraseSound w (freeEngine s) = endEvacuations (journalErased w.sector (s.erasedJ w)) := by
  unfold eraseSound
  rw [if_pos (by simpa only [inJournalRegion, decide_eq_true_eq] using h)]; rfl

/-- What a sound erase in the journal region leaves. -/
theorem soundJournalErase (hn : s.store.work.Nodup) (hk : 40 ≤ w.sector) (hv : v = eraseSound w (freeEngine s)) :
    offList w v ∧ stallsAfter [] s v ∧ alters [.journalState] [.journal] [.journal] (s.erasedJ w) v := by
  rw [hv, eraseSound_journal hk]
  have gone : offList w (s.erasedJ w) := ⟨hn.not_mem_erase, fun _ => .inl hk⟩
  have stalls : stallsAfter [] s (s.erasedJ w) := (stallsAfter.refl s).same
  exact ⟨(gone.journalErased _).endEvacuations, (stalls.journalErased _).endEvacuations,
    ((alters.refl _ _ _ _).journalErased _).endEvacuations⟩

theorem journalErased_writer (k : Nat) (h : s.journal.writer ≠ .fault) : (journalErased k s).journal.writer ≠ .fault := by
  unfold journalErased
  rw [if_neg h]
  split
  · exact testHead_writer (u := enqueue .journalState (s.onJournal fun j => { j with oldest := oldestAfter k s })) h
  · exact h

theorem not_mem_circleAfter (h : 40 ≤ k) : k ∉ circleAfter k := by
  intro g
  unfold circleAfter rangeInc at g
  rcases List.mem_append.1 g with g | g
  · obtain ⟨i, -, hi⟩ := List.mem_map.1 g; omega
  · obtain ⟨i, hi, he⟩ := List.mem_map.1 g
    have := List.mem_range.1 hi
    omega

/-- The oldest retained sequence is sought in the sectors after the one erased, round to the head (R143). -/
theorem oldestAfter_erasedJ {o : Option Nat} (h40 : 40 ≤ w.sector) (hh : s.journal.head ≠ w.sector)
    (ho : o = (((circleAfter w.sector).takeWhile (fun i => decide (i ≠ s.journal.head)) ++ [s.journal.head]).findSome? fun i =>
      (s.store.jsec i).recs.head?.filter fun r => decide (s.journal.oldest.getD s.journal.nextSeq ≤ r.seq)).map JRec.seq) :
    oldestAfter w.sector (s.erasedJ w) = o := by
  have others : ∀ i ∈ rangeAfter w.sector s.journal.head, i ≠ w.sector := by
    intro i hi
    unfold rangeAfter at hi
    rcases List.mem_append.1 hi with hi | hi
    · have member := (List.takeWhile_sublist _).subset hi
      exact fun e => not_mem_circleAfter h40 (e ▸ member)
    · rw [List.mem_singleton.1 hi]; exact hh
  rw [ho]
  show (List.findSome? _ (rangeAfter w.sector s.journal.head)).map JRec.seq = (List.findSome? _ (rangeAfter w.sector _)).map JRec.seq
  revert others
  generalize rangeAfter w.sector s.journal.head = l
  intro others
  congr 1
  induction l with
  | nil => rfl
  | cons i l ih =>
    rw [List.findSome?_cons, List.findSome?_cons, ih fun j hj => others j (by simp [hj]), erasedJ_jsec,
      if_neg (others i (by simp))]
    rfl

/-- The erase of the spare (R143, R147). -/
theorem journalErased_spare (hw : s.journal.writer ≠ .fault) (hk : w.sector = s.journal.spare) :
    journalErased w.sector (s.erasedJ w) = testHead (enqueue .journalState
      ((s.erasedJ w).onJournal fun j => { j with oldest := oldestAfter w.sector (s.erasedJ w) })) := by
  unfold journalErased
  exact (if_neg hw).trans (if_pos hk)

theorem erased_headFull (hh : s.journal.head ≠ w.sector) (o : Option Nat) :
    (enqueue .journalState ((s.erasedJ w).onJournal fun j => { j with oldest := o })).headFull = s.headFull := by
  unfold State.headFull
  have jreg : (enqueue .journalState ((s.erasedJ w).onJournal fun j => { j with oldest := o })).store.jreg = (s.erasedJ w).store.jreg :=
    (alters.enqueue (alters.refl [.journalState] [] [] ((s.erasedJ w).onJournal fun j => { j with oldest := o })) .journalState).cells.jreg
  rw [jsec_congr jreg]
  exact congrArg (fun c : Sector JRec => !c.hasSlot) ((erasedJ_jsec w s s.journal.head).trans (if_neg hh))

end

end Sys2Proof.Machine
/-! ## A failed erase retires its sector (R142, R164, R166 to R168) -/

namespace Sys2Proof.Machine

set_option Elab.async false

/-- An entry of a table stands when another is put, unless it is the one replaced. -/
theorem FMap.mem_put_of_mem {α : Type} {m : FMap α} {e : Nat × α} (h : e ∈ m) (k : Nat) (v : α) :
    e ∈ FMap.put m k v ∨ (e.1 = k ∧ FMap.get m k = some e.2) := by
  induction m with
  | nil => cases h
  | cons x m ih =>
    obtain ⟨i, y⟩ := x
    unfold FMap.put FMap.get
    by_cases h1 : k < i
    · rw [if_pos h1]; exact .inl (List.mem_cons_of_mem _ h)
    · rw [if_neg h1]
      by_cases h2 : k = i
      · rw [if_pos h2, if_pos h2]
        rcases List.mem_cons.1 h with rfl | h
        · exact .inr ⟨h2.symm, rfl⟩
        · exact .inl (List.mem_cons_of_mem _ h)
      · rw [if_neg h2, if_neg h2]
        rcases List.mem_cons.1 h with rfl | h
        · exact .inl (List.mem_cons_self ..)
        · exact (ih h).imp_left (List.mem_cons_of_mem _)

section
variable {s t u v : State} {w : Work} {e : EraseRun} {k : Nat} {c : RetireCause}

/-! ### The records of a sector that is marked -/

/-- Sector `k` offers the records it offered, and no record of the log is gone where it offers any. -/
structure Store.keepsRecs (k : Nat) (t u : Store) : Prop where
  recs : (u.tsec k).recs = (t.tsec k).recs
  log : (t.tsec k).recs ≠ [] → t.logRecs ⊆ u.logRecs

theorem Store.keepsRecs.trans {t u x : Store} (h : t.keepsRecs k u) (g : u.keepsRecs k x) : t.keepsRecs k x :=
  ⟨g.recs.trans h.recs, fun hr => List.Subset.trans (h.log hr) (g.log (by rw [h.recs]; exact hr))⟩

theorem Store.keepsRecs_modT (t : Store) (k : Nat) {f : Sector LogRec → Sector LogRec} (hc : ∀ c, (f c).cells = c.cells)
    (ha : ∀ c, (f c).awaitErase = c.awaitErase) : t.keepsRecs k (t.modT k f) := by
  have recs : ∀ c, (f c).recs = c.recs := fun c => by unfold Sector.recs; rw [hc, ha]
  refine ⟨by rw [Store.tsec_modT, if_pos rfl, recs], fun hr q hq => ?_⟩
  have listed : f (t.tsec k) ≠ .blank := fun g => hr (by rw [← recs, g]; rfl)
  have log : (t.modT k f).tlog = t.tlog.put k (f (t.tsec k)) := by
    unfold Store.modT putSector; rw [if_neg listed]; rfl
  obtain ⟨e, he, hq⟩ := List.mem_flatMap.1 hq
  refine List.mem_flatMap.2 ?_
  rw [log]
  rcases FMap.mem_put_of_mem he k (f (t.tsec k)) with g | ⟨rfl, hg⟩
  · exact ⟨e, g, hq⟩
  · have same : t.tsec e.1 = e.2 := by unfold Store.tsec; rw [hg]; rfl
    have member : (e.1, f (t.tsec e.1)) ∈ t.tlog.put e.1 (f (t.tsec e.1)) := FMap.mem_of_get (FMap.get_put_self ..)
    exact ⟨_, member, by rw [same] at *; rw [recs]; exact hq⟩

theorem Store.keepsRecs.liveIn {t u : Store} (h : t.keepsRecs k u) (hl : t.liveIn k = []) : u.liveIn k = [] := by
  unfold Store.liveIn at hl ⊢
  rw [h.recs, List.filter_eq_nil_iff]
  intro r hr live
  rw [List.filter_eq_nil_iff] at hl
  refine hl r hr ?_
  unfold Store.live at live ⊢
  rw [List.all_eq_true] at live ⊢
  exact fun q hq => live q (h.log (List.ne_nil_of_mem hr) hq)

/-! ### The retirement of a sector of the table log -/

/-- The state with a sector of the table log marked retired. -/
def State.retiresT (k : Nat) (s : State) : State := s.onStore fun t => t.modT k fun x => { x with retired := true }

theorem retiresT_tsec (k i : Nat) (s : State) : (s.retiresT k).store.tsec i =
    if i = k then { s.store.tsec k with retired := true } else s.store.tsec i := Store.tsec_modT _ _ _ _

/-- The state in which a retirement has been reported and the threshold of the usable sectors tested. -/
def State.logRetired (k : Nat) (c : RetireCause) (s : State) : State := testReadOnly (reportRetired k c (s.retiresT k))

theorem retireLog_eq (k : Nat) (c : RetireCause) (s : State) :
    retireLog k c s = countErased (moveLogHead false (evacuate k (s.logRetired k c))) := rfl

theorem testReadOnly_store (s : State) : (testReadOnly s).store =
    { s.store with readOnly := s.store.readOnly || decide (s.store.usableLog < 30) } := by
  unfold testReadOnly
  by_cases h : s.store.usableLog < 30
  · cases hr : s.store.readOnly with
    | false => simp [h, post, State.onStore, State.onLink]
    | true =>
      simp only [h, decide_true, Bool.not_true, Bool.and_false, Bool.false_eq_true, if_false, Bool.true_or]
      rw [← hr]
  · simp [h]

theorem testReadOnly_journal (s : State) : (testReadOnly s).journal = s.journal := by unfold testReadOnly; split <;> rfl

theorem logRetired_store (k : Nat) (c : RetireCause) (s : State) : (s.logRetired k c).store =
    { (s.retiresT k).store with readOnly := s.store.readOnly || decide ((s.retiresT k).store.usableLog < 30) } := by
  unfold State.logRetired
  rw [testReadOnly_store, reportRetired_store]; rfl

theorem logRetired_journal (k : Nat) (c : RetireCause) (s : State) :
    (s.logRetired k c).journal = (offer (storeFaultBody k c) (s.retiresT k)).journal := testReadOnly_journal _

theorem keepsBut_logRetired (k : Nat) (c : RetireCause) (s : State) : keepsBut [.journal, .store, .link] s (s.logRetired k c) := by
  have marks : keepsBut [.journal, .store, .link] s (s.retiresT k) := fun p hp => by
    cases p <;> first | (simp at hp; done) | rfl
  have tests : keepsBut [.journal, .store, .link] (reportRetired k c (s.retiresT k)) (s.logRetired k c) := fun p hp => by
    unfold State.logRetired testReadOnly
    split
    · cases p <;> first | (simp at hp; done) | rfl
    · cases p <;> rfl
  have report := (alters.refl [] [.journal] [.journal, .store] (s.retiresT k)).reportRetired k c
  exact keepsBut_trans marks (keepsBut_trans (keepsBut_mono (by simp) report.rest) tests)

/-- The threshold of the usable sectors posts READ_ONLY as it is passed (R167). -/
theorem stallsAfter.testReadOnly {l : List Detail} (h : stallsAfter l s u) (hs : u.store.stalled = s.store.stalled)
    (hr : u.store.readOnly = s.store.readOnly) : stallsAfter
      (l ++ if s.store.readOnly = false ∧ (testReadOnly u).store.readOnly = true then [.readOnly] else []) s (testReadOnly u) := by
  rw [testReadOnly_store]
  dsimp only
  rw [hr]
  unfold Machine.testReadOnly
  by_cases few : u.store.usableLog < 30
  · cases hro : s.store.readOnly with
    | true =>
      rw [hr, hro, if_neg (by simp), if_neg (by simp), List.append_nil]
      exact h
    | false =>
      rw [hr, hro, if_pos (by simp [few]), if_pos (by simp [few])]
      exact (h.same (v := u.onStore fun t => { t with readOnly := true })).posted _ hs
  · rw [if_neg (by simp [few]), if_neg (by cases s.store.readOnly <;> simp [few]), List.append_nil]
    exact h

/-- The STORE occurrences of a retirement and of the threshold (R166, R167). -/
theorem logRetired_stalls (k : Nat) (c : RetireCause) (hl : u.link = s.link) (hs : u.store.stalled = s.store.stalled)
    (hr : u.store.readOnly = s.store.readOnly) : stallsAfter ([.sector k c] ++
      if s.store.readOnly = false ∧ (u.logRetired k c).store.readOnly = true then [.readOnly] else [])
      s (u.logRetired k c) := by
  have begins : stallsAfter [] s (u.retiresT k) := (stallsAfter.refl s).same (by rw [← hl]; rfl) (by rw [← hs]; rfl)
  have stalled : (offer (storeFaultBody k c) (u.retiresT k)).store.stalled = s.store.stalled := by
    rw [(offer_frame _ _).2.2.2.2.2.2.2.2.2.2.1]; exact hs
  have report : stallsAfter ([] ++ [.sector k c]) s (reportRetired k c (u.retiresT k)) :=
    (begins.inner (offer_posts _ _) (by simp)).posted _ stalled
  exact report.testReadOnly stalled (by rw [reportRetired_store]; exact hr)

theorem offList.testReadOnly (h : offList w s) : offList w (testReadOnly s) :=
  h.rest (by rw [testReadOnly_store]; exact fun _ g => g) (by rw [testReadOnly_store])

/-- An evacuation that has ended is not placed again while its sector holds no live record. -/
theorem offList.evacuate (h : offList w s) (hl : w = ⟨k, .evacuation⟩ → s.store.liveIn k = []) : offList w (evacuate k s) := by
  unfold Machine.evacuate
  split
  · exact h
  · next hn =>
    refine ⟨fun g => (List.mem_append.1 g).elim h.ended fun g => hn ?_, h.spared⟩
    rw [hl (List.mem_singleton.1 g)]; rfl

theorem alters.evacuate {K : List EntryKey} {P : List Part} {C : List NoticeClass} (h : alters K P C s t) (k : Nat) :
    alters K P C s (evacuate k t) := by
  unfold Machine.evacuate
  split
  · exact h
  · exact h.trans (alters_onStore ⟨_, _, _, _, rfl⟩)

theorem stallsAfter.evacuate {l : List Detail} (h : stallsAfter l s u) (k : Nat) : stallsAfter l s (evacuate k u) := by
  unfold Machine.evacuate
  split
  · exact h
  · exact h.same

theorem usableLog_congr {t u : Store} (h : u.tlog = t.tlog) : u.usableLog = t.usableLog := by
  unfold Store.usableLog; simp only [tsec_congr h]

end

end Sys2Proof.Machine
/-! ## Erases (R142, R156, R159, R164, R166): the statement -/

namespace Sys2Proof.Machine

set_option Elab.async false

section
variable {s t u v : State} {w : Work} {e : EraseRun} {k : Nat}

theorem running_part {p : Part} (hp : p ≠ .store) (f : Store → Store) : p.same s (s.onStore f) := by
  cases p <;> first | exact absurd rfl hp | rfl

theorem keepsBut_onStore (f : Store → Store) : keepsBut [.store] s (s.onStore f) := fun _ hp =>
  running_part (fun h => hp (by simp [h])) f

theorem keepsBut_endWork (w : Work) (s : State) : keepsBut [.store] s (endWork w s) := by
  unfold endWork; exact keepsBut_onStore _

theorem placed_endEvacuations {K : List EntryKey} (h : placed K s) : placed K (endEvacuations s) := by
  intro q hq
  have val : (endEvacuations s).entryVal q = s.entryVal q := by cases q <;> rfl
  rw [val]
  exact h q hq

/-- What every sound erase leaves, in the one region or the other. -/
theorem soundErase (hn : s.store.work.Nodup) (he : s.store.engine = .erasing e) (hk : k = e.work.sector) :
    ∃ t, exec (.eraseComplete true) s = .next t ∧ e.work ∉ t.store.work ∧ t.store.nextAppend = s.store.nextAppend ∧
      t.store.idPlaces = s.store.idPlaces ∧ t.store.identity = s.store.identity ∧
      t.store.readOnly = s.store.readOnly ∧ storePosts none s t ∧
      (k < 40 → t.store.tsec k = ⟨[], false, false, false⟩ ∧ (∀ i, i ≠ k → t.store.tsec i = s.store.tsec i) ∧
        t.store.jreg = s.store.jreg ∧ queuesOnly [] s t ∧ keepsBut [.store, .link] s t) ∧
      (40 ≤ k → t.store.jsec k = ⟨[], false, false, false⟩ ∧ (∀ i, i ≠ k → t.store.jsec i = s.store.jsec i) ∧
        t.store.tlog = s.store.tlog ∧ queuesOnly [.journalState] s t ∧ keepsBut [.journal, .store, .link] s t ∧
        (s.journal.writer = .fault → t.journal = s.journal) ∧
        (k = s.journal.spare → s.journal.head ≠ k → s.headFull = false → s.journal.writer ≠ .fault →
          s.store.canQueue [.journalState] 0 = true →
          placed [.journalState] t ∧ ∀ (range : List Nat) (o : Option Nat),
            range = (circleAfter k).takeWhile (fun i => decide (i ≠ s.journal.head)) ++ [s.journal.head] →
            o = (range.findSome? fun i => (s.store.jsec i).recs.head?.filter fun r =>
              decide (s.journal.oldest.getD s.journal.nextSeq ≤ r.seq)).map JRec.seq →
            t.journal = { s.journal with oldest := o }) ∧
        (k ≠ s.journal.spare → s.journal.writer ≠ .fault → t.journal = s.journal ∧
          (s.store.canQueue [.journalState] 0 = true → placed [.journalState] t)) ∧
        (k = s.journal.spare → s.headFull = true → s.journal.head ≠ k → s.journal.writer = .waitingSpare →
          t.journal.head = k ∧ t.journal.writer = .writing ∧
          t.journal.spare = ((circleAfter k).find? fun i => !(t.store.jsec i).retired).getD k)) := by
  subst hk
  have run := exec_eraseComplete true he
  rw [if_pos rfl] at run
  obtain ⟨v, hv⟩ : ∃ v, v = eraseSound e.work (freeEngine s) := ⟨_, rfl⟩
  rw [← hv] at run
  rcases Nat.lt_or_ge e.work.sector 40 with hk | hk
  · obtain ⟨gone, stalls, altered⟩ := soundLogErase hn hk hv
    have ends := altered.changesOnly
    have sector : ∀ i, (finish v).store.tsec i = if i = e.work.sector then .blank else s.store.tsec i := fun i =>
      (tsec_congr ends.cells.tlog i).trans (erasedT_tsec _ _ _)
    have kept : keepsBut [.store] s (s.erasedT e.work) := keepsBut_trans (keepsBut_onStore _) (keepsBut_trans
      (t := (freeEngine s).onStore fun t => t.modT e.work.sector fun _ => .blank) (keepsBut_onStore _) (keepsBut_endWork _ _))
    refine ⟨_, run, gone.finish.ended, ends.cells.nextAppend, ends.cells.idPlaces, ends.cells.identity, ends.cells.readOnly,
      storePosts_none stalls altered.cells.readOnly fun hw => ?_, fun _ => ⟨?_, fun i hi => ?_, ends.cells.jreg, ?_, ?_⟩,
      fun h => absurd hk (Nat.not_lt.2 h)⟩
    · rw [(altered.rest .journal (by simp) : _ = _)]; exact hw
    · rw [sector, if_pos rfl]; rfl
    · rw [sector, if_neg hi]
    · exact queuesOnly_trans (t := s.erasedT e.work) (fun _ _ => ⟨rfl, Iff.rfl⟩) ends.changes
    · exact keepsBut_trans (keepsBut_mono (by simp) kept) ends.rest
  · obtain ⟨gone, stalls, altered⟩ := soundJournalErase hn hk hv
    have ends := altered.changesOnly
    have sector : ∀ i, (finish v).store.jsec i = if i = e.work.sector then .blank else s.store.jsec i := fun i =>
      (jsec_congr ends.cells.jreg i).trans (erasedJ_jsec _ _ _)
    have kept : keepsBut [.store] s (s.erasedJ e.work) := keepsBut_trans (keepsBut_onStore _) (keepsBut_trans
      (t := (freeEngine s).onStore fun t => t.modJ e.work.sector fun _ => .blank) (keepsBut_onStore _) (keepsBut_endWork _ _))
    have form := hv.trans (eraseSound_journal hk)
    have journal : (finish v).journal = (journalErased e.work.sector (s.erasedJ e.work)).journal := by
      rw [(finish_part v (p := .journal) nofun nofun : _ = _), form]; rfl
    have room : s.store.canQueue [.journalState] 0 = true → (s.erasedJ e.work).store.roomFor .journalState := fun hq =>
      canQueue_roomFor (t := s.store) hq (by simp)
    refine ⟨_, run, gone.finish.ended, ends.cells.nextAppend, ends.cells.idPlaces, ends.cells.identity, ends.cells.readOnly,
      storePosts_none stalls altered.cells.readOnly fun hw => ?_, fun h => absurd h (Nat.not_lt.2 hk), fun _ => ⟨?_, fun i hi => ?_,
      ends.cells.tlog, ?_, ?_, fun hw => ?_, fun hsp hh hf hw hq => ?_, fun hsp hw => ?_, fun hsp hf hh hw => ?_⟩⟩
    · rw [form]; exact journalErased_writer (s := s.erasedJ e.work) _ hw
    · rw [sector, if_pos rfl]; rfl
    · rw [sector, if_neg hi]
    · exact queuesOnly_trans (t := s.erasedJ e.work) (fun _ _ => ⟨rfl, Iff.rfl⟩) ends.changes
    · exact keepsBut_trans (keepsBut_mono (by simp) kept) (keepsBut_mono (by simp) ends.rest)
    · rw [journal, show journalErased e.work.sector (s.erasedJ e.work) = s.erasedJ e.work from if_pos hw]; rfl
    · have quiet := testHead_early (.inl ((erased_headFull hh (oldestAfter e.work.sector (s.erasedJ e.work))).trans hf))
      rw [journalErased_spare hw hsp, quiet] at form journal
      refine ⟨?_, fun range o hrange ho => ?_⟩
      · rw [form]
        exact placed_end (placed_endEvacuations (placed_enqueue (room hq)))
      · subst hrange
        rw [oldestAfter_erasedJ hk hh ho] at journal
        exact journal
    · have erased : journalErased e.work.sector (s.erasedJ e.work) = enqueue .journalState (s.erasedJ e.work) := by
        unfold journalErased
        exact (if_neg hw).trans (if_neg hsp)
      rw [erased] at form journal
      refine ⟨journal, fun hq => ?_⟩
      rw [form]
      exact placed_end (placed_endEvacuations (placed_enqueue (room hq)))
    · have nofault : s.journal.writer ≠ .fault := by rw [hw]; exact nofun
      obtain ⟨x, hx⟩ : ∃ x, enqueue .journalState ((s.erasedJ e.work).onJournal fun j =>
        { j with oldest := oldestAfter e.work.sector (s.erasedJ e.work) }) = x := ⟨_, rfl⟩
      have jreg : x.store.jreg = (s.erasedJ e.work).store.jreg := by
        rw [← hx]
        exact (alters.enqueue (alters.refl [.journalState] [] [] ((s.erasedJ e.work).onJournal fun j =>
          { j with oldest := oldestAfter e.work.sector (s.erasedJ e.work) })) .journalState).cells.jreg
      have full : x.headFull = true := by rw [← hx]; exact (erased_headFull hh _).trans hf
      have spare : x.journal.spare = e.work.sector := by rw [← hx]; exact hsp.symm
      have erased : x.spareSec.erased = true := by
        unfold State.spareSec
        rw [spare, jsec_congr jreg, erasedJ_jsec, if_pos rfl]; rfl
      have moves : testHead x = moveJournalHead x := by
        rw [testHead_due full (by rw [← hx]; exact nofault)]
        unfold headFullTest
        exact if_pos erased
      rw [journalErased_spare nofault hsp, hx, moves] at journal
      have next : x.store.nextUsable e.work.sector =
          (circleAfter e.work.sector).find? fun i => !((finish v).store.jsec i).retired := by
        unfold Store.nextUsable
        simp only [sector, jsec_congr jreg, erasedJ_jsec]
      rw [journal]
      refine ⟨spare, rfl, ?_⟩
      show (x.store.nextUsable x.journal.spare).getD x.journal.spare = _
      rw [spare, next]

end

end Sys2Proof.Machine
/-! ## A failed erase (R142, R156, R164, R166 to R168) -/

namespace Sys2Proof.Machine

set_option Elab.async false

section
variable {s t u v : State} {w : Work} {e : EraseRun} {k : Nat}

/-- The state in which a failed erase has ended its item. -/
def State.eraseGaveUp (w : Work) (s : State) : State := endWork w ((freeEngine s).onFreeUses fun n => n + 1)

/-- What the failed erase leaves of its sector of the table log, before the sector is retired. -/
def State.residueT (w : Work) (s : State) : State :=
  (s.eraseGaveUp w).onStore fun t => t.modT w.sector (eraseResidue s.freeUses)

/-- What the failed erase leaves of its journal sector, before the sector is retired. -/
def State.residueJ (w : Work) (s : State) : State :=
  (s.eraseGaveUp w).onStore fun t => t.modJ w.sector (eraseResidue s.freeUses)

theorem eraseFailed_log (h : w.sector < 40) :
    eraseFailed w (freeEngine s) = endEvacuations (retireLog w.sector .eraseFailed (s.residueT w)) := by
  unfold eraseFailed
  exact if_neg (by simp only [inJournalRegion, decide_eq_true_eq]; omega)

theorem eraseFailed_journal (h : 40 ≤ w.sector) :
    eraseFailed w (freeEngine s) = retireJournal w.sector .eraseFailed (s.residueJ w) := by
  unfold eraseFailed
  exact if_pos (by simpa only [inJournalRegion, decide_eq_true_eq] using h)

theorem residueT_tsec (w : Work) (s : State) (i : Nat) : (s.residueT w).store.tsec i =
    if i = w.sector then eraseResidue s.freeUses (s.store.tsec i) else s.store.tsec i := by
  unfold State.residueT
  refine (Store.tsec_modT _ w.sector i _).trans ?_
  split
  · next h => rw [h]; rfl
  · rfl

theorem residueJ_jsec (w : Work) (s : State) (i : Nat) : (s.residueJ w).store.jsec i =
    if i = w.sector then eraseResidue s.freeUses (s.store.jsec i) else s.store.jsec i := by
  unfold State.residueJ
  refine (Store.jsec_modJ _ w.sector i _).trans ?_
  split
  · next h => rw [h]; rfl
  · rfl

theorem keepsBut_eraseGaveUp (w : Work) (s : State) : keepsBut [.store, .freeUses] s (s.eraseGaveUp w) := fun p hp => by
  cases p <;> first | (simp at hp; done) | rfl

theorem keepsBut_residueT (w : Work) (s : State) :
    keepsBut [.store, .freeUses] s ((s.residueT w).retiresT w.sector) := by
  unfold State.residueT State.retiresT
  exact keepsBut_trans (keepsBut_eraseGaveUp w s) (keepsBut_trans (keepsBut_mono (by simp) (keepsBut_onStore _))
    (keepsBut_mono (by simp) (keepsBut_onStore _)))

theorem keepsBut_residueJ (w : Work) (s : State) :
    keepsBut [.store, .freeUses] s ((s.residueJ w).retiresJ w.sector) := by
  unfold State.residueJ State.retiresJ
  exact keepsBut_trans (keepsBut_eraseGaveUp w s) (keepsBut_trans (keepsBut_mono (by simp) (keepsBut_onStore _))
    (keepsBut_mono (by simp) (keepsBut_onStore _)))

theorem eraseGaveUp_freeUses (w : Work) (s : State) : (s.eraseGaveUp w).freeUses = s.freeUses + 1 := rfl

/-! ### A sector of the table log -/

/-- What the retirement after a failed erase in the table log leaves. -/
structure logEraseFailed (w : Work) (s v : State) : Prop where
  ended : offList w v
  stalls : stallsAfter ([.sector w.sector .eraseFailed] ++
    if s.store.readOnly = false ∧ v.store.readOnly = true then [.readOnly] else []) s v
  altered : alters [] [] [.store] ((s.residueT w).logRetired w.sector .eraseFailed) v

theorem liveIn_logRetired (h : s.store.liveIn w.sector = []) :
    ((s.residueT w).logRetired w.sector .eraseFailed).store.liveIn w.sector = [] := by
  have first : (s.eraseGaveUp w).store.keepsRecs w.sector (s.residueT w).store :=
    Store.keepsRecs_modT _ _ (fun _ => rfl) fun _ => rfl
  have second : (s.residueT w).store.keepsRecs w.sector ((s.residueT w).retiresT w.sector).store :=
    Store.keepsRecs_modT (s.residueT w).store w.sector (f := fun x => { x with retired := true }) (fun _ => rfl) fun _ => rfl
  have was : (s.eraseGaveUp w).store.liveIn w.sector = [] := h
  rw [logRetired_store]
  exact (first.trans second).liveIn was

theorem logEraseFailed_of (hn : s.store.work.Nodup) (hk : w.sector < 40)
    (hl : w.kind = .evacuation → s.store.liveIn w.sector = []) (hv : v = eraseFailed w (freeEngine s)) :
    logEraseFailed w s v := by
  rw [hv, eraseFailed_log hk, retireLog_eq]
  have store := logRetired_store w.sector .eraseFailed (s.residueT w)
  have gone : offList w ((s.residueT w).logRetired w.sector .eraseFailed) := by
    refine ⟨by rw [store]; exact hn.not_mem_erase, fun _ => .inr (.inl ?_)⟩
    rw [tsec_congr (u := ((s.residueT w).logRetired w.sector .eraseFailed).store) (t := ((s.residueT w).retiresT w.sector).store)
      (by rw [store]), retiresT_tsec, if_pos rfl]
  have kept : offList w (evacuate w.sector ((s.residueT w).logRetired w.sector .eraseFailed)) :=
    gone.evacuate fun hw => liveIn_logRetired (hl (by rw [hw]))
  have altered : alters [] [] [.store] ((s.residueT w).logRetired w.sector .eraseFailed)
      (endEvacuations (countErased (moveLogHead false (evacuate w.sector ((s.residueT w).logRetired w.sector .eraseFailed))))) :=
    ((((alters.refl _ _ _ _).evacuate _).moveLogHead false).countErased).endEvacuations
  refine ⟨((kept.moveLogHead false).countErased).endEvacuations, ?_, altered⟩
  rw [altered.cells.readOnly]
  exact ((((logRetired_stalls w.sector .eraseFailed (s := s) (u := s.residueT w) rfl rfl rfl).evacuate w.sector).moveLogHead
    false).countErased).endEvacuations

/-! ### A journal sector -/

theorem offList_retireJournal (hn : s.store.work.Nodup) (hk : 40 ≤ w.sector) :
    offList w (retireJournal w.sector .eraseFailed (s.residueJ w)) := by
  have gone : offList w ((s.residueJ w).retiresJ w.sector) := ⟨hn.not_mem_erase, fun _ => .inl hk⟩
  have report : offList w (reportRetired w.sector .eraseFailed ((s.residueJ w).retiresJ w.sector)) :=
    gone.rest (by rw [reportRetired_store]; exact fun _ g => g) (by rw [reportRetired_store])
  exact (report.journalRetired _).endEvacuations

/-- A sector retired that is neither head nor spare, with two usable ones left, is recorded and no more (R166). -/
theorem retireJournal_elsewhere (hh : k ≠ s.journal.head) (hs : k ≠ s.journal.spare)
    (hu : 2 ≤ (s.retiresJ k).store.usableJournal) :
    (retireJournal k .eraseFailed s).journal = (offer (storeFaultBody k .eraseFailed) (s.retiresJ k)).journal := by
  have takes := Journal.takesIn.offer (storeFaultBody k .eraseFailed) (s.retiresJ k)
  have journal := reportRetired_journal k .eraseFailed (s.retiresJ k)
  show (journalRetired k (reportRetired k .eraseFailed (s.retiresJ k))).journal = _
  unfold journalRetired
  split
  · rfl
  · rw [if_neg (by rw [reportRetired_store]; omega), if_neg (by rw [journal, takes.head]; exact hh),
      if_neg (by rw [journal, takes.spare]; exact hs)]
    rfl

theorem usableJournal_congr {t u : Store} (h : u.jreg = t.jreg) : u.usableJournal = t.usableJournal := by
  unfold Store.usableJournal; simp only [jsec_congr h]

theorem exec_failedErase (he : s.store.engine = .erasing e) (hv : v = eraseFailed e.work (freeEngine s)) :
    exec (.eraseComplete false) s = .next (finish v) := by
  rw [exec_eraseComplete false he, if_neg Bool.false_ne_true, hv]

/-- What a failed erase leaves in the table log. -/
theorem failedLogErase (hn : s.store.work.Nodup) (he : s.store.engine = .erasing e) (hk : e.work.sector < 40)
    (hl : e.work.kind = .evacuation → s.store.liveIn e.work.sector = []) :
    ∃ t, exec (.eraseComplete false) s = .next t ∧ e.work ∉ t.store.work ∧ t.freeUses = s.freeUses + 1 ∧
      keepsSlots s.store t.store ∧ t.store.nextAppend = s.store.nextAppend ∧ t.store.identity = s.store.identity ∧
      storePosts (some (e.work.sector, .eraseFailed)) s t ∧
      (t.store.tsec e.work.sector).retired = true ∧ (∀ i, i ≠ e.work.sector → t.store.tsec i = s.store.tsec i) ∧
        t.store.jreg = s.store.jreg ∧ queuesOnly [] s t ∧
        t.store.readOnly = (s.store.readOnly || decide (t.store.usableLog < 30)) ∧
        journaled [⟨.storeFault, none, none, none, .num e.work.sector, .retire .eraseFailed, .none⟩] s t ∧
        keepsBut [.journal, .store, .link, .freeUses] s t := by
  obtain ⟨v, hv⟩ : ∃ v, v = eraseFailed e.work (freeEngine s) := ⟨_, rfl⟩
  obtain ⟨gone, stalls, altered⟩ := logEraseFailed_of hn hk hl hv
  have ends := altered.changesOnly
  have retired := logRetired_store e.work.sector .eraseFailed (s.residueT e.work)
  have tlog : (finish v).store.tlog = ((s.residueT e.work).retiresT e.work.sector).store.tlog :=
    ends.cells.tlog.trans (by rw [retired])
  have sector : ∀ i, (finish v).store.tsec i = if i = e.work.sector then
      { eraseResidue s.freeUses (s.store.tsec i) with retired := true } else s.store.tsec i := fun i => by
    rw [tsec_congr tlog, retiresT_tsec, residueT_tsec, residueT_tsec]
    by_cases h : i = e.work.sector
    · rw [if_pos h, if_pos h, if_pos rfl, h]
    · rw [if_neg h, if_neg h, if_neg h]
  have jreg : (finish v).store.jreg = s.store.jreg := ends.cells.jreg.trans (by rw [retired]; rfl)
  have marks : keepsBut [.journal, .store, .link, .freeUses] s (finish v) :=
    keepsBut_trans (keepsBut_mono (by simp) (keepsBut_eraseGaveUp e.work s)) <|
      keepsBut_trans (t := s.residueT e.work) (keepsBut_mono (by simp) (keepsBut_onStore _)) <|
        keepsBut_trans (keepsBut_mono (by simp) (keepsBut_logRetired _ _ _)) (keepsBut_mono (by simp) ends.rest)
  have journal : (finish v).journal = (offer (storeFaultBody e.work.sector .eraseFailed)
      ((s.residueT e.work).retiresT e.work.sector)).journal :=
    (ends.rest .journal (by simp) : _ = _).trans (logRetired_journal _ _ _)
  have freeUses : (finish v).freeUses = s.freeUses + 1 :=
    (ends.rest .freeUses (by simp) : _ = _).trans (keepsBut_logRetired _ _ _ .freeUses (by simp))
  refine ⟨_, exec_failedErase he hv, gone.finish.ended, freeUses, ⟨fun i => ?_, fun i => by rw [jsec_congr jreg], ?_⟩, ?_, ?_,
    storePosts_finish stalls ?_, ?_, fun i hi => by rw [sector, if_neg hi], jreg, ?_, ?_, ?_, marks⟩
  · rw [sector]; split <;> rfl
  · exact ends.cells.idPlaces.trans (by rw [retired]; rfl)
  · exact ends.cells.nextAppend.trans (by rw [retired]; rfl)
  · exact ends.cells.identity.trans (by rw [retired]; rfl)
  · have writer : v.journal.writer = s.journal.writer := by
      rw [(altered.rest .journal (by simp) : _ = _), logRetired_journal]
      exact (Journal.takesIn.offer (storeFaultBody e.work.sector .eraseFailed) _).writer
    rw [writer, if_neg (c := s.journal.writer ≠ .fault ∧ s.journal.writer = .fault) fun g => g.1 g.2]
    simp
  · rw [sector, if_pos rfl]
  · refine queuesOnly_trans (t := (s.residueT e.work).logRetired e.work.sector .eraseFailed) (fun q _ => ⟨?_, ?_⟩) ends.changes
    · unfold Store.contents; rw [retired]; rfl
    · rw [retired]; rfl
  · rw [ends.cells.readOnly, retired, usableLog_congr tlog]; rfl
  · have clock : (finish v).clock = s.clock := marks .clock (by simp)
    have held : ((s.residueT e.work).retiresT e.work.sector).journal = s.journal := keepsBut_residueT _ _ .journal (by simp)
    have told : ((s.residueT e.work).retiresT e.work.sector).clock = s.clock := keepsBut_residueT _ _ .clock (by simp)
    have fault : journaled [storeFaultBody e.work.sector .eraseFailed] s (finish v) :=
      journaled_one journal held (told.trans clock.symm)
    exact fault

/-- What a failed erase leaves in the journal region. -/
theorem failedJournalErase (hn : s.store.work.Nodup) (he : s.store.engine = .erasing e) (hk : 40 ≤ e.work.sector) :
    ∃ t, exec (.eraseComplete false) s = .next t ∧ e.work ∉ t.store.work ∧ t.freeUses = s.freeUses + 1 ∧
      keepsSlots s.store t.store ∧ t.store.nextAppend = s.store.nextAppend ∧ t.store.identity = s.store.identity ∧
      storePosts (some (e.work.sector, .eraseFailed)) s t ∧
      (t.store.jsec e.work.sector).retired = true ∧ (∀ i, i ≠ e.work.sector → t.store.jsec i = s.store.jsec i) ∧
        t.store.tlog = s.store.tlog ∧ queuesOnly [.journalState] s t ∧
        (t.store.usableJournal < 2 → t.journal.writer = .fault) ∧
        (e.work.sector ≠ s.journal.head → e.work.sector ≠ s.journal.spare → 2 ≤ t.store.usableJournal →
          journaled [⟨.storeFault, none, none, none, .num e.work.sector, .retire .eraseFailed, .none⟩] s t) ∧
        keepsBut [.journal, .store, .link, .freeUses] s t := by
  obtain ⟨v, hv⟩ : ∃ v, v = eraseFailed e.work (freeEngine s) := ⟨_, rfl⟩
  have form := hv.trans (eraseFailed_journal hk)
  have altered := form ▸ alters_retireJournal e.work.sector .eraseFailed (s.residueJ e.work)
  have ends := altered.changesOnly
  have sector : ∀ i, (finish v).store.jsec i = if i = e.work.sector then
      { eraseResidue s.freeUses (s.store.jsec i) with retired := true } else s.store.jsec i := fun i => by
    rw [jsec_congr ends.cells.jreg, retiresJ_jsec, residueJ_jsec, residueJ_jsec]
    by_cases h : i = e.work.sector
    · rw [if_pos h, if_pos h, if_pos rfl, h]
    · rw [if_neg h, if_neg h, if_neg h]
  have tlog : (finish v).store.tlog = s.store.tlog := ends.cells.tlog
  have marks : keepsBut [.journal, .store, .link, .freeUses] s (finish v) :=
    keepsBut_trans (keepsBut_mono (by simp) (keepsBut_eraseGaveUp e.work s)) <|
      keepsBut_trans (t := s.residueJ e.work) (keepsBut_mono (by simp) (keepsBut_onStore _)) <|
        keepsBut_trans (t := (s.residueJ e.work).retiresJ e.work.sector) (keepsBut_mono (by simp) (keepsBut_onStore _))
          (keepsBut_mono (by simp) ends.rest)
  have journal : (finish v).journal = (retireJournal e.work.sector .eraseFailed (s.residueJ e.work)).journal := by
    rw [(finish_part v (p := .journal) nofun nofun : _ = _), form]
  have usable : (finish v).store.usableJournal = ((s.residueJ e.work).retiresJ e.work.sector).store.usableJournal :=
    usableJournal_congr ends.cells.jreg
  have slots : keepsSlots s.store (finish v).store :=
    ⟨fun i => by rw [tsec_congr tlog], fun i => by rw [sector]; split <;> rfl, ends.cells.idPlaces⟩
  refine ⟨_, exec_failedErase he hv, ?_, (ends.rest .freeUses (by simp) : _ = _), slots, ends.cells.nextAppend, ends.cells.identity,
    ?_, ?_, fun i hi => by rw [sector, if_neg hi], tlog, ?_, fun hu => ?_, fun hh hsp hu => ?_, marks⟩
  · rw [form]; exact (offList_retireJournal hn hk).finish.ended
  · have kept : keepsBut [.store, .freeUses] s (s.residueJ e.work) := by
      unfold State.residueJ
      exact keepsBut_trans (keepsBut_eraseGaveUp _ s) (keepsBut_mono (by simp) (keepsBut_onStore _))
    have journal : (s.residueJ e.work).journal = s.journal := kept .journal (by simp)
    have stalls := retireJournal_stalls e.work.sector .eraseFailed (s := s) (u := s.residueJ e.work) (kept .link (by simp)) rfl
      (by rw [journal])
    rw [← form] at stalls
    refine storePosts_finish stalls ?_
    have readOnly : v.store.readOnly = s.store.readOnly := altered.cells.readOnly
    rw [readOnly, if_neg (c := s.store.readOnly = false ∧ s.store.readOnly = true) fun g => absurd (g.1.symm.trans g.2) nofun]
    simp
  · rw [sector, if_pos rfl]
  · have queue : ((s.residueJ e.work).retiresJ e.work.sector).store.queue = s.store.queue := by
      simp only [State.retiresJ, State.residueJ, State.eraseGaveUp, State.onStore, Store.modJ, endWork, freeEngine, State.onFreeUses]
    have waiting : ((s.residueJ e.work).retiresJ e.work.sector).store.waiting = s.store.waiting := by
      simp only [State.retiresJ, State.residueJ, State.eraseGaveUp, State.onStore, Store.modJ, endWork, freeEngine, State.onFreeUses]
    refine queuesOnly_trans (fun _ _ => ⟨?_, by rw [waiting]⟩) ends.changes
    unfold Store.contents; rw [queue]
  · rw [journal, retireJournal_writer, ← usable]
    exact .inr hu
  · have clock : (finish v).clock = s.clock := marks .clock (by simp)
    have held : ((s.residueJ e.work).retiresJ e.work.sector).journal = s.journal := keepsBut_residueJ _ _ .journal (by simp)
    have told : ((s.residueJ e.work).retiresJ e.work.sector).clock = s.clock := keepsBut_residueJ _ _ .clock (by simp)
    refine journaled_one (b := storeFaultBody e.work.sector .eraseFailed) ?_ held (told.trans clock.symm)
    rw [journal]
    exact retireJournal_elsewhere (s := s.residueJ e.work) hh hsp (by rw [← usable]; exact hu)

end

/-- Settles O59: `soundErase`, `failedLogErase` and `failedJournalErase`, and the failure that the run limit is. -/
theorem erasesComplete : Obligations.ErasesComplete := by
  refine ⟨fun s e k _ he hk hn => soundErase hn he hk, fun s e k _ he hk hn hl => ?_, fun s e he => ?_⟩
  · subst hk
    rcases Nat.lt_or_ge e.work.sector 40 with hk | hk
    · obtain ⟨t, run, ended, uses, slots, append, identity, posts, log⟩ := failedLogErase hn he hk hl
      exact ⟨t, run, ended, uses, slots, append, identity, posts, fun _ => log, fun h => absurd hk (Nat.not_lt.2 h)⟩
    · obtain ⟨t, run, ended, uses, slots, append, identity, posts, journal⟩ := failedJournalErase hn he hk
      exact ⟨t, run, ended, uses, slots, append, identity, posts, fun h => absurd h (Nat.not_lt.2 hk), fun _ => journal⟩
  show execEraseRunLimit s = execEraseComplete false s
  unfold execEraseRunLimit execEraseComplete
  rw [he]

end Sys2Proof.Machine

/-! ## The finalisation of pending lines (R126 to R128): what `finaliseLine` and the operations built on it leave -/

namespace Sys2Proof.Machine

set_option Elab.async false

section
variable {K : List EntryKey} {P : List Part} {C : List NoticeClass} {s t u : State} {l : LineId} {a room k : Nat}
  {p : PendingLine}

/-- Posting leaves every field of the link but the notice table. -/
theorem Link.posts_field {m m' : Link} (h : m.posts C m') {β : Type} (f : Link → β)
    (hf : ∀ x n, f { x with notices := n } = f x) : f m' = f m := by
  rw [← h.rest]; exact (hf _ _).symm

/-- The frame of `changesOnly` inside a step: what the store engine and the transmitter have not taken up yet. -/
theorem alters.changesOnly_inner (h : alters K P C s u) : Machine.changesOnly K P C s u where
  cells := h.cells
  changes := h.changes
  link :=
    { rate := Link.posts_field h.link Link.rate fun _ _ => rfl
      inbound := Link.posts_field h.link Link.inbound fun _ _ => rfl
      holdOut := Link.posts_field h.link Link.holdOut fun _ _ => rfl
      holdIn := Link.posts_field h.link Link.holdIn fun _ _ => rfl
      deferred := Link.posts_field h.link Link.deferred fun _ _ => rfl
      deferredDone := Link.posts_field h.link Link.deferredDone fun _ _ => rfl
      errors := Link.posts_field h.link Link.errors fun _ _ => rfl }
  slot := by rw [Link.posts_field h.link Link.slot fun _ _ => rfl]
  notices := fun c hc => Or.inl (h.link.notices c fun hm => hc (by simp [hm]))
  rest := h.rest

/-- An entry just queued has its place or waits for one. -/
theorem placed_or_waits (j : EntryKey) (s : State) : placed [j] (enqueue j s) ∨ j ∈ (enqueue j s).store.waiting := by
  by_cases hr : s.store.roomFor j
  · exact .inl (placed_enqueue hr)
  · obtain ⟨hp, hq⟩ := not_or.mp hr
    refine .inr ?_
    by_cases hw : j ∈ s.store.waiting <;> simp [enqueue, State.onStore, Store.offerChange, hp, hq, hw]

theorem State.chargeFits_iff : s.chargeFits room = true ↔
    s.journal.takesMoney = true ∧ s.store.canQueue [.room room] 0 = true := by
  simp [State.chargeFits]

theorem finaliseLine_eq_none (h : ¬ (s.journal.takesMoney = true ∧ s.store.canQueue [.room room] 0 = true)) :
    finaliseLine l a room k p s = none := if_neg (mt State.chargeFits_iff.mp h)

/-! ### Each half of a finalisation -/

/-- A line charged, its slot not yet left. -/
def State.charged (s : State) (name : NodeName) (room k : Nat) (p : PendingLine) : State :=
  if p.issue = s.currentIssue room then chargeTab name room k p s else chargePrior name room k p s

theorem finaliseLine_eq_some (h : s.journal.takesMoney = true ∧ s.store.canQueue [.room room] 0 = true) :
    finaliseLine l a room k p s = some (leaveSlot l a k (s.charged (l, a) room k p)) :=
  if_pos (State.chargeFits_iff.mpr h)

theorem currentIssue_of {x : Room} (hx : s.rooms.get room = some x) : s.currentIssue room = x.entry.issue := by
  simp [State.currentIssue, hx]

theorem tab_of {x : Room} (hx : s.rooms.get room = some x) : s.tab room = x.entry.tab := by simp [State.tab, hx]

theorem alters.leaveSlot (h : alters K P C s t) (hk : EntryKey.node l a ∈ K) (hp : Part.nodes ∈ P) :
    alters K P C s (Machine.leaveSlot l a k t) := (h.modNode l a _ hp).enqueue _ hk

theorem alters.charged {name : NodeName} (h : alters K P C s t) (hk : EntryKey.room room ∈ K) (hr : Part.rooms ∈ P)
    (hj : Part.journal ∈ P) (hc : NoticeClass.journal ∈ C) : alters K P C s (t.charged name room k p) := by
  unfold State.charged
  split
  · exact ((h.acceptRec _ hj hc).modRoom room _ hr).enqueue _ hk
  · exact h.acceptRec _ hj hc

@[simp] theorem charged_nodes (name : NodeName) : (s.charged name room k p).nodes = s.nodes := by
  unfold State.charged chargeTab chargePrior; split <;> simp

@[simp] theorem charged_clock (name : NodeName) : (s.charged name room k p).clock = s.clock := by
  unfold State.charged chargeTab chargePrior; split <;> simp

theorem charged_rooms (name : NodeName) (i : Nat) : (s.charged name room k p).rooms.get i =
    (s.rooms.get i).map fun y => if i = room ∧ p.issue = y.entry.issue
      then { y with entry := { y.entry with tab := min (y.entry.tab + p.amount) 9999999 } } else y := by
  by_cases hi : i = room
  · subst hi
    cases hx : s.rooms.get i with
    | none =>
      unfold State.charged chargeTab chargePrior
      split <;> simp [State.get_modRoom, hx]
    | some x =>
      unfold State.charged chargeTab chargePrior
      rw [currentIssue_of hx, tab_of hx]
      by_cases hp : p.issue = x.entry.issue <;> simp [State.get_modRoom, hx, hp, Config.tabCeiling]
  · unfold State.charged chargeTab chargePrior
    split <;> simp [State.get_modRoom, hi]

/-- The CHARGE record of a line of a defined room. -/
def chargeRecord (name : NodeName) (room k : Nat) (p : PendingLine) (x : Room) : JBody :=
  ⟨.charge, some name, none, some room, .num p.amount, .num p.minute,
    .charge p.item k p.issue (decide (p.issue = x.entry.issue ∧ 9999999 < x.entry.tab + p.amount))
      (decide (p.issue ≠ x.entry.issue))⟩

theorem charged_journal {name : NodeName} {x : Room} (hx : s.rooms.get room = some x) :
    (s.charged name room k p).journal = (acceptRec (chargeRecord name room k p x) s).journal := by
  unfold State.charged chargeTab chargePrior
  rw [currentIssue_of hx, tab_of hx]
  by_cases hp : p.issue = x.entry.issue
  · have hb : chargeBody name room k p (decide (Config.tabCeiling < x.entry.tab + p.amount)) false =
        chargeRecord name room k p x := by
      have hd : decide (p.issue = x.entry.issue ∧ 9999999 < x.entry.tab + p.amount) =
          decide (Config.tabCeiling < x.entry.tab + p.amount) :=
        decide_eq_decide.mpr (and_iff_right hp)
      rw [chargeBody, chargeRecord, hd, decide_eq_false (not_not_intro hp)]
    simp [hp, hb]
  · simp [hp, chargeBody, chargeRecord]

theorem charged_placed {name : NodeName} {x : Room} (hx : s.rooms.get room = some x) (hp : p.issue = x.entry.issue)
    (hq : s.store.canQueue [.room room] 0 = true) : placed [.room room] (s.charged name room k p) := by
  unfold State.charged
  rw [if_pos (hp.trans (currentIssue_of hx).symm)]
  exact placed_enqueue (canQueue_roomFor (keys := [.room room]) (n := 0) (by simpa using hq) (by simp))

/-- A line finalised. -/
theorem lineCharged_leaveSlot (hq : s.store.canQueue [.room room] 0 = true) :
    lineCharged l a room k p s (leaveSlot l a k (s.charged (l, a) room k p)) where
  node := by simp [leaveSlot, State.node_congr (charged_nodes (l, a))]
  others := fun key hk => by simp [leaveSlot, State.get_modNode, hk]
  rooms := fun i => by simp [leaveSlot, charged_rooms]
  record := fun x hx => by
    have ht : (leaveSlot l a k (s.charged (l, a) room k p)).clock = s.clock := by simp [leaveSlot]
    have hj : (leaveSlot l a k (s.charged (l, a) room k p)).journal = (s.charged (l, a) room k p).journal := by
      simp [leaveSlot]
    unfold recorded
    rw [ht, hj, charged_journal hx]
    rfl
  roomPlace := fun x hx hp => by
    have hu := charged_placed (k := k) (name := (l, a)) hx hp hq
    intro j hj
    rw [List.mem_singleton] at hj
    subst hj
    have hv : (leaveSlot l a k (s.charged (l, a) room k p)).entryVal (.room room) =
        (s.charged (l, a) room k p).entryVal (.room room) := by simp [leaveSlot, State.entryVal]
    rw [hv, leaveSlot, enqueue_contents_other (j := .room room) (k := .node l a) (h := by simp)]
    simpa using hu _ (by simp)
  nodeQueued := placed_or_waits _ _
  rest := (((alters.refl _ _ _ s).charged (by simp) (by simp) (by simp) (by simp)).leaveSlot (by simp)
    (by simp)).changesOnly_inner

end

end Sys2Proof.Machine

/-! ## The pending lines of a minibar finalised in order -/

namespace Sys2Proof.Machine

set_option Elab.async false

section
variable {s t u : State} {l : LineId} {a room : Nat} {n m : Node} {ls : FMap PendingLine}

theorem finaliseLines_charges (ls : FMap PendingLine) (s : State) :
    linesCharged l a room ls s (finaliseLines l a room ls s).1 := by
  induction ls generalizing s with
  | nil => rfl
  | cons e rest ih =>
    unfold linesCharged finaliseLines
    by_cases h : s.journal.takesMoney = true ∧ s.store.canQueue [.room room] 0 = true
    · rw [if_pos h, finaliseLine_eq_some h]
      exact ⟨_, lineCharged_leaveSlot h.2, ih _⟩
    · rw [if_neg h, finaliseLine_eq_none h]

theorem FMap.del_first {α : Type} {k : Nat} {v : α} {m : FMap α} (h : FMap.wf ((k, v) :: m)) :
    FMap.del ((k, v) :: m) k = m := by
  have hlt : ∀ e ∈ m, k < e.1 := (List.pairwise_cons.mp h).1
  unfold FMap.del
  rw [List.filter_cons_of_neg (by simp), List.filter_eq_self]
  exact fun e he => by simpa using (hlt e he).ne'

/-- What a finalisation may change of its node: the baseline and the pending lines. -/
structure Node.chargedTo (n m : Node) : Prop where
  same : m = { n with
    entry := { n.entry with baseline := m.entry.baseline }
    bar := { n.bar with lines := m.bar.lines } }

theorem Node.chargedTo.refl (n : Node) : n.chargedTo n := ⟨rfl⟩

theorem Node.chargedTo.trans {n m k : Node} (h : n.chargedTo m) (g : m.chargedTo k) : n.chargedTo k :=
  ⟨by rw [g.same, h.same]⟩

theorem Node.chargedTo.keepsRoom (h : n.chargedTo m) : m.entry.room = n.entry.room := by rw [h.same]

/-- What is left of a minibar whose lines have been finalised as far as they proceed. -/
theorem finaliseLines_leaves (hn : s.node l a = some n) (hl : n.bar.lines = ls) (hwf : ls.wf) :
    ∃ m, (finaliseLines l a room ls s).1.node l a = some m ∧ n.chargedTo m ∧ m.bar.lines.wf ∧
      ((finaliseLines l a room ls s).2 = true ↔ m.bar.lines = []) := by
  induction ls generalizing s n with
  | nil => exact ⟨n, hn, .refl n, hl ▸ hwf, by simp [finaliseLines, hl]⟩
  | cons e rest ih =>
    unfold finaliseLines
    by_cases h : s.journal.takesMoney = true ∧ s.store.canQueue [.room room] 0 = true
    · rw [finaliseLine_eq_some h]
      have hc := lineCharged_leaveSlot (l := l) (a := a) (k := e.1) (p := e.2) h.2
      have hnode := hc.node
      rw [hn] at hnode
      obtain ⟨m, hm, hs, hw, hall⟩ := ih hnode ((congrArg (FMap.del · e.1) hl).trans (FMap.del_first hwf)) hwf.of_cons
      exact ⟨m, hm, (Node.chargedTo.mk rfl).trans hs, hw, hall⟩
    · rw [finaliseLine_eq_none h]
      exact ⟨n, hn, .refl n, hl ▸ hwf, by simp [hl]⟩

theorem State.restState_congr (h : ∀ i, (t.rooms.get i).map Room.hold = (s.rooms.get i).map Room.hold)
    (r : Option Nat) : t.restState r = s.restState r := by
  cases r with
  | none => rfl
  | some i =>
    have := h i
    unfold State.restState
    cases hs : s.rooms.get i <;> cases ht : t.rooms.get i <;> simp_all

theorem lineCharged.hold {k : Nat} {p : PendingLine} (h : lineCharged l a room k p s t) (i : Nat) :
    (t.rooms.get i).map Room.hold = (s.rooms.get i).map Room.hold := by
  rw [h.rooms, Option.map_map]
  congr 1
  funext y
  simp only [Function.comp_apply]
  split <;> rfl

/-- What a finalisation leaves of the other nodes and of the hold marks. -/
theorem linesCharged_keeps (h : linesCharged l a room ls s u) :
    (∀ key, key ≠ nodeKey l a → u.nodes.get key = s.nodes.get key) ∧
      ∀ i, (u.rooms.get i).map Room.hold = (s.rooms.get i).map Room.hold := by
  induction ls generalizing s with
  | nil => cases h; exact ⟨fun _ _ => rfl, fun _ => rfl⟩
  | cons e rest ih =>
    unfold linesCharged at h
    split at h
    · obtain ⟨v, hv, hu⟩ := h
      obtain ⟨hk, hh⟩ := ih hu
      exact ⟨fun key hne => (hk key hne).trans (hv.others key hne), fun i => (hh i).trans (hv.hold i)⟩
    · cases h; exact ⟨fun _ _ => rfl, fun _ => rfl⟩

theorem linesCharged.others (h : linesCharged l a room ls s u) {key : Nat} (hk : key ≠ nodeKey l a) :
    u.nodes.get key = s.nodes.get key := (linesCharged_keeps h).1 key hk

theorem linesCharged.restState (h : linesCharged l a room ls s u) (r : Option Nat) : u.restState r = s.restState r :=
  State.restState_congr (linesCharged_keeps h).2 r

/-! ### The lines of a minibar -/

theorem finaliseBar_eq (hn : s.node l a = some n) :
    finaliseBar l a s = finaliseLines l a (n.entry.room.getD 0) n.bar.lines s := by
  simp [finaliseBar, hn, NodeEntry.boundRoom]

theorem finaliseBar_none (hn : s.node l a = none) : finaliseBar l a s = (s, true) := by simp [finaliseBar, hn]

theorem comeToRest_eq (hn : s.node l a = some n) : comeToRest l a s =
    s.modNode l a fun y => { y with bar := { y.bar with state := s.restState n.entry.room } } := by
  simp [comeToRest, hn, modBar]

/-- Every record of a node table holds pending lines in canonical form. -/
def linesWf (s : State) : Prop := ∀ key n, s.nodes.get key = some n → n.bar.lines.wf

theorem linesWf_modNode (h : linesWf s) {f : Node → Node} (hf : ∀ n, n.bar.lines.wf → (f n).bar.lines.wf) :
    linesWf (s.modNode l a f) := by
  intro key n hn
  rw [State.get_modNode] at hn
  split at hn
  · obtain ⟨m, hm, rfl⟩ := Option.map_eq_some_iff.mp hn
    exact hf m (h _ m hm)
  · exact h key n hn

theorem linesWf_finaliseBar (h : linesWf s) : linesWf (finaliseBar l a s).1 := by
  cases hn : s.node l a with
  | none => rw [finaliseBar_none hn]; exact h
  | some n =>
    rw [finaliseBar_eq hn]
    intro key k hk
    by_cases hkey : key = nodeKey l a
    · obtain ⟨m, hm, -, hw, -⟩ := finaliseLines_leaves (room := n.entry.room.getD 0) hn rfl (h _ n hn)
      rw [hkey] at hk
      obtain rfl : m = k := Option.some.inj (hm.symm.trans hk)
      exact hw
    · rw [(finaliseLines_charges _ s).others hkey] at hk
      exact h key k hk

/-- The drain finalises the lines of the minibars as `barsCharged` says. -/
theorem barsCharged_foldl (es : List (LineId × Nat × Node)) (s : State) :
    barsCharged es s (es.foldl (fun x e => (finaliseBar e.1 e.2.1 x).1) s) := by
  induction es generalizing s with
  | nil => rfl
  | cons e rest ih =>
    refine ⟨(finaliseBar e.1 e.2.1 s).1, ?_, ih _⟩
    cases hn : s.node e.1 e.2.1 with
    | none => simp only; rw [finaliseBar_none hn]
    | some n => simp only; rw [finaliseBar_eq hn]; exact finaliseLines_charges _ _

/-- A node present before a finalisation is present after it. -/
theorem finaliseBar_present {i : LineId} {b : Nat} (hw : linesWf s) (h : (s.node i b).isSome = true) :
    ((finaliseBar l a s).1.node i b).isSome = true := by
  cases hn : s.node l a with
  | none => rwa [finaliseBar_none hn]
  | some n =>
    rw [finaliseBar_eq hn]
    by_cases hkey : nodeKey i b = nodeKey l a
    · obtain ⟨m, hm, -⟩ := finaliseLines_leaves (room := n.entry.room.getD 0) hn rfl (hw _ n hn)
      unfold State.node at hm ⊢
      rw [hkey, hm]; rfl
    · unfold State.node at h ⊢
      rwa [(finaliseLines_charges _ s).others hkey]

/-- The retry finalises the lines of the waiting minibars as `waitingCharged` says. -/
theorem waitingCharged_retry (es : List (LineId × Nat × Node)) (hw : linesWf s)
    (hp : ∀ e ∈ es, (s.node e.1 e.2.1).isSome = true) : waitingCharged es s (retryWaiting es s) := by
  induction es generalizing s with
  | nil => rfl
  | cons e rest ih =>
    obtain ⟨n, hn⟩ := Option.isSome_iff_exists.mp (hp e (by simp))
    obtain ⟨m, hm, hto, -, hall⟩ := finaliseLines_leaves (room := n.entry.room.getD 0) hn rfl (hw _ n hn)
    have hwf := linesWf_finaliseBar (l := e.1) (a := e.2.1) hw
    have hpres : ∀ x ∈ rest, ((finaliseBar e.1 e.2.1 s).1.node x.1 x.2.1).isSome = true :=
      fun x hx => finaliseBar_present hw (hp x (by simp [hx]))
    rw [finaliseBar_eq hn] at hwf hpres
    refine ⟨n, _, m, hn, finaliseLines_charges _ _, hm, ?_⟩
    unfold retryWaiting
    simp only [finaliseBar_eq hn]
    by_cases he : m.bar.lines = []
    · rw [if_pos he, if_pos (hall.mpr he), comeToRest_eq hm, hto.keepsRoom]
      refine ih (linesWf_modNode hwf fun _ h => h) fun x hx => ?_
      rw [State.node, State.get_modNode]
      split
      · rw [hm]; rfl
      · exact hpres x hx
    · rw [if_neg he, if_neg (mt hall.mp he)]

end

end Sys2Proof.Machine

/-! ## The minibar timers (R114, R126 to R128) -/

namespace Sys2Proof.Machine

set_option Elab.async false

/-! ### An order placed on a line that is at work -/

section
variable {v : State} {i : LineId} {o : Order}

theorem orderExchange_placeOrder : (placeOrder i o v).orderExchange i o = v.orderExchange i o := by
  unfold placeOrder
  split
  · unfold State.orderExchange State.orderFrame
    simp
  · rfl

/-- An order placed on a line at work, or refused by it, with what the line then does. -/
theorem proceed_placeOrder (hs : (v.line i).running = true → (v.line i).restsOrWaits) (hd : v.draining = false) :
    onLine i (placeOrder i o v) (proceed i (placeOrder i o v)) ∧
      (proceed i (placeOrder i o v)).nodes = v.nodes ∧
      (proceed i (placeOrder i o v)).line i = if (v.line i).places o.cls = true then v.placing i o else v.line i := by
  have draining : (placeOrder i o v).draining = false := by rw [← hd]; unfold placeOrder; split <;> rfl
  by_cases hp : (v.line i).places o.cls = true
  · have hr : (v.line i).running = true := by simp [Line.places] at hp; exact hp.1
    obtain ⟨online, nodes, line⟩ := proceed_placed (placeOrder_line hp) hr draining (hs hr)
    rw [if_pos hp]
    exact ⟨online, nodes.trans placeOrder_nodes, line orderExchange_placeOrder⟩
  · have stays : placeOrder i o v = v := if_neg hp
    have idle : proceed i v = v := by
      unfold proceed
      cases hr : (v.line i).running with
      | false => rfl
      | true =>
        obtain hx | ⟨-, -, hq⟩ := hs hr
        · simp [hx]
        · refine absurd ?_ hp
          unfold Line.places
          rw [hr, hq]
          cases o.cls <;> rfl
    rw [stays, idle, if_neg hp]
    exact ⟨.refl i v, rfl, rfl⟩

end

/-! ### The timers -/

section
variable {s t u w : State} {l : LineId} {a room k : Nat} {n m : Node} {p : PendingLine} {x : Room}

theorem modBar_node (hn : s.node l a = some n) (f : BarRec → BarRec) :
    (modBar l a f s).node l a = some { n with bar := f n.bar } := by
  unfold modBar; rw [State.node_modNode_self, hn]; rfl

theorem modBar_other (f : BarRec → BarRec) {key : Nat} (hk : key ≠ nodeKey l a) :
    (modBar l a f s).nodes.get key = s.nodes.get key := by
  unfold modBar; rw [State.get_modNode, if_neg hk]

theorem comeToRest_bar (hn : s.node l a = some n) :
    comeToRest l a s = modBar l a (fun b => { b with state := s.restState n.entry.room }) s := comeToRest_eq hn

theorem enterChargeWait_notice (hn : s.node l a = some n) : (enterChargeWait l a room s).link.notices.get .minibar =
    (s.link.notices.get .minibar).occur (.charges room n.bar.lines.length) := by
  unfold enterChargeWait State.lineCount
  rw [hn, post_notice_self]
  simp [modBar]

/-- LATCH_END of an opening that ends unused, without an immediate end of the grace. -/
theorem endUnused_eq (hn : s.node l a = some n) (hg : n.bar.state = .openGuest ∧ n.bar.backToSettling = true →
      s.settings.grace ≠ 0) : ∃ v : State, endUnused l a n s = proceed l (placeOrder l (relatch a) v) ∧
    v.node l a = some { n with bar := { n.bar with
      latchEnd := none, opener := none, opened := false, backToSettling := false
      state := if n.bar.state = .openGuest ∧ n.bar.backToSettling = true then .settling else s.restState n.entry.room
      graceEnd := if n.bar.state = .openGuest ∧ n.bar.backToSettling = true then some s.settings.grace
        else n.bar.graceEnd } } ∧
    (∀ key, key ≠ nodeKey l a → v.nodes.get key = s.nodes.get key) ∧ alters [] [.nodes] [] s v := by
  let v₁ := modBar l a (fun b => { b with latchEnd := none, opener := none, opened := false, backToSettling := false }) s
  have node₁ : v₁.node l a = _ := modBar_node hn _
  have altered : alters [] [.nodes] [] s v₁ := (alters.refl _ _ _ s).modNode l a _
  have settings : v₁.settings = s.settings := altered.rest .settings (by simp)
  by_cases hb : n.bar.state = .openGuest ∧ n.bar.backToSettling = true
  · refine ⟨enterSettling l a n.entry.boundRoom v₁, by unfold endUnused; simp only [if_pos hb]; rfl, ?_⟩
    have he : enterSettling l a n.entry.boundRoom v₁ =
        modBar l a (fun b => { b with state := .settling, graceEnd := some s.settings.grace }) v₁ := by
      unfold enterSettling
      simp only [settings, if_neg (hg hb)]
    rw [he, if_pos hb, if_pos hb]
    exact ⟨modBar_node node₁ _, fun key hk => (modBar_other _ hk).trans (modBar_other _ hk), altered.modNode l a _⟩
  · refine ⟨comeToRest l a v₁, by unfold endUnused; simp only [if_neg hb]; rfl, ?_⟩
    have rest : v₁.restState n.entry.room = s.restState n.entry.room :=
      State.restState_congr (fun i => by rw [show v₁.rooms = s.rooms from altered.rest .rooms (by simp)]) _
    rw [comeToRest_bar node₁, if_neg hb, if_neg hb]
    simp only [rest]
    exact ⟨modBar_node node₁ _, fun key hk => (modBar_other _ hk).trans (modBar_other _ hk), altered.modNode l a _⟩

/-- LATCH_END (R114). -/
theorem latchEnds (hrun : s.power.state = .run) (hn : s.node l a = some n) (hlatch : n.bar.latchEnd.isSome = true)
    (hopen : n.bar.opened = false) (hset : s.linesSettled)
    (hs : n.bar.state = .openRestock ∨
      (n.bar.state = .openGuest ∧ (n.bar.backToSettling = false ∨ s.settings.grace ≠ 0))) :
    ∃ t m, exec (.latchEnd l a) s = .next t ∧ t.node l a = some m ∧
      m = { n with bar := { n.bar with
        latchEnd := none, opener := none, opened := false, backToSettling := false
        state := if n.bar.state = .openGuest ∧ n.bar.backToSettling = true then .settling
          else s.restState n.entry.room
        graceEnd := if n.bar.state = .openGuest ∧ n.bar.backToSettling = true then some s.settings.grace
          else n.bar.graceEnd } } ∧
      (∀ k, k ≠ nodeKey l a → t.nodes.get k = s.nodes.get k) ∧
      (t.line l).queue = (if (s.line l).running = true ∧ (s.line l).queue.length < 12
        then (s.line l).queue ++ [⟨.relatch, .other, some a, 0⟩] else (s.line l).queue) ∧
      (∀ i, i ≠ l → t.line i = s.line i) ∧ changesOnly [] [.nodes, .lines] [] s t := by
  obtain ⟨v, hv, node, others, altered⟩ := endUnused_eq hn fun hb => by
    obtain hr | ⟨-, hf | hg⟩ := hs
    · rw [hr] at hb; cases hb.1
    · rw [hf] at hb; cases hb.2
    · exact hg
  have lines : ∀ i, v.line i = s.line i := fun i => State.line_congr (altered.rest .lines (by simp)) i
  have hd : v.draining = false := by
    unfold State.draining
    rw [show v.power = s.power from altered.rest .power (by simp), hrun]
    rfl
  obtain ⟨online, nodes, line⟩ := proceed_placeOrder (v := v) (i := l) (o := relatch a)
    (fun hr => by rw [lines] at hr ⊢; exact hset l hr) hd
  have opening : n.bar.state.isOpening = true := by
    obtain hr | ⟨hr, -⟩ := hs <;> rw [hr] <;> rfl
  refine ⟨finish (proceed l (placeOrder l (relatch a) v)), _, ?_, ?_, rfl, fun key hk => ?_, ?_, fun i hi => ?_, ?_⟩
  · show execLatchEnd l a s = _
    unfold execLatchEnd
    rw [hn]
    simp only [working_of_run hrun, hlatch, opening, hopen, hv]
    rfl
  · rw [finish_node, State.node_congr nodes]
    exact node
  · rw [show (finish (proceed l (placeOrder l (relatch a) v))).nodes = v.nodes by simpa using nodes]
    exact others key hk
  · rw [finish_line, line, lines]
    by_cases hp : (s.line l).running = true ∧ (s.line l).queue.length < 12
    · have places : (s.line l).places (relatch a).cls = true := (places_other hp.1).trans (decide_eq_true hp.2)
      rw [if_pos hp, if_pos places]
      unfold State.placing
      rw [lines]
      split <;> rfl
    · rw [if_neg hp, if_neg]
      intro hq
      have hr : (s.line l).running = true := by simp [Line.places] at hq; exact hq.1
      exact hp ⟨hr, of_decide_eq_true ((places_other hr).symm.trans hq)⟩
  · rw [finish_line, online.others i hi, placeOrder_other hi, lines]
  · exact (((altered.mono (by simp) (by simp) (by simp)).placeOrder l _).trans
      (online.altered.mono (by simp) (by simp) (by simp))).changesOnly

/-! ### The end of the return grace and the retry -/

theorem alters.modBar (h : alters [] [.nodes] [] s t) (f : BarRec → BarRec) : alters [] [.nodes] [] s (modBar l a f t) :=
  h.modNode l a _

theorem exec_graceEnd (hrun : s.power.state = .run) (hn : s.node l a = some n) (hroom : n.entry.room = some room)
    (hstate : n.bar.state = .settling) (hgrace : n.bar.graceEnd.isSome = true) :
    exec (.graceEnd l a) s = done (graceEnds l a room s) := by
  show execGraceEnd l a s = _
  unfold execGraceEnd
  rw [hn]
  simp [working_of_run hrun, hgrace, hstate, NodeEntry.boundRoom, hroom]

theorem exec_chargeWaitRetry (hw : s.working = true) (hs : s.signals.minibar = true) :
    exec .chargeWaitRetry s = done (if s.draining then finaliseAll (s.onSignals fun g => { g with minibar := false })
      else retryWaiting (s.onSignals fun g => { g with minibar := false }).waitingBars
        (s.onSignals fun g => { g with minibar := false })) := by
  show execChargeWaitRetry s = _
  unfold execChargeWaitRetry
  rw [hw, hs]
  rfl

theorem draining_of_run (hrun : s.power.state = .run) : s.draining = false := by
  unfold State.draining; rw [hrun]; rfl

/-- A minibar with one line, finalised on a state that has its node without a return grace, comes to rest. -/
theorem oneLineCharged (hw : alters [] [.nodes, .signals] [] s w) (hn : w.node l a = some n)
    (hroom : n.entry.room = some room) (hx : s.rooms.get room = some x) (hlines : n.bar.lines = [(k, p)])
    (hfits : s.journal.takesMoney = true) (hq : s.store.canQueue [.room room, .node l a] 0 = true)
    (hstore : w.store = s.store)
    (ht : t = finish (comeToRest l a (finaliseBar l a w).1)) :
    (finaliseBar l a w).2 = true ∧ t.node l a = some { n with
        entry := { n.entry with baseline := n.entry.baseline &&& ~~~ slotBit k }
        bar := { n.bar with lines := [], state := s.restState (some room) } } ∧
      (∀ i, t.rooms.get i = (s.rooms.get i).map fun y => if i = room ∧ p.issue = y.entry.issue
        then { y with entry := { y.entry with tab := min (y.entry.tab + p.amount) 9999999 } } else y) ∧
      recorded [chargeRecord (l, a) room k p x] s t ∧
      placed [.node l a] t ∧ (p.issue = x.entry.issue → placed [.room room] t) ∧
      changesOnly [.room room, .node l a] [.rooms, .nodes, .journal, .signals] [.journal] s t := by
  have rooms : w.rooms = s.rooms := hw.rest .rooms (by simp)
  have journal : w.journal = s.journal := hw.rest .journal (by simp)
  have clock : w.clock = s.clock := hw.rest .clock (by simp)
  have fits : w.journal.takesMoney = true ∧ w.store.canQueue [.room room] 0 = true :=
    ⟨by rw [journal]; exact hfits, by rw [hstore]; exact canQueue_mono hq (by simp)⟩
  have wx : w.rooms.get room = some x := by rw [rooms]; exact hx
  let v := w.charged (l, a) room k p
  let u := leaveSlot l a k v
  have bar : finaliseBar l a w = (u, true) := by
    rw [finaliseBar_eq hn, hroom, hlines]
    simp only [Option.getD_some, finaliseLines]
    rw [finaliseLine_eq_some fits]
  have charged : lineCharged l a room k p w u := lineCharged_leaveSlot fits.2
  have node : u.node l a = some { n with
      entry := { n.entry with baseline := n.entry.baseline &&& ~~~ slotBit k }
      bar := { n.bar with lines := [] } } := by
    rw [charged.node, hn]
    simp [hlines, FMap.del]
  have rest : u.restState (some room) = s.restState (some room) :=
    (State.restState_congr charged.hold _).trans (State.restState_congr (fun i => by rw [rooms]) _)
  have altered : alters [.room room, .node l a] [.rooms, .nodes, .journal, .signals] [.journal] s u :=
    ((hw.mono (by simp) (by simp) (by simp)).charged (by simp) (by simp) (by simp) (by simp)).leaveSlot (by simp) (by simp)
  rw [bar, comeToRest_bar node, hroom, rest] at ht
  subst ht
  have kept : ∀ j, j = .room room ∨ j = .node l a →
      (modBar l a (fun b => { b with state := s.restState (some room) }) u).entryVal j = u.entryVal j := by
    rintro j (rfl | rfl)
    · simp [State.entryVal, modBar]
    · simp only [State.entryVal, modBar_node node, node, Option.map_some]
  have room₀ : w.store.canQueue [.room room, .node l a] 0 = true := by rw [hstore]; exact hq
  have room₁ : v.store.canQueue [.node l a] 0 = true := by
    unfold v State.charged
    split
    · refine canQueue_enqueue (keys := [.room room, .node l a]) ?_ (by simp) (by simp)
      simpa using room₀
    · simpa [chargePrior] using canQueue_mono (ks := [.node l a]) room₀ (by simp)
  have nodePlaced : placed [.node l a] u :=
    placed_enqueue (canQueue_roomFor (keys := [.node l a]) (n := 0) (by simpa using room₁) (by simp))
  refine ⟨by rw [bar], ?_, fun i => ?_, ?_, ?_, fun hp => ?_, (altered.modNode l a _).changesOnly⟩
  · rw [finish_node, modBar_node node]
  · rw [← rooms, ← charged.rooms]
    simp [modBar]
  · have hj := charged.record x wx
    unfold recorded at hj ⊢
    rw [show (finish (modBar l a (fun b => { b with state := s.restState (some room) }) u)).journal = u.journal by
      simp [modBar], hj]
    refine acceptRec_congr _ journal ?_
    show u.clock = (finish _).clock
    simp [modBar]
  · exact placed_end (placed_congr nodePlaced (by simp [modBar]) fun j hj => kept j (.inr (by simpa using hj)))
  · exact placed_end (placed_congr (charged.roomPlace x wx hp) (by simp [modBar])
      fun j hj => kept j (.inl (by simpa using hj)))

theorem graceEnds_eq : graceEnds l a room s =
    if (finaliseBar l a (modBar l a (fun b => { b with graceEnd := none }) s)).2 = true
    then comeToRest l a (finaliseBar l a (modBar l a (fun b => { b with graceEnd := none }) s)).1
    else enterChargeWait l a room (finaliseBar l a (modBar l a (fun b => { b with graceEnd := none }) s)).1 := rfl

end

end Sys2Proof.Machine

/-! ## The minibar timers, settled (O46) -/

namespace Sys2Proof.Machine

set_option Elab.async false

section
variable {s t u w : State} {l : LineId} {a room k : Nat} {n m : Node} {p : PendingLine} {x : Room}

/-- GRACE_END and CHARGE_WAIT_RETRY of a minibar with one line, both of whose places are free (R127, R128). -/
theorem oneLineRunsOut {c : Instr} (hrun : s.power.state = .run) (hn : s.node l a = some n)
    (hroom : n.entry.room = some room) (hx : s.rooms.get room = some x) (hlines : n.bar.lines = [(k, p)])
    (hc : (c = .graceEnd l a ∧ n.bar.state = .settling ∧ n.bar.graceEnd.isSome = true) ∨
      (c = .chargeWaitRetry ∧ n.bar.state = .chargeWait ∧ n.bar.graceEnd = none ∧ s.signals.minibar = true ∧
        s.waitingBars = [(l, a, n)]))
    (hfits : s.journal.takesMoney = true) (hq : s.store.canQueue [.room room, .node l a] 0 = true) :
    ∃ t m, exec c s = .next t ∧ t.node l a = some m ∧
      m = { n with
        entry := { n.entry with baseline := n.entry.baseline &&& ~~~ slotBit k }
        bar := { n.bar with lines := [], graceEnd := none, state := s.restState (some room) } } ∧
      (∀ i, t.rooms.get i = (s.rooms.get i).map fun y => if i = room ∧ p.issue = y.entry.issue
        then { y with entry := { y.entry with tab := min (y.entry.tab + p.amount) 9999999 } } else y) ∧
      recorded [chargeRecord (l, a) room k p x] s t ∧
      placed [.node l a] t ∧ (p.issue = x.entry.issue → placed [.room room] t) ∧
      changesOnly [.room room, .node l a] [.rooms, .nodes, .journal, .signals] [.journal] s t := by
  obtain ⟨rfl, hstate, hgrace⟩ | ⟨rfl, hstate, hgrace, hsignal, hbars⟩ := hc
  · let w := modBar l a (fun b => { b with graceEnd := none }) s
    obtain ⟨all, node, rest⟩ := oneLineCharged (s := s) (w := w) ((alters.refl _ _ _ s).modNode l a _)
      (modBar_node hn _) hroom hx hlines hfits hq (by simp [w, modBar]) rfl
    refine ⟨_, _, ?_, node, rfl, rest⟩
    rw [exec_graceEnd hrun hn hroom hstate hgrace, graceEnds_eq, if_pos all]
    rfl
  · let w := s.onSignals fun g => { g with minibar := false }
    obtain ⟨all, node, rest⟩ := oneLineCharged (s := s) (w := w) ((alters.refl _ _ _ s).onSignals _)
      hn hroom hx hlines hfits hq rfl rfl
    refine ⟨_, _, ?_, node, by rw [← hgrace], rest⟩
    rw [exec_chargeWaitRetry (working_of_run hrun) hsignal, draining_of_run hrun,
      show (s.onSignals fun g => { g with minibar := false }).waitingBars = [(l, a, n)] from hbars]
    simp only [retryWaiting]
    rw [if_pos all]
    rfl

/-- GRACE_END of a minibar with any lines (R126 to R128). -/
theorem graceRunsOut (hrun : s.power.state = .run) (hn : s.node l a = some n) (hroom : n.entry.room = some room)
    (hwf : n.bar.lines.wf) (hstate : n.bar.state = .settling) (hgrace : n.bar.graceEnd.isSome = true) :
    ∃ t u m, exec (.graceEnd l a) s = .next t ∧
      linesCharged l a room n.bar.lines { s with
        nodes := s.nodes.put (nodeKey l a) { n with bar := { n.bar with graceEnd := none } } } u ∧
      u.node l a = some m ∧
      (m.bar.lines = [] → t.node l a = some { m with bar := { m.bar with state := s.restState (some room) } } ∧
        postedAll .minibar [] u t) ∧
      (m.bar.lines ≠ [] → t.node l a = some { m with bar := { m.bar with state := .chargeWait } } ∧
        posted .minibar (.charges room m.bar.lines.length) u t) ∧
      (∀ key, key ≠ nodeKey l a → t.nodes.get key = u.nodes.get key) ∧
      changesOnly [] [.nodes] [.minibar] u t := by
  let w := modBar l a (fun b => { b with graceEnd := none }) s
  have node : w.node l a = some { n with bar := { n.bar with graceEnd := none } } := modBar_node hn _
  have start : w = { s with nodes := s.nodes.put (nodeKey l a) { n with bar := { n.bar with graceEnd := none } } } :=
    State.modNode_eq hn _
  have bar : finaliseBar l a w = finaliseLines l a room n.bar.lines w := by
    rw [finaliseBar_eq node, hroom]; rfl
  have charged : linesCharged l a room n.bar.lines w (finaliseBar l a w).1 := by
    rw [bar]; exact finaliseLines_charges _ _
  obtain ⟨m, hm, hto, -, hall⟩ := finaliseLines_leaves (room := room) node rfl hwf
  rw [← bar] at hm hall
  have hmroom : m.entry.room = some room := hto.keepsRoom.trans hroom
  have rest : (finaliseBar l a w).1.restState (some room) = s.restState (some room) :=
    (charged.restState _).trans (State.restState_congr (fun i => by simp [w, modBar]) _)
  refine ⟨finish (graceEnds l a room s), (finaliseBar l a w).1, m, exec_graceEnd hrun hn hroom hstate hgrace,
    start ▸ charged, hm, fun he => ?_, fun he => ?_, ?_⟩
  · rw [graceEnds_eq, if_pos (hall.mpr he), comeToRest_bar hm, hmroom, rest, finish_node]
    refine ⟨modBar_node hm _, postedAll_finish (by decide) ?_⟩
    simp [modBar]
  · rw [graceEnds_eq, if_neg (mt hall.mp he), finish_node]
    refine ⟨modBar_node hm _, posted_finish (by decide) (enterChargeWait_notice hm)⟩
  · have altered : alters [] [.nodes] [.minibar] (finaliseBar l a w).1 (graceEnds l a room s) ∧
        ∀ key, key ≠ nodeKey l a →
          (graceEnds l a room s).nodes.get key = (finaliseBar l a w).1.nodes.get key := by
      rw [graceEnds_eq]
      split
      · rw [comeToRest_bar hm]
        exact ⟨(alters.refl _ _ _ _).modNode l a _, fun key hk => modBar_other _ hk⟩
      · exact ⟨((alters.refl _ _ _ _).modNode l a _).post _ _, fun key hk => modBar_other _ hk⟩
    exact ⟨fun key hk => by simpa using altered.2 key hk, altered.1.changesOnly⟩

/-- GRACE_END with no place for the first line (R128). -/
theorem graceRunsOut_held {rest : FMap PendingLine} (hrun : s.power.state = .run) (hn : s.node l a = some n)
    (hroom : n.entry.room = some room) (hlines : n.bar.lines = (k, p) :: rest) (hstate : n.bar.state = .settling)
    (hgrace : n.bar.graceEnd.isSome = true) (hfits : s.chargeFits room = false) :
    ∃ t, exec (.graceEnd l a) s = .next t ∧
      t.node l a = some { n with bar := { n.bar with state := .chargeWait, graceEnd := none } } ∧
      posted .minibar (.charges room n.bar.lines.length) s t ∧ changesOnly [] [.nodes] [.minibar] s t := by
  let w := modBar l a (fun b => { b with graceEnd := none }) s
  have node : w.node l a = some { n with bar := { n.bar with graceEnd := none } } := modBar_node hn _
  have none' : w.chargeFits room = false := by rw [← hfits]; simp [State.chargeFits, w, modBar]
  have bar : finaliseBar l a w = (w, false) := by
    rw [finaliseBar_eq node, hroom]
    show finaliseLines l a room n.bar.lines w = _
    rw [hlines, finaliseLines, finaliseLine, none']
    rfl
  have ends : graceEnds l a room s = enterChargeWait l a room w := by
    rw [graceEnds_eq, show finaliseBar l a (modBar l a (fun b => { b with graceEnd := none }) s) = (w, false) from bar]
    rfl
  refine ⟨finish (enterChargeWait l a room w), ?_, ?_, posted_finish (by decide) ?_, ?_⟩
  · rw [exec_graceEnd hrun hn hroom hstate hgrace, ends]; rfl
  · rw [finish_node]; exact modBar_node node _
  · rw [enterChargeWait_notice node]
    simp [w, modBar]
  · exact ((((alters.refl _ _ _ s).modNode l a _).modNode l a _).post _ _).changesOnly

/-! ### The waiting minibars -/

theorem mem_waitingBars : (l, a, n) ∈ s.waitingBars ↔ ∃ e ∈ s.nodes, e.2 = n ∧ keyLine e.1 = l ∧ keyAddr e.1 = a ∧
    n.entry.kind = .minibar ∧ n.bar.state = .chargeWait := by
  simp only [State.waitingBars, State.minibars, List.mem_filter, List.mem_map, mem_sortBy, decide_eq_true_eq, Prod.mk.injEq]
  constructor
  · rintro ⟨⟨e, ⟨he, hk⟩, rfl, rfl, rfl⟩, hs⟩
    exact ⟨e, he, rfl, rfl, rfl, hk, hs⟩
  · rintro ⟨e, he, rfl, rfl, rfl, hk, hs⟩
    exact ⟨⟨e, ⟨he, hk⟩, rfl, rfl, rfl⟩, hs⟩

theorem minibars_sorted (s : State) :
    s.minibars.Pairwise fun y z => y.2.2.entry.room.getD 0 ≤ z.2.2.entry.room.getD 0 := by
  unfold State.minibars
  rw [List.pairwise_map]
  exact sortBy_sorted _ _

/-- CHARGE_WAIT_RETRY (R128, R133). -/
theorem waitingRetried (hw : s.working = true) (hs : s.signals.minibar = true)
    (hnodes : ∀ e ∈ s.nodes, e.2.bar.lines.wf ∧ s.node (keyLine e.1) (keyAddr e.1) = some e.2) :
    ∃ t u, exec .chargeWaitRetry s = .next t ∧
      (s.power.state = .run → waitingCharged s.waitingBars { s with signals := t.signals } u) ∧
      (s.power.state = .draining → barsCharged s.minibars { s with signals := t.signals } u) ∧
      t.signals = { s.signals with minibar := false } ∧ changesOnly [] [] [] u t := by
  let w := s.onSignals fun g => { g with minibar := false }
  let u := if s.draining then finaliseAll w else retryWaiting w.waitingBars w
  have wf : linesWf w := fun key n hn => (hnodes _ (FMap.mem_of_get hn)).1
  have present : ∀ e ∈ w.waitingBars, (w.node e.1 e.2.1).isSome = true := by
    rintro ⟨l, a, n⟩ he
    obtain ⟨e, hm, -, rfl, rfl, -⟩ := mem_waitingBars.mp he
    exact Option.isSome_iff_exists.mpr ⟨_, (hnodes e hm).2⟩
  have retried := waitingCharged_retry w.waitingBars wf present
  have drained : barsCharged w.minibars w (finaliseAll w) := barsCharged_foldl _ _
  have signals : u.signals = w.signals := by
    unfold u; split <;> simp
  have hsig : (finish u).signals = { s.signals with minibar := false } := by
    rw [show (finish u).signals = u.signals by simp, signals]; rfl
  refine ⟨finish u, u, exec_chargeWaitRetry hw hs, fun hr => ?_, fun hd => ?_, hsig,
    (alters.refl _ _ _ u).changesOnly⟩
  · rw [hsig]
    unfold u
    rw [draining_of_run hr]
    exact retried
  · rw [hsig]
    unfold u
    rw [if_pos (by unfold State.draining; rw [hd]; rfl)]
    exact drained

/-- Settles O46: each timer by the finalisation layer, LATCH_END by the order placed on a line at work. -/
theorem minibarTimersRunOut : Obligations.MinibarTimersRunOut := by
  refine ⟨fun s l a n hrun _ _ hn hlatch hopen hset hs => latchEnds hrun hn hlatch hopen hset hs,
    fun s l a room k n p x c hrun _ _ _ _ hn _ hroom hx hlines hc hfits hq =>
      oneLineRunsOut hrun hn hroom hx hlines hc hfits hq,
    fun s l a room n x hrun _ _ hn hroom _ hwf hstate hgrace => graceRunsOut hrun hn hroom hwf hstate hgrace,
    fun s hw hs hnodes => ⟨fun _ _ _ => mem_waitingBars, (minibars_sorted s).filter _, waitingRetried hw hs hnodes⟩,
    fun s l a room k n p rest hrun _ _ hn _ hroom hlines hstate hgrace hfits =>
      graceRunsOut_held hrun hn hroom hlines hstate hgrace hfits⟩

end

end Sys2Proof.Machine

/-! ## What the storm drain does to the store, the lines and the encoder job (R190) -/

namespace Sys2Proof.Machine

set_option Elab.async false

/-! ### The store, but for the table changes queued -/

/-- The store with table changes queued, and nothing else of it changed. -/
def Store.queued (t u : Store) : Prop := { u with queue := t.queue, waiting := t.waiting } = t

theorem Store.queued.refl (t : Store) : t.queued t := rfl

theorem Store.queued.trans {t u v : Store} (h : t.queued u) (g : u.queued v) : t.queued v := by
  unfold Store.queued at *
  rw [← h, ← g]

theorem Store.queued.of_eq {t u : Store} (h : u = t) : t.queued u := h ▸ rfl

/-- Every field but the queue and the waiting set stands. -/
theorem Store.queued.field {t u : Store} (h : t.queued u) {β : Type} (f : Store → β)
    (hf : ∀ x q w, f { x with queue := q, waiting := w } = f x) : f u = f t := by
  rw [← h]; exact (hf _ _ _).symm

section
variable {s t u w : State} {l : LineId} {a room k : Nat} {p : PendingLine} {r : CredRec} {j : Job}

theorem enqueue_queued (k : EntryKey) (s : State) : s.store.queued (enqueue k s).store := by
  unfold enqueue Store.offerChange State.onStore
  dsimp only
  repeat' split
  all_goals rfl

theorem enqueueAll_queued (ks : List EntryKey) (s : State) :
    s.store.queued (ks.foldl (fun x k => enqueue k x) s).store := by
  induction ks generalizing s with
  | nil => rfl
  | cons k ks ih => exact (enqueue_queued k s).trans (ih _)

theorem charged_queued (name : NodeName) : s.store.queued (s.charged name room k p).store := by
  unfold State.charged
  split
  · exact .trans (.of_eq (by simp)) (enqueue_queued _ _)
  · exact .of_eq (by simp [chargePrior])

theorem leaveSlot_queued : s.store.queued (leaveSlot l a k s).store :=
  .trans (.of_eq (by simp)) (enqueue_queued _ _)

theorem finaliseLines_queued (ls : FMap PendingLine) (s : State) :
    s.store.queued (finaliseLines l a room ls s).1.store := by
  induction ls generalizing s with
  | nil => rfl
  | cons e rest ih =>
    unfold finaliseLines
    by_cases h : s.journal.takesMoney = true ∧ s.store.canQueue [.room room] 0 = true
    · rw [finaliseLine_eq_some h]
      exact ((charged_queued _).trans leaveSlot_queued).trans (ih _)
    · rw [finaliseLine_eq_none h]
      rfl

theorem finaliseBar_queued (l : LineId) (a : Nat) (s : State) : s.store.queued (finaliseBar l a s).1.store := by
  unfold finaliseBar
  split
  · rfl
  · exact finaliseLines_queued _ _

theorem finaliseAll_queued (s : State) : s.store.queued (finaliseAll s).store := by
  have folded : ∀ (es : List (LineId × Nat × Node)) (u : State),
      u.store.queued (es.foldl (fun x e => (finaliseBar e.1 e.2.1 x).1) u).store := by
    intro es
    induction es with
    | nil => exact fun _ => rfl
    | cons e rest ih => exact fun u => (finaliseBar_queued _ _ u).trans (ih _)
  exact folded _ _

theorem revokeCred_queued (slot : Nat) (why : RevReason) (s : State) : s.store.queued (revokeCred slot why s).store := by
  cases hr : s.cred.slots.get slot with
  | none => unfold revokeCred; rw [hr]; rfl
  | some r =>
    rw [revokeCred_eq hr]
    exact .trans (.of_eq (by rw [revokedIn, applyVerdict_store]; rfl)) (enqueueAll_queued _ _)

/-- The outcome the drain gives a job queues table changes and does nothing else to the store. -/
theorem reportOutcome_queued {o : JobOutcome} (ho : o ≠ .success) (cause : Option JobCause) (hj : s.enc.job = some j) :
    s.store.queued (reportOutcome o cause s).store := by
  cases hr : s.cred.slots.get j.slot with
  | none =>
    rw [reportOutcome_eq, tryOutcome]
    simp only [reporting, State.onEnc_enc, hj, Option.map_some, Job.reports, State.onEnc_cred, hr]
    rfl
  | some r =>
    rw [reportOutcome_cases o cause hj hr]
    split
    · cases o with
      | success => exact absurd rfl ho
      | released =>
        exact .trans (u := (applyReleased j.slot (reporting .released cause s)).store) (enqueue_queued _ _)
          (.of_eq (by simp [applyOutcome, Job.reports]))
      | aborted =>
        exact .trans (revokeCred_queued (j.reports .aborted cause).slot .issueAborted (reporting .aborted cause s))
          (.of_eq (by simp [applyOutcome]))
    · rfl

theorem drainJob_queued (s : State) : s.store.queued (drainJob s).store := by
  unfold drainJob
  split
  · rfl
  · next j hj =>
    split
    · rfl
    · split
      · rfl
      · split <;> exact reportOutcome_queued (by simp) _ hj

/-! ### The lines -/

/-- A line as the drain leaves it (R87). -/
def State.drained (s : State) (i : LineId) : Line :=
  if (s.line i).running = true then
    { s.line i with
      cycle := none
      exch := some ((s.line i).exch.getD (drainExchange s i .a)) }
  else s.line i

theorem drainLine_lines (hd : s.draining = true) (i : LineId) :
    (∀ k, (drainLine i s).line k = if k = i then s.drained i else s.line k) ∧ keepsBut [.lines] s (drainLine i s) := by
  unfold drainLine State.drained
  by_cases hr : (s.line i).running = true
  · rw [if_pos hr, if_pos hr]
    have runs : ((s.modLine i fun l => { l with cycle := none }).line i).running = true := by simpa using hr
    cases hx : (s.line i).exch with
    | some x =>
      have stays : proceed i (s.modLine i fun l => { l with cycle := none }) = s.modLine i fun l => { l with cycle := none } := by
        unfold proceed
        rw [runs]
        simp [hx]
      rw [stays]
      refine ⟨fun k => ?_, fun p hp => by cases p <;> first | rfl | exact absurd (by simp) hp⟩
      split
      · next h => subst h; simp [hx]
      · next h => exact State.line_modLine_other _ _ h
    | none =>
      have sends : proceed i (s.modLine i fun l => { l with cycle := none }) =
          sendDrain i .a (s.modLine i fun l => { l with cycle := none }) := by
        unfold proceed
        rw [runs, show (s.modLine i fun l => { l with cycle := none }).draining = true from hd]
        simp [hx]
      rw [sends]
      refine ⟨fun k => ?_, fun p hp => by cases p <;> first | rfl | exact absurd (by simp) hp⟩
      split
      · next h => subst h; rw [sendDrain, sendFrame_line]; simp [drainExchange]
      · next h => rw [sendDrain, sendFrame, State.line_modLine_other _ _ h, State.line_modLine_other _ _ h]
  · rw [if_neg hr, if_neg hr]
    exact ⟨fun k => by split <;> simp [*], keepsBut_refl _ s⟩

theorem drainLines_lines (is : List LineId) (hnd : is.Nodup) (hd : s.draining = true) :
    (∀ k, (is.foldl (fun x i => drainLine i x) s).line k = if k ∈ is then s.drained k else s.line k) ∧
      keepsBut [.lines] s (is.foldl (fun x i => drainLine i x) s) := by
  induction is generalizing s with
  | nil => exact ⟨fun _ => by simp, keepsBut_refl _ s⟩
  | cons i rest ih =>
    obtain ⟨hi, hrest⟩ := List.nodup_cons.mp hnd
    obtain ⟨lines, kept⟩ := drainLine_lines hd i
    obtain ⟨lines', kept'⟩ := ih (s := drainLine i s) hrest (by
      unfold State.draining; rw [show (drainLine i s).power = s.power from kept .power (by simp)]; exact hd)
    rw [List.foldl_cons]
    refine ⟨fun k => ?_, keepsBut_trans kept kept'⟩
    rw [lines']
    by_cases hk : k = i
    · subst hk
      simp [hi, lines]
    · have here : (drainLine i s).line k = s.line k := by rw [lines, if_neg hk]
      by_cases hm : k ∈ rest
      · rw [if_pos hm, if_pos (List.mem_cons_of_mem _ hm)]
        unfold State.drained drainExchange
        rw [here, show (drainLine i s).settings = s.settings from kept .settings (by simp)]
      · rw [if_neg hm, if_neg (by simp [hk, hm]), here]

end

end Sys2Proof.Machine

/-! ## The encoder job as the drain reaches it (R30, R61) -/

namespace Sys2Proof.Machine

set_option Elab.async false

section
variable {s t u : State} {r : CredRec} {j : Job} {cause : Option JobCause}

/-- Places stand through a record offered and the job's end, inside a step. -/
theorem placed_jobEnds_inner {keys : List EntryKey} (h : placed keys u) (hk : ∀ k ∈ keys, k ≠ .journalState)
    (b : JBody) (o : JobOutcome) : placed keys (jobEnds j o (offer b u)) :=
  placed_congr (u := offer b u) (placed_congr h (by simp) fun k hm => entryVal_offer b (hk k hm)) rfl
    fun k _ => by cases k <;> rfl

/-- A released outcome applied, the step not yet ended (R32). -/
theorem applyOutcome_released_inner (fits : s.outcomeFits j .released r = true) :
    outcomeApplied j .released j.cause r s (applyOutcome j .released r s) := by
  have queue := canQueue_of_outcomeFits fits
  have altered : alters (s.outcomeKeys j .released r) [.rooms, .cred, .enc, .journal] [.alarm, .issue, .journal] s
      (applyOutcome j .released r s) :=
    ((((alters.refl _ _ _ s).onCred _).enqueue _ (by simp [outcomeKeys_released])).offer _).jobEnds _ _
  have body : issueFailedBody j r .released = failedRecord r j.cause .freed := by
    unfold issueFailedBody failedRecord; cases j.cause <;> rfl
  refine ⟨?_, .inl ?_, ?_, altered.changesOnly_inner, ?_, ?_, journaled_one (t := applyReleased j.slot s) ?_ ?_ ?_⟩
  · simp [applyOutcome, jobEnds_enc, applyReleased]
  · simp [applyOutcome, jobEnds_issue, applyReleased, offer_notice]
  · refine placed_jobEnds_inner ?_ (fun k => outcomeKeys_ne_journalState) _ _
    rw [outcomeKeys_released] at queue ⊢
    exact placed_enqueue (canQueue_roomFor (t := s.store) queue (by simp))
  · simp [applyOutcome, applyReleased]
  · simp [applyOutcome, applyReleased]
  · simp [applyOutcome, body]
  · simp [applyReleased]
  · simp [applyOutcome]

/-- An aborted outcome applied, the step not yet ended (R32, R33). -/
theorem applyOutcome_aborted_inner (hr : s.cred.slots.get j.slot = some r) (fits : s.outcomeFits j .aborted r = true) :
    outcomeApplied j .aborted j.cause r s (applyOutcome j .aborted r s) := by
  have queue := canQueue_of_outcomeFits fits
  have altered : alters (s.outcomeKeys j .aborted r) [.rooms, .cred, .enc, .journal] [.alarm, .issue, .journal] s
      (applyOutcome j .aborted r s) :=
    ((((alters.refl _ _ _ s).revokeCred _ hr fun k hk => by rwa [outcomeKeys_aborted])).offer _).jobEnds _ _
  have body : issueFailedBody j r .aborted = failedRecord r j.cause .aborted := by
    unfold issueFailedBody failedRecord; cases j.cause <;> rfl
  refine ⟨?_, .inl ?_, ?_, altered.changesOnly_inner, ?_, fun x hx => ?_⟩
  · simp [applyOutcome, jobEnds_enc]
  · rw [applyOutcome, jobEnds_issue, offer_notice _ _ (by simp), revokeCred_notice hr (by simp) (by simp)]
  · refine placed_jobEnds_inner ?_ (fun k => outcomeKeys_ne_journalState) _ _
    rw [outcomeKeys_aborted] at queue ⊢
    exact revokeCred_placed hr queue fun _ h => h
  · simp [applyOutcome]
  · obtain rfl := lists_eq hx
    refine ⟨?_, journaled_all ?_ rfl (by simp [applyOutcome]), fun o ho => .inl ?_⟩
    · simp only [applyOutcome, jobEnds_frame, offer_frame]
      exact revokeCred_cred hr
    · simp only [applyOutcome, jobEnds_frame, body]
      exact offer_offerAll (revokeCred_journal hr) (by simp)
    · rw [applyOutcome, jobEnds_notice _ _ _ (by simp), offer_notice _ _ (by simp), revokeCred_alarm hr, ho]
      rfl

/-- An outcome other than success reported, the step not yet ended (R30). -/
theorem reportOutcome_reported_inner {o : JobOutcome} (ho : o ≠ .success) (hj : s.enc.job = some j)
    (hr : s.cred.slots.get j.slot = some r) : outcomeReported j o cause r s (reportOutcome o cause s) := by
  refine ⟨fun fits => ?_, fun fits => ?_⟩
  · rw [reportOutcome_cases o cause hj hr, if_pos fits]
    refine outcomeApplied_reporting ?_
    cases o with
    | success => exact absurd rfl ho
    | released => exact applyOutcome_released_inner (s := reporting .released cause s) (j := j.reports .released cause) fits
    | aborted => exact applyOutcome_aborted_inner (s := reporting .aborted cause s) (j := j.reports .aborted cause) hr fits
  · rw [reportOutcome_cases o cause hj hr, if_neg (by simp [fits])]
    exact ⟨by simp [reporting, hj, Job.reports], ((alters.refl _ _ _ s).onEnc _).changesOnly_inner⟩

/-- What a report other than of success leaves of the job: nothing, or the job with the outcome held. -/
theorem reportOutcome_job {o : JobOutcome} {x : Job} (ho : o ≠ .success) (hx : s.enc.job = some x)
    (h : (reportOutcome o cause s).enc.job = some j) : j = x.reports o cause := by
  have held : (reporting o cause s).enc.job = some j → j = x.reports o cause := fun h =>
    Option.some.inj (by rw [← h]; simp [reporting, hx])
  cases hr : s.cred.slots.get x.slot with
  | none =>
    refine held ?_
    rw [← h, reportOutcome_eq, tryOutcome]
    simp only [reporting, State.onEnc_enc, hx, Option.map_some, Job.reports, State.onEnc_cred, hr]
  | some r =>
    rw [reportOutcome_cases o cause hx hr] at h
    split at h
    · cases o with
      | success => exact absurd rfl ho
      | released => simp [applyOutcome, jobEnds_enc] at h
      | aborted => simp [applyOutcome, jobEnds_enc] at h
    · exact held h

/-! ### The drain -/

/-- The outcome the drain gives a job, and its cause (R61). -/
def Job.drainOutcome (j : Job) : JobOutcome := if j.writeStarted = true then .aborted else .released

def Job.drainCause (j : Job) : Option JobCause :=
  if j.writeStarted = true ∧ j.state = .voiding then j.cause else some .cancelled

theorem Job.drainOutcome_ne (j : Job) : j.drainOutcome ≠ .success := by unfold Job.drainOutcome; split <;> simp

theorem drainJob_reports (hj : s.enc.job = some j) (hk : j.kind = .issue) (ho : j.outcome = none) :
    drainJob s = reportOutcome j.drainOutcome j.drainCause s := by
  unfold drainJob Job.drainOutcome Job.drainCause
  rw [hj]
  dsimp only
  rw [hk, ho]
  by_cases hw : j.writeStarted = true <;> simp [hw]

theorem drainJob_holds (hj : s.enc.job = some j) (hk : j.kind = .issue) (ho : j.outcome.isSome = true) : drainJob s = s := by
  unfold drainJob
  rw [hj]
  dsimp only
  rw [hk]
  exact if_pos ho

theorem drainJob_read (hj : s.enc.job = some j) (hk : j.kind = .read) : drainJob s =
    (post .issue (.readEnd .cancelled) s).onEnc fun e => { e with job := none, headOp := none } := by
  unfold drainJob
  rw [hj]
  dsimp only
  rw [hk]

/-- The job as the drain leaves it: over, or with an outcome that is held. -/
theorem drainJob_outcome (h : (drainJob s).enc.job = some j) : j.kind = .issue ∧ j.outcome.isSome = true := by
  cases hx : s.enc.job with
  | none => unfold drainJob at h; rw [hx] at h; rw [show s.enc.job = some j from h] at hx; cases hx
  | some x =>
    cases hk : x.kind with
    | read => rw [drainJob_read hx hk] at h; cases h
    | issue =>
      cases ho : x.outcome with
      | none =>
        rw [drainJob_reports hx hk ho] at h
        obtain rfl := reportOutcome_job x.drainOutcome_ne hx h
        exact ⟨hk, rfl⟩
      | some o =>
        rw [drainJob_holds hx hk (by simp [ho]), hx] at h
        obtain rfl : x = j := Option.some.inj h
        exact ⟨hk, by simp [ho]⟩

/-- What the drain does to the job (R61). -/
theorem drainJob_drained (s : State) : jobDrained s (drainJob s) := by
  unfold jobDrained
  cases hj : s.enc.job with
  | none => dsimp only; unfold drainJob; rw [hj]
  | some j =>
    dsimp only
    cases hk : j.kind with
    | read =>
      rw [drainJob_read hj hk]
      exact ⟨rfl, .inl (post_notice_self _ _ _), (((alters.refl _ _ _ s).post _ _).onEnc _).changesOnly_inner⟩
    | issue =>
      refine ⟨drainJob_holds hj hk, fun ho r hr => ?_⟩
      rw [drainJob_reports hj hk ho]
      exact reportOutcome_reported_inner j.drainOutcome_ne hj hr

end

end Sys2Proof.Machine

/-! ## The storm drain begins (R190) -/

namespace Sys2Proof.Machine

set_option Elab.async false

section
variable {s t u w : State} {l : LineId} {a room k : Nat} {p : PendingLine} {cause : DrainCause}

/-! ### The store -/

theorem Store.moves.field {t u : Store} (h : t.moves u) {β : Type} (f : Store → β)
    (hf : ∀ x n (q : List Work) b c, f { x with head := n, work := q, held := b, stalled := c } = f x) : f u = f t := by
  rw [← h]; exact (hf _ _ _ _ _).symm

theorem countErased_draining (hd : s.draining = true) : countErased s = s := by
  unfold countErased; rw [hd]; simp

theorem moveLogHead_draining (hd : s.draining = true) (copy : Bool) :
    (moveLogHead copy s).store.work = s.store.work := by
  have kept := moveLogHead_induct (P := fun u => u.draining = true ∧ u.store.work = s.store.work) (s := s) copy ⟨hd, rfl⟩
    (by unfold stall; split <;> exact ⟨hd, rfl⟩) ⟨hd, rfl⟩ fun u k hu => by
      rw [countErased_draining (s := u.onStore fun t => { t with head := k }) hu.1]
      exact hu
  exact kept.2

/-- The store of a part whose reclaimer has stopped: no erase, no list, no identity asked for. -/
structure Store.stopped (t : Store) : Prop where
  work : t.work = []
  idRequest : t.idRequest = none
  suspended : t.suspended = none
  engine : ∀ e, t.engine ≠ .erasing e

theorem cutSector_engine (k : Nat) (t : Store) : (cutSector k t).engine = t.engine := by
  unfold cutSector; split <;> rfl

theorem cutErases_stopped (t : Store) : (cutErases t).suspended = none ∧ (∀ e, (cutErases t).engine ≠ .erasing e) ∧
    (∀ p, t.engine = .programming p → (cutErases t).engine = .programming p) := by
  unfold cutErases
  extract_lets u
  have first : (∀ e, u.engine ≠ .erasing e) ∧ ∀ p, t.engine = .programming p → u.engine = .programming p := by
    simp only [u]
    cases he : t.engine with
    | idle => exact ⟨by simp [he], fun _ hp => by cases hp⟩
    | programming q => exact ⟨by simp [he], fun p hp => he.trans hp⟩
    | erasing d => exact ⟨by simp, fun _ hp => by cases hp⟩
  cases hs : u.suspended with
  | none => exact ⟨hs, first⟩
  | some e =>
    refine ⟨rfl, ?_⟩
    dsimp only
    rw [cutSector_engine]
    exact first

theorem stopReclaimer_stopped (t : Store) : (stopReclaimer t).stopped :=
  ⟨rfl, rfl, (cutErases_stopped t).1, (cutErases_stopped t).2.1⟩

theorem Store.stopped.queued {t u : Store} (h : t.stopped) (g : t.queued u) : u.stopped where
  work := (g.field Store.work fun _ _ _ => rfl).trans h.work
  idRequest := (g.field Store.idRequest fun _ _ _ => rfl).trans h.idRequest
  suspended := (g.field Store.suspended fun _ _ _ => rfl).trans h.suspended
  engine := fun e => by rw [g.field Store.engine fun _ _ _ => rfl]; exact h.engine e

theorem takeOldest_queued (t : Store) : t.queued t.takeOldest := by
  unfold Store.takeOldest
  split
  · exact .refl t
  · rfl

/-- In a drain the engine takes up programs alone. -/
theorem pumpEngine_stopped (hw : s.working = true) (hd : s.draining = true) (h : s.store.stopped) :
    (pumpEngine s).store.stopped ∧
      ∀ p, s.store.engine = .programming p → (pumpEngine s).store.engine = .programming p := by
  cases he : s.store.engine with
  | erasing e => exact absurd he (h.engine e)
  | programming q => rw [pumpEngine_programming hw he]; exact ⟨h, fun p hp => he.trans hp⟩
  | idle =>
    refine ⟨?_, fun _ hp => by cases hp⟩
    rw [pumpEngine_idle hw he]
    cases hr : (rotation s.store.lastServed).find? s.waits with
    | none =>
      dsimp only
      unfold resume
      rw [h.suspended]
      exact h
    | some r =>
      dsimp only
      have waits := List.find?_some hr
      cases r with
      | reclaimer =>
        have idle : s.running = false := by
          unfold State.draining at hd
          unfold State.running
          cases hp : s.power.state <;> rw [hp] at hd <;> first | rfl | cases hd
        simp [State.waits, idle] at waits
      | journalWriter =>
        unfold serve
        dsimp only
        split
        · exact h
        · exact ⟨h.work, h.idRequest, h.suspended, by simp⟩
      | tableWriter =>
        unfold serve
        dsimp only
        have oldest := h.queued (takeOldest_queued s.store)
        split
        · exact h
        · exact ⟨h.work, rfl, h.suspended, by simp⟩
        · exact ⟨oldest.work, oldest.idRequest, oldest.suspended, by simp⟩

/-! ### The parts of the step -/

/-- The part as the drain takes the reclaimer and the deferred request from it. -/
def State.drainStarts (s : State) (cause : DrainCause) : State :=
  ((post .power (.draining cause)
    (s.onPower fun p => { p with state := .draining, drain := some ⟨cause, false, none, false⟩ })).onStore stopReclaimer).onLink
    fun l => { l with deferred := none }

/-- The part as the drain reaches the pending lines. -/
def State.drainBegins (s : State) (cause : DrainCause) : State :=
  (moveLogHead false (s.drainStarts cause)).onNodes fun m => m.mapVals fun _ n =>
    if n.entry.kind = .minibar then
      { n with bar := { n.bar with graceEnd := none, latchEnd := none, opened := false, backToSettling := false } }
    else n

theorem beginDrain_eq : beginDrain cause s =
    allLines.foldl (fun x i => drainLine i x) (drainJob (finaliseAll (s.drainBegins cause))) := rfl

theorem drainBegins_store : (s.drainBegins cause).store = (moveLogHead false (s.drainStarts cause)).store := rfl

theorem drainStarts_draining : (s.drainStarts cause).draining = true := rfl

theorem drainBegins_stopped : (s.drainBegins cause).store.stopped := by
  have h := stopReclaimer_stopped s.store
  have m := moveLogHead_moves false (s.drainStarts cause)
  exact ⟨(moveLogHead_draining drainStarts_draining false).trans h.work,
    (m.field Store.idRequest fun _ _ _ _ _ => rfl).trans h.idRequest,
    (m.field Store.suspended fun _ _ _ _ _ => rfl).trans h.suspended,
    fun e => by
      rw [drainBegins_store, m.field Store.engine fun _ _ _ _ _ => rfl]
      exact h.engine e⟩

theorem drainBegins_programming {p : Program} (hp : s.store.engine = .programming p) :
    (s.drainBegins cause).store.engine = .programming p := by
  rw [drainBegins_store, (moveLogHead_moves false (s.drainStarts cause)).field Store.engine fun _ _ _ _ _ => rfl]
  exact (cutErases_stopped s.store).2.2 p hp

end

end Sys2Proof.Machine

/-! ## What the parts of the drain's first step leave -/

namespace Sys2Proof.Machine

set_option Elab.async false

section
variable {s t u w : State} {l : LineId} {a room k : Nat} {p : PendingLine} {cause : DrainCause}

/-! ### The nodes -/

/-- A minibar without a timer. -/
def Node.timerless (n : Node) : Prop := n.entry.kind = .minibar → n.bar.latchEnd = none ∧ n.bar.graceEnd = none

/-- Every node of a table without a minibar timer. -/
def timersStopped (s : State) : Prop := ∀ key n, s.nodes.get key = some n → n.timerless

theorem timersStopped.lineCharged (h : timersStopped s) (g : lineCharged l a room k p s t) : timersStopped t := by
  intro key n hn
  by_cases hk : key = nodeKey l a
  · have node := g.node
    unfold State.node at node
    rw [← hk, hn] at node
    obtain ⟨m, hm, rfl⟩ := Option.map_eq_some_iff.mp node.symm
    exact h key m hm
  · rw [g.others key hk] at hn
    exact h key n hn

theorem timersStopped.linesCharged {ls : FMap PendingLine} (h : timersStopped s) (g : linesCharged l a room ls s t) :
    timersStopped t := by
  induction ls generalizing s with
  | nil => cases g; exact h
  | cons e rest ih =>
    unfold Machine.linesCharged at g
    split at g
    · obtain ⟨v, hv, hu⟩ := g
      exact ih (h.lineCharged hv) hu
    · cases g; exact h

theorem timersStopped.barsCharged {es : List (LineId × Nat × Node)} (h : timersStopped s) (g : barsCharged es s t) :
    timersStopped t := by
  induction es generalizing s with
  | nil => cases g; exact h
  | cons e rest ih =>
    obtain ⟨v, hv, hu⟩ := g
    refine ih ?_ hu
    cases hn : s.node e.1 e.2.1 with
    | none => rw [hn] at hv; cases hv; exact h
    | some n => rw [hn] at hv; exact h.linesCharged hv

theorem drainBegins_nodes : (s.drainBegins cause).nodes = s.nodes.mapVals fun _ n =>
    if n.entry.kind = .minibar then
      { n with bar := { n.bar with graceEnd := none, latchEnd := none, opened := false, backToSettling := false } }
    else n := by
  have stands : (moveLogHead false (s.drainStarts cause)).nodes = s.nodes :=
    (keepsBut_moveLogHead false (s.drainStarts cause)) .nodes (by simp)
  unfold State.drainBegins
  rw [← stands]
  rfl

theorem drainBegins_timers : timersStopped (s.drainBegins cause) := by
  intro key n hn
  rw [drainBegins_nodes, FMap.get_mapVals] at hn
  obtain ⟨m, -, rfl⟩ := Option.map_eq_some_iff.mp hn
  intro hk
  by_cases hm : m.entry.kind = .minibar
  · rw [if_pos hm]; exact ⟨rfl, rfl⟩
  · rw [if_neg hm] at hk; exact absurd hk hm

/-! ### The link -/

theorem charged_posts (name : NodeName) : s.link.posts [.journal] (s.charged name room k p).link := by
  unfold State.charged chargeTab chargePrior
  split
  · simpa using acceptRec_posts _ s
  · exact acceptRec_posts _ s

theorem finaliseLines_posts (ls : FMap PendingLine) (s : State) :
    s.link.posts [.journal] (finaliseLines l a room ls s).1.link := by
  induction ls generalizing s with
  | nil => exact Link.posts_refl _ _
  | cons e rest ih =>
    unfold finaliseLines
    by_cases h : s.journal.takesMoney = true ∧ s.store.canQueue [.room room] 0 = true
    · rw [finaliseLine_eq_some h]
      refine Link.posts_trans (charged_posts (k := e.1) (p := e.2) (room := room) (l, a)) (Link.posts_trans ?_ (ih _))
      simpa [leaveSlot] using Link.posts_refl _ _
    · rw [finaliseLine_eq_none h]
      exact Link.posts_refl _ _

theorem finaliseBar_posts (l : LineId) (a : Nat) (s : State) : s.link.posts [.journal] (finaliseBar l a s).1.link := by
  unfold finaliseBar
  split
  · exact Link.posts_refl _ _
  · exact finaliseLines_posts _ _

theorem finaliseAll_posts (s : State) : s.link.posts [.journal] (finaliseAll s).link := by
  have folded : ∀ (es : List (LineId × Nat × Node)) (u : State),
      u.link.posts [.journal] (es.foldl (fun x e => (finaliseBar e.1 e.2.1 x).1) u).link := by
    intro es
    induction es with
    | nil => exact fun _ => Link.posts_refl _ _
    | cons e rest ih => exact fun u => Link.posts_trans (finaliseBar_posts _ _ u) (ih _)
  exact folded _ _

theorem reportOutcome_posts {o : JobOutcome} {j : Job} (ho : o ≠ .success) (why : Option JobCause) (hj : s.enc.job = some j) :
    s.link.posts [.alarm, .issue, .journal] (reportOutcome o why s).link := by
  cases hr : s.cred.slots.get j.slot with
  | none =>
    rw [reportOutcome_eq, tryOutcome]
    simp only [reporting, State.onEnc_enc, hj, Option.map_some, Job.reports, State.onEnc_cred, hr]
    exact Link.posts_refl _ _
  | some r =>
    rw [reportOutcome_cases o why hj hr]
    split
    · cases o with
      | success => exact absurd rfl ho
      | released =>
        exact (((((alters.refl [.cred j.slot] [.rooms, .cred, .enc, .journal] [.alarm, .issue, .journal]
          (reporting .released why s)).onCred _).enqueue _ (by simp [Job.reports])).offer _).jobEnds _ _).link
      | aborted =>
        exact ((((alters.refl (.cred j.slot :: ((reporting .aborted why s).verdict r).keys) [.rooms, .cred, .enc, .journal]
          [.alarm, .issue, .journal] (reporting .aborted why s)).revokeCred _ hr fun k hk => hk).offer _).jobEnds _ _).link
    · exact Link.posts_refl _ _

theorem drainJob_posts (s : State) : s.link.posts [.alarm, .issue, .journal] (drainJob s).link := by
  cases hj : s.enc.job with
  | none => unfold drainJob; rw [hj]; exact Link.posts_refl _ _
  | some j =>
    cases hk : j.kind with
    | read => rw [drainJob_read hj hk]; exact post_posts (by simp) _ _
    | issue =>
      cases ho : j.outcome with
      | none => rw [drainJob_reports hj hk ho]; exact reportOutcome_posts j.drainOutcome_ne _ hj
      | some o => rw [drainJob_holds hj hk (by simp [ho])]; exact Link.posts_refl _ _

/-- Every occurrence of the drain's first step but its own. -/
theorem drainBegins_posts : ({ s.link with deferred := none } : Link).posts [.power, .store] (s.drainBegins cause).link :=
  Link.posts_trans (m := (s.drainStarts cause).link)
    ⟨rfl, fun _ hc => Notices.get_set_other _ _ fun he => hc (by simp [he])⟩
    (Link.posts_mono (moveLogHead_posts false (s.drainStarts cause)) (by simp))

theorem drainBegins_power : (s.drainBegins cause).link.notices.get .power =
    (s.link.notices.get .power).occur (.draining cause) :=
  ((moveLogHead_posts false (s.drainStarts cause)).notices .power (by simp)).trans
    (post_notice_self .power (.draining cause) _)

end

end Sys2Proof.Machine

/-! ## The storm drain begins, settled (O52) -/

namespace Sys2Proof.Machine

set_option Elab.async false

section
variable {s t u w : State} {cause : DrainCause}

theorem keepsSlots_of_regions {t u : Store} (htlog : u.tlog = t.tlog) (hjreg : u.jreg = t.jreg)
    (hplaces : u.idPlaces = t.idPlaces) : keepsSlots t u :=
  ⟨fun k => by unfold Store.tsec; rw [htlog], fun k => by unfold Store.jsec; rw [hjreg], hplaces⟩

theorem Store.queued.keepsSlots {t u : Store} (h : t.queued u) : keepsSlots t u :=
  keepsSlots_of_regions (h.field Store.tlog fun _ _ _ => rfl) (h.field Store.jreg fun _ _ _ => rfl)
    (h.field Store.idPlaces fun _ _ _ => rfl)

theorem Store.moves.keepsSlots {t u : Store} (h : t.moves u) : keepsSlots t u :=
  keepsSlots_of_regions (h.field Store.tlog fun _ _ _ _ _ => rfl) (h.field Store.jreg fun _ _ _ _ _ => rfl)
    (h.field Store.idPlaces fun _ _ _ _ _ => rfl)

theorem cutSector_identity (k : Nat) (t : Store) : (cutSector k t).identity = t.identity := by
  unfold cutSector; split <;> rfl

theorem cutErases_identity (t : Store) : (cutErases t).identity = t.identity := by
  unfold cutErases
  extract_lets u
  have first : u.identity = t.identity := by
    simp only [u]
    split
    · exact cutSector_identity _ t
    · rfl
  split
  · exact (cutSector_identity _ u).trans first
  · exact first

theorem cutSector_queue (k : Nat) (t : Store) : (cutSector k t).queue = t.queue ∧ (cutSector k t).waiting = t.waiting := by
  unfold cutSector; split <;> exact ⟨rfl, rfl⟩

theorem cutErases_queue (t : Store) : (cutErases t).queue = t.queue ∧ (cutErases t).waiting = t.waiting := by
  unfold cutErases
  extract_lets u
  have first : u.queue = t.queue ∧ u.waiting = t.waiting := by
    simp only [u]
    split
    · exact cutSector_queue _ t
    · exact ⟨rfl, rfl⟩
  split
  · exact ⟨(cutSector_queue _ u).1.trans first.1, (cutSector_queue _ u).2.trans first.2⟩
  · exact first

/-- The drain's first step, before the engine and the transmitter go on. -/
theorem drainBegins_begun (s : State) (cause : DrainCause) : drainBegun s (s.drainBegins cause) where
  nodes := drainBegins_nodes
  queue := ((moveLogHead_moves false (s.drainStarts cause)).field Store.queue fun _ _ _ _ _ => rfl).trans
    (cutErases_queue s.store).1
  waiting := ((moveLogHead_moves false (s.drainStarts cause)).field Store.waiting fun _ _ _ _ _ => rfl).trans
    (cutErases_queue s.store).2
  notices := fun c h h' => drainBegins_posts.notices c (by simp [h, h'])
  rest := fun p hp => by
    have moved := keepsBut_moveLogHead false (s.drainStarts cause) p
    cases p <;> first | exact moved (by decide) | exact absurd (by simp) hp

theorem beginDrain_part (p : Part) (hp : p ∉ [.power, .rooms, .nodes, .cred, .enc, .lines, .journal, .store, .link]) :
    p.same s (beginDrain cause s) := by
  cases p <;> first | (simp [Part.same]; done) | exact absurd (by simp) hp

/-- The state whose lines the drain then reaches. -/
def State.drainReaches (s : State) (cause : DrainCause) : State := drainJob (finaliseAll (s.drainBegins cause))

theorem drainReaches_power : (s.drainReaches cause).power =
    { s.power with state := .draining, drain := some ⟨cause, false, none, false⟩ } := by
  have h : (s.drainReaches cause).power = (s.drainBegins cause).power := by simp [State.drainReaches]
  exact h.trans (keepsBut_moveLogHead false (s.drainStarts cause) .power (by simp))

theorem beginDrain_lines : (∀ i, (beginDrain cause s).line i = s.drained i) ∧
    keepsBut [.lines] (s.drainReaches cause) (beginDrain cause s) := by
  have hd : (s.drainReaches cause).draining = true := by unfold State.draining; rw [drainReaches_power]; rfl
  obtain ⟨lines, kept⟩ := drainLines_lines allLines (by decide) hd
  rw [beginDrain_eq]
  refine ⟨fun i => ?_, kept⟩
  have here : (s.drainReaches cause).lines = s.lines := by
    have h : (s.drainReaches cause).lines = (s.drainBegins cause).lines := by simp [State.drainReaches]
    exact h.trans (keepsBut_moveLogHead false (s.drainStarts cause) .lines (by simp))
  have same : (s.drainReaches cause).settings = s.settings := by
    have h : (s.drainReaches cause).settings = (s.drainBegins cause).settings := by simp [State.drainReaches]
    exact h.trans (keepsBut_moveLogHead false (s.drainStarts cause) .settings (by simp))
  rw [show allLines.foldl (fun x i => drainLine i x) (drainJob (finaliseAll (s.drainBegins cause))) =
    allLines.foldl (fun x i => drainLine i x) (s.drainReaches cause) from rfl, lines,
    if_pos (by cases i <;> simp [allLines])]
  unfold State.drained drainExchange
  rw [State.line_congr here, same]

theorem drainReaches_queued : (s.drainBegins cause).store.queued (s.drainReaches cause).store :=
  (finaliseAll_queued _).trans (drainJob_queued _)

theorem drainReaches_posts : (s.drainBegins cause).link.posts [.alarm, .issue, .journal] (s.drainReaches cause).link :=
  Link.posts_trans (Link.posts_mono (finaliseAll_posts _) (by simp)) (drainJob_posts _)

/-- What the drain's first step comes to, once the engine and the transmitter have gone on. -/
theorem drainBeginning (hw : keepsBut [.power] s w) (hu : keepsBut [.link] (beginDrain cause w) u)
    (hslot : { u.link with slot := (beginDrain cause w).link.slot } = (beginDrain cause w).link) (ht : t = finish u) :
      t.power = { w.power with state := .draining, drain := some ⟨cause, false, none, false⟩ } ∧
      posted .power (.draining cause) s t ∧
      t.store.work = [] ∧ t.store.idRequest = none ∧ t.store.suspended = none ∧
      (∀ e, t.store.engine ≠ .erasing e) ∧
      (∀ p, s.store.engine = .programming p → t.store.engine = .programming p) ∧
      keepsSlots s.store t.store ∧ t.store.identity = s.store.identity ∧ t.link.deferred = none ∧
      (∀ i, t.line i = s.drained i) ∧
      (∀ j, t.enc.job = some j → j.kind = .issue ∧ j.outcome.isSome = true) ∧
      (∀ k n, t.nodes.get k = some n → n.entry.kind = .minibar →
        n.bar.latchEnd = none ∧ n.bar.graceEnd = none) ∧
      (∃ b u v, drainBegun s b ∧ barsCharged b.minibars b u ∧ jobDrained u v ∧
        t.nodes = v.nodes ∧ t.rooms = v.rooms ∧ t.cred = v.cred ∧ t.enc = v.enc ∧ t.journal = v.journal ∧
        queuesOnly [] v t ∧ ∀ c, c ≠ .power → c ≠ .store → postedAll c [] v t) ∧
      { t.link with
        slot := s.link.slot, deferred := s.link.deferred, tx := s.link.tx, notices := s.link.notices } = s.link ∧
      keepsBut [.power, .rooms, .nodes, .cred, .enc, .lines, .journal, .store, .link] s t := by
  let b := w.drainBegins cause
  let x := finaliseAll b
  let v := w.drainReaches cause
  obtain ⟨lines, kept⟩ := beginDrain_lines (s := w) (cause := cause)
  have hv : ∀ p : Part, p ≠ .lines → p ≠ .link → p.same v u := fun p h h' =>
    same_trans (kept p (by simp [h])) (hu p (by simp [h']))
  have storeW : w.store = s.store := hw .store (by simp)
  have linkW : w.link = s.link := hw .link (by simp)
  have storeU : u.store = v.store := hv .store (by simp) (by simp)
  have linkV : (beginDrain cause w).link = v.link := kept .link (by simp)
  have noticesU : u.link.notices = v.link.notices := by
    rw [← linkV, ← hslot]
  have powerU : u.power = { w.power with state := .draining, drain := some ⟨cause, false, none, false⟩ } :=
    (hv .power (by simp) (by simp)).trans drainReaches_power
  have stoppedU : u.store.stopped := storeU ▸ drainBegins_stopped.queued drainReaches_queued
  have pumped := pumpEngine_stopped (s := u) (by unfold State.working; rw [powerU]; rfl)
    (by unfold State.draining; rw [powerU]; rfl) stoppedU
  have ends := finish_ends u
  have same := (alters.refl [] [] [] u).changesOnly
  have begun := drainBegins_begun w cause
  have moves := moveLogHead_moves false (w.drainStarts cause)
  have power : (v.link.notices.get .power) = (s.link.notices.get .power).occur (.draining cause) := by
    rw [drainReaches_posts.notices .power (by simp), drainBegins_power, linkW]
  have field : ∀ {β : Type} (f : Link → β), (∀ y n, f { y with notices := n } = f y) → (∀ y n, f { y with slot := n } = f y) →
      f u.link = f { s.link with deferred := none } := by
    intro β f hf hf'
    rw [← hf' u.link, hslot, linkV, Link.posts_field drainReaches_posts f hf, Link.posts_field drainBegins_posts f hf, linkW]
  subst ht
  refine ⟨by simpa using powerU, posted_finish (by simp) (by rw [noticesU, power]), ?_, ?_, ?_, ?_, fun p hp => ?_, ?_, ?_, ?_,
    fun i => ?_, fun j hj => ?_, fun k n hn => ?_, ⟨b, x, v, ?_, barsCharged_foldl _ _, drainJob_drained _, ?_, ?_, ?_, ?_, ?_,
      fun k _ => ?_, fun c h h' => postedAll_finish h' ?_⟩, ?_, fun p hp => ?_⟩
  · rw [finish_store]; exact pumped.1.work
  · rw [finish_store]; exact pumped.1.idRequest
  · rw [finish_store]; exact pumped.1.suspended
  · rw [finish_store]; exact pumped.1.engine
  · rw [finish_store]
    refine pumped.2 p ?_
    rw [storeU, drainReaches_queued.field Store.engine fun _ _ _ => rfl]
    exact drainBegins_programming (storeW ▸ hp)
  · refine keepsSlots_trans ?_ (keepsSlots_of_regions same.cells.tlog same.cells.jreg same.cells.idPlaces)
    have starts : keepsSlots w.store (w.drainStarts cause).store :=
      ⟨(cutErases_keepsSlots w.store).log, (cutErases_keepsSlots w.store).journal, (cutErases_keepsSlots w.store).identity⟩
    rw [storeU, ← storeW]
    exact keepsSlots_trans starts (keepsSlots_trans moves.keepsSlots drainReaches_queued.keepsSlots)
  · rw [same.cells.identity, storeU, drainReaches_queued.field Store.identity fun _ _ _ => rfl, ← storeW]
    exact (moves.field Store.identity fun _ _ _ _ _ => rfl).trans (cutErases_identity w.store)
  · rw [ends.deferred]
    exact field Link.deferred (fun _ _ => rfl) fun _ _ => rfl
  · rw [finish_line, State.line_congr (hu .lines (by simp)), lines]
    unfold State.drained drainExchange
    rw [State.line_congr (hw .lines (by simp)), show w.settings = s.settings from hw .settings (by simp)]
  · refine drainJob_outcome (s := x) ?_
    rw [← hj, show (finish u).enc = u.enc by simp, show u.enc = v.enc from hv .enc (by simp) (by simp)]
    rfl
  · have nodes : (finish u).nodes = x.nodes := by
      rw [show (finish u).nodes = u.nodes by simp, show u.nodes = v.nodes from hv .nodes (by simp) (by simp)]
      exact (drainJob_frame x).2.2.1
    rw [nodes] at hn
    exact drainBegins_timers.barsCharged (barsCharged_foldl _ _) k n hn
  · refine ⟨begun.nodes.trans ?_, begun.queue.trans (by rw [storeW]), begun.waiting.trans (by rw [storeW]),
      fun c h h' => (begun.notices c h h').trans (by rw [linkW]),
      keepsBut_trans (keepsBut_mono (by simp) hw) begun.rest⟩
    rw [show w.nodes = s.nodes from hw .nodes (by simp)]
  · rw [show (finish u).nodes = u.nodes by simp]; exact hv .nodes (by simp) (by simp)
  · rw [show (finish u).rooms = u.rooms by simp]; exact hv .rooms (by simp) (by simp)
  · rw [show (finish u).cred = u.cred by simp]; exact hv .cred (by simp) (by simp)
  · rw [show (finish u).enc = u.enc by simp]; exact hv .enc (by simp) (by simp)
  · rw [show (finish u).journal = u.journal by simp]; exact hv .journal (by simp) (by simp)
  · rw [← storeU]; exact same.changes k (by simp)
  · rw [noticesU]; rfl
  · have rate := ends.rate.trans (field Link.rate (fun _ _ => rfl) fun _ _ => rfl)
    have inbound := ends.inbound.trans (field Link.inbound (fun _ _ => rfl) fun _ _ => rfl)
    have holdOut := ends.holdOut.trans (field Link.holdOut (fun _ _ => rfl) fun _ _ => rfl)
    have holdIn := ends.holdIn.trans (field Link.holdIn (fun _ _ => rfl) fun _ _ => rfl)
    have deferredDone := ends.deferredDone.trans (field Link.deferredDone (fun _ _ => rfl) fun _ _ => rfl)
    have errors := ends.errors.trans (field Link.errors (fun _ _ => rfl) fun _ _ => rfl)
    dsimp only
    rw [rate, inbound, holdOut, holdIn, deferredDone, errors]
  · refine same_trans (hw p fun h => hp (by simp at h; simp [h])) (same_trans (beginDrain_part p hp) (same_trans (hu p fun h =>
      hp (by simp at h; simp [h])) (finish_part u (fun h => hp (by simp [h])) fun h => hp (by simp [h]))))

theorem pfwAsserted_drains (hrun : s.power.state = .run) :
    exec .pfwAsserted s = .next (finish (beginDrain .pfw (s.onPower fun p => { p with pfw := true }))) := by
  show execPfwAsserted s = _
  unfold execPfwAsserted
  rw [if_pos (by unfold State.running; rw [hrun]; rfl)]
  rfl

theorem onPower_keeps (f : PowerUnit → PowerUnit) : keepsBut [.power] s (s.onPower f) :=
  fun p hp => by cases p <;> first | rfl | exact absurd (by simp) hp

theorem placeReply_slotted (tag : List (Fin 10)) (lines : List RLine) :
    { (placeReply tag lines s).link with slot := s.link.slot } = s.link := by
  rw [placeReply_link]

theorem mem_minibars {e : Nat × Node} (he : e ∈ s.nodes) :
    (keyLine e.1, keyAddr e.1, e.2) ∈ s.minibars ↔ e.2.entry.kind = .minibar := by
  simp only [State.minibars, List.mem_map, mem_sortBy, List.mem_filter, decide_eq_true_eq, Prod.mk.injEq]
  constructor
  · rintro ⟨d, ⟨-, hk⟩, -, -, h⟩
    rw [← h]; exact hk
  · exact fun hk => ⟨e, ⟨he, hk⟩, rfl, rfl, rfl⟩

/-- Settles O52: the drain's first step by the layers of its parts (`drainBeginning`). -/
theorem theDrainBegins : Obligations.TheDrainBegins := by
  refine ⟨fun s c cause hc => ?_, fun s => ⟨minibars_sorted s, fun e he => mem_minibars he⟩, fun s hs => ?_,
    fun s straps hs => ?_⟩
  · obtain ⟨rfl, hrun, rfl⟩ | ⟨h, rfl, hacc, hrun, rfl⟩ := hc
    · obtain ⟨power, notice, rest⟩ := drainBeginning (cause := .pfw) (onPower_keeps fun p => { p with pfw := true })
        (keepsBut_refl [.link] (beginDrain .pfw (s.onPower fun p => { p with pfw := true }))) rfl rfl
      exact ⟨_, pfwAsserted_drains hrun, power, notice, fun h hh => (by cases hh), rest⟩
    · obtain ⟨power, notice, rest⟩ := drainBeginning (cause := .restart) (keepsBut_refl [.power] s)
        (fun p hp => placeReply_part h.tag [.ok] _ fun e => hp (by simp [e])) (placeReply_slotted h.tag [.ok]) rfl
      exact ⟨_, desk_reply hacc rfl, power, notice, fun h' hh => (by cases hh; exact (answersOnly_refuse h [.ok] _).1), rest⟩
  · show execPfwAsserted s = _
    unfold execPfwAsserted
    rw [if_neg (by unfold State.running; simpa using hs)]
    rfl
  · show execPfwDeasserted straps s = _
    unfold execPfwDeasserted
    rw [if_neg hs]
    rfl

end

end Sys2Proof.Machine

/-! ## NODE SET (R10, R11) -/

namespace Sys2Proof.Machine

set_option Elab.async false

section
variable {s : State} {l : LineId} {a : Nat} {e : NodeEntry} {n : Node}

theorem badOpt_given {x lo hi : Nat} (h : lo ≤ x) (h' : x ≤ hi) : badOpt (.given x) lo hi = false := by
  simp [badOpt, h, h']

/-- An entry that fits the table and, at a minibar, leaves it its room or finds it at rest breaks no rule (R12). -/
theorem nodeBreaks_eq_false (hfit : s.nodeFits l a e) (hrest : ∀ n, s.node l a = some n → n.entry.kind = .minibar →
    n.bar.state = .locked ∨ n.bar.state = .held ∨ (e.kind = .minibar ∧ e.room = n.entry.room)) :
    s.nodeBreaks l a e = false := by
  obtain ⟨hgroup, hpos, hroom⟩ := hfit
  have place : (s.otherNode (nodeKey l a) fun k x => decide (keyLine k = l) && decide (x.pos = e.pos)) = false := by
    simp only [State.otherNode, List.any_eq_false, Bool.and_eq_true, decide_eq_true_eq, not_and]
    exact fun x hx h1 h2 => hpos x hx h1 h2
  have kind : (decide (e.kind ≠ .commonDoor) &&
      s.otherNode (nodeKey l a) fun _ x => decide (x.kind = e.kind) && decide (x.room = e.room)) = false := by
    simp only [State.otherNode, Bool.and_eq_false_imp, decide_eq_true_eq, List.any_eq_false, Bool.and_eq_true, not_and]
    exact fun h x hx h1 h2 => hroom h x hx h1 h2
  unfold State.nodeBreaks
  dsimp only
  rw [hgroup, place, kind]
  cases hn : s.node l a with
  | none => rfl
  | some n =>
    by_cases hk : n.entry.kind = .minibar
    · rcases hrest n hn hk with h | h | ⟨h, h'⟩ <;> simp [BarRec.rests, *]
    · simp [hk]

theorem Line.unlist_eq (x : Line) : x.unlist a = { x with cycle := x.cycle.map fun c =>
    { c with rest := c.rest.filter fun b => decide (b ≠ a) } } := rfl

/-- Settles O21: the entry is put, and the address leaves the visits still to come. -/
theorem nodeSetCreates : Obligations.NodeSetCreates := by
  intro h s l a p g k room enabled e hacc h1 h2 hp1 hp2 hg hen hroom hn he hfit hro hq
  have entry : setNode (.given k) (.given p) room (.given g) enabled none = e := by
    rw [he]
    unfold setNode
    by_cases hk : k = .commonDoor
    · rw [if_pos hk] at hroom
      simp [argOr, argGet, hk, hroom]
    · rw [if_neg hk] at hroom
      obtain ⟨i, r, rfl, -, -⟩ := hroom
      simp only [argOr, argGet, hk, Option.getD_some, Option.isSome_none, Bool.false_and, Option.getD_none, if_false]
      rfl
  have roomOpt : badOpt room 0 511 = false ∧ (argSent room && s.noRoom room) = false ∧
      nodeFieldFault (.given k) (.given p) room (.given g) none = false := by
    by_cases hk : k = .commonDoor
    · rw [if_pos hk] at hroom
      subst hroom
      exact ⟨rfl, rfl, by simp [nodeFieldFault, argMissing, argOr, argGet, hk, argSent]⟩
    · rw [if_neg hk] at hroom
      obtain ⟨i, r, rfl, hi, hr⟩ := hroom
      refine ⟨badOpt_given (Nat.zero_le i) hi, ?_, by simp [nodeFieldFault, argMissing, argOr, argGet, hk]⟩
      rw [noRoom_eq_false hr, Bool.and_false]
  have created : s.createdNode e = ⟨e,
      ⟨if e.enabled = true then .unknown else .disabled, 0, 0, false, false, false, false, none⟩, .start,
      if k = .minibar ∧ ((s.rooms.get (argNat room)).map Room.hold).getD false = true
      then { BarRec.start with state := .held } else .start⟩ := by
    unfold State.createdNode State.newBar
    congr 1
    by_cases hk : k = .minibar
    · have kind : e.kind = .minibar := by rw [he]; exact hk
      rw [if_neg (by rw [hk]; simp)] at hroom
      obtain ⟨i, r, rfl, -, hr⟩ := hroom
      have eroom : e.room = some i := by rw [he]; rfl
      rw [if_pos kind, eroom]
      cases hh : r.hold <;> simp [State.restState, hr, hh, hk, BarRec.start]
    · have kind : e.kind ≠ .minibar := by rw [he]; exact hk
      rw [if_neg kind, if_neg fun h => hk h.1]
  let v := s.onNodes fun m => m.put (nodeKey l a) (s.createdNode e)
  let u := v.modLine l (Line.unlist a)
  have set : applyNodeSet l a e s = u := by
    unfold applyNodeSet putNode State.joins
    rw [hn]
    rfl
  have altered : alters [.node l a] [.nodes, .lines] [] s (enqueue (.node l a) u) :=
    (((alters.refl _ _ _ s).onNodes _).modLine _ _).enqueue _
  have node : u.node l a = some (s.createdNode e) := FMap.get_put_self _ _ _
  refine ⟨_, desk_reply hacc (u := enqueue (.node l a) u) (lines := [.node (l, a) e]) ?_, ?_, fun key hk => ?_, fun i => ?_,
    placed_finish (placed_enqueue (canQueue_roomFor (t := s.store) hq (by simp))), altered.answersOnly h _⟩
  · simp only [namedLine_lineNum, argNat_given, hn, Option.map_none, entry, set]
    refine tableRequest_ok ?_ roomOpt.2.1 (nodeBreaks_eq_false hfit fun n h => by rw [hn] at h; cases h) hro hq
    rw [badNode_eq_false l h1 h2, roomOpt.1, roomOpt.2.2, argMalformed_eq_false hen, badOpt_given hp1 hp2,
      badOpt_given (Nat.zero_le g) hg]
    rfl
  · rw [finish_node, placeReply_node, enqueue_node, node, created]
  · have nodes : (finish (placeReply h.tag [.node (l, a) e] (enqueue (.node l a) u))).nodes = u.nodes := by simp
    rw [nodes]
    exact FMap.get_put_other _ _ hk
  · rw [finish_line, placeReply_line, enqueue_line]
    split
    · next h => subst h; exact State.line_modLine_self _ _ _
    · next h => exact State.line_modLine_other _ _ h

/-! ### A present node changed -/

theorem NodeLink.reset_eq (old new : NodeEntry) (x : NodeLink) : x.reset old new = { x with
    state := if new.enabled = old.enabled then x.state else if new.enabled = true then .unknown else .disabled
    miss := if new.enabled = true ∧ old.enabled = false then 0 else x.miss
    groupOwed := x.groupOwed || decide (new.group ≠ old.group)
    groupSent := x.groupSent && decide (new.group = old.group) } := by
  unfold NodeLink.reset NodeLink.oweGroup
  by_cases hg : new.group = old.group <;> cases hn : new.enabled <;> cases ho : old.enabled <;> simp [hg]

theorem dropPrivacy_rooms (old : NodeEntry) (s : State) (i : Nat) : (dropPrivacy old s).rooms.get i =
    (s.rooms.get i).map fun r => if old.kind = .roomDoor ∧ i = old.room.getD 0 then { r with privacy := false } else r := by
  unfold dropPrivacy NodeEntry.boundRoom
  by_cases hk : old.kind = .roomDoor
  · rw [if_pos hk, State.get_modRoom]
    by_cases hi : i = old.room.getD 0
    · simp [hi, hk]
    · simp [hi]
  · simp [hk]

theorem alters.dropPrivacy {K : List EntryKey} {P : List Part} {C : List NoticeClass} {t : State} (h : alters K P C s t)
    (old : NodeEntry) (hp : Part.rooms ∈ P := by simp) : alters K P C s (dropPrivacy old t) := by
  unfold Machine.dropPrivacy; split
  · exact h.modRoom _ _ hp
  · exact h

/-- The entry NODE SET leaves of a present node. -/
theorem setNode_present {kind : Arg NodeKind} {pos room group : Arg Nat} {enabled : Arg Bool} {x : NodeEntry} :
    setNode kind pos room group enabled (some x) = ⟨argOr kind x.kind, argOr pos x.pos,
      if argOr kind x.kind = .commonDoor then none else
        match argGet room with
        | some i => some i
        | none => x.room,
      argOr group x.group, argOr enabled x.enabled,
      if argOr kind x.kind = x.kind then x.codes
        else if argOr kind x.kind = .minibar then List.replicate 12 0 else [],
      if argOr kind x.kind = x.kind then x.baseline else 0⟩ := by
  unfold setNode
  by_cases hk : argOr kind x.kind = x.kind <;> simp [hk] <;> rfl

/-- Settles O22: the node's new record is put, its room loses its privacy with its door, and a node that becomes enabled
leaves the visits still to come. -/
theorem nodeSetChanges : Obligations.NodeSetChanges := by
  intro h s l a kind pos room group enabled n e hacc h1 h2 hkind hen hpos hgroup hroomOpt hn hroom he hfit hrest hro hq
  have entry : setNode kind pos room group enabled (some n.entry) = e := setNode_present.trans he.symm
  have fault : nodeFieldFault kind pos room group (some n.entry) = false := by
    unfold nodeFieldFault
    simp only [Option.map_some, Option.getD_some]
    split at hroom
    · next hk => rw [if_pos hk, hroom]; rfl
    · next hk =>
      rw [if_neg hk]
      cases room with
      | given i => simp
      | malformed => cases hroomOpt
      | absent => simpa using fun hc => absurd rfl (hroom.1 hc)
  have found : (argSent room && s.noRoom room) = false := by
    cases room with
    | given i =>
      split at hroom
      · cases hroom
      · obtain ⟨r, hr⟩ := Option.isSome_iff_exists.mp (hroom.2 i rfl)
        rw [noRoom_eq_false hr, Bool.and_false]
    | malformed => cases hroomOpt
    | absent => rfl
  let s1 := if n.entry.kind = e.kind ∧ n.entry.room = e.room then s else dropPrivacy n.entry s
  let v := s1.onNodes fun m => m.put (nodeKey l a) (s.changedNode n e)
  let u := if (e.enabled && !n.entry.enabled) = true then v.modLine l (Line.unlist a) else v
  have set : applyNodeSet l a e s = u := by
    unfold applyNodeSet putNode State.joins
    rw [hn]
  have altered₁ : alters [.node l a] [.rooms, .nodes, .lines] [] s s1 := by
    unfold s1; split
    · exact .refl _ _ _ s
    · exact (alters.refl _ _ _ s).dropPrivacy _
  have altered : alters [.node l a] [.rooms, .nodes, .lines] [] s (enqueue (.node l a) u) := by
    refine .enqueue ?_ _
    unfold u; split
    · exact (altered₁.onNodes _).modLine _ _
    · exact altered₁.onNodes _
  have nodes : u.nodes = s.nodes.put (nodeKey l a) (s.changedNode n e) := by
    have first : s1.nodes = s.nodes := by unfold s1; split <;> simp
    rw [← first]
    unfold u; split <;> rfl
  have rooms : u.rooms = s1.rooms := by unfold u; split <;> rfl
  have lines : ∀ i, v.line i = s.line i := fun i => State.line_congr (by
    show s1.lines = s.lines
    unfold s1; split <;> simp) i
  have store : u.store = s.store := by
    have first : s1.store = s.store := by unfold s1; split <;> simp
    rw [← first]
    unfold u; split <;> rfl
  have node : u.node l a = some (s.changedNode n e) := by unfold State.node; rw [nodes]; exact FMap.get_put_self _ _ _
  refine ⟨_, s.changedNode n e, desk_reply hacc (u := enqueue (.node l a) u) (lines := [.node (l, a) e]) ?_, ?_, rfl,
    NodeLink.reset_eq _ _ _, rfl, fun hk hr => ?_, fun hk => ?_, fun hk hk' hr => ?_, fun key hk => ?_, fun i => ?_, fun i => ?_,
    placed_finish (placed_enqueue (canQueue_roomFor (t := u.store) (by rw [store]; exact hq) (by simp))),
    altered.answersOnly h _⟩
  · simp only [namedLine_lineNum, argNat_given, hn, Option.map_some, entry, set]
    refine tableRequest_ok ?_ found (nodeBreaks_eq_false hfit fun m h hk => ?_) hro hq
    · rw [badNode_eq_false l h1 h2, fault, hpos, hgroup, hroomOpt, argMalformed_eq_false hen, argMalformed_eq_false hkind]
      rfl
    · obtain rfl : n = m := Option.some.inj (hn.symm.trans h)
      exact hrest hk
  · rw [finish_node, placeReply_node, enqueue_node, node]
  · have stays : ¬ (e.kind = .minibar ∧ e.room ≠ n.entry.room) := fun hb => hr.elim (fun h => h hb.1) fun h => hb.2 h
    simp [State.changedNode, hk]
    exact fun hb hne => absurd ⟨hk.trans hb, hne⟩ stays
  · simp only [State.changedNode, if_pos hk]
    rfl
  · have same : ¬ e.kind ≠ n.entry.kind := by simp [hk, hk']
    simp only [State.changedNode, if_neg same, if_pos (And.intro hk hr)]
  · have all : (finish (placeReply h.tag [.node (l, a) e] (enqueue (.node l a) u))).nodes = u.nodes := by simp
    rw [all, nodes]
    exact FMap.get_put_other _ _ hk
  · have all : (finish (placeReply h.tag [.node (l, a) e] (enqueue (.node l a) u))).rooms = s1.rooms := by simp [rooms]
    rw [all]
    unfold s1
    by_cases hs : n.entry.kind = e.kind ∧ n.entry.room = e.room
    · have stays : ¬ (n.entry.kind = .roomDoor ∧ (e.kind ≠ .roomDoor ∨ e.room ≠ n.entry.room) ∧ i = n.entry.room.getD 0) := by
        rintro ⟨hd, hk | hr, -⟩
        · exact hk (hs.1.symm.trans hd)
        · exact hr hs.2.symm
      rw [if_pos hs]
      simp only [if_neg stays, Option.map_id']
    · have moved : n.entry.kind = .roomDoor → e.kind ≠ .roomDoor ∨ e.room ≠ n.entry.room := fun hd => by
        by_contra hno
        obtain ⟨hk, hr⟩ := not_or.mp hno
        exact hs ⟨hd.trans (not_not.mp hk).symm, (not_not.mp hr).symm⟩
      rw [if_neg hs, dropPrivacy_rooms]
      congr 1
      funext r
      by_cases hd : n.entry.kind = .roomDoor
      · simp [hd, moved hd]
      · simp [hd]
  · rw [finish_line, placeReply_line, enqueue_line]
    unfold u
    by_cases hj : e.enabled = true ∧ n.entry.enabled = false
    · rw [if_pos (by simp [hj])]
      split
      · next h => obtain ⟨rfl, -⟩ := h; rw [State.line_modLine_self, lines]; rfl
      · next h => rw [State.line_modLine_other _ _ fun hi => h ⟨hi, hj⟩, lines]
    · rw [if_neg (by simpa using hj), if_neg fun h => hj h.2, lines]

end

end Sys2Proof.Machine

/-! ## NODE REMOVE and STOCK (R13, R14) -/

namespace Sys2Proof.Machine

set_option Elab.async false

section
variable {s : State} {l : LineId} {a : Nat} {n : Node}

theorem alters.journalLost {K : List EntryKey} {P : List Part} {C : List NoticeClass} {t : State} (h : alters K P C s t)
    (i : LineId) (c : LostCause) (os : List Order) (hp : Part.journal ∈ P := by simp)
    (hc : NoticeClass.journal ∈ C := by simp) : alters K P C s (journalLost i c os t) := by
  rw [journalLost_eq]
  exact h.offerAll _ hp hc

/-- The records of the orders lost with a removed node. -/
theorem lostRecords_removed (os : List Order) : lostRecords l .removed (os.filter fun o => decide (o.target = some a)) =
    (os.filter fun o => decide (o.target = some a ∧ o.cls = .decision)).map fun o =>
      ⟨.orderLost, some (l, a), none, none, .lostCause .removed, .order o.kind, .none⟩ := by
  unfold lostRecords
  rw [List.filter_filter]
  have same : (os.filter fun o => decide (o.cls = .decision) && decide (o.target = some a)) =
      os.filter fun o => decide (o.target = some a ∧ o.cls = .decision) :=
    List.filter_congr fun o _ => by rw [Bool.and_comm, Bool.decide_and]
  rw [same]
  refine List.map_congr_left fun o ho => ?_
  have target : o.target = some a := (of_decide_eq_true (List.mem_filter.mp ho).2).1
  rw [target]
  rfl

/-- NODE REMOVE. -/
theorem nodeIsRemoved {h : ReqHead} (hacc : accepts h s) (h1 : 1 ≤ a) (h2 : a ≤ 120) (hn : s.node l a = some n)
    (hrest : n.entry.kind = .minibar → n.bar.state = .locked ∨ n.bar.state = .held) (hro : s.store.readOnly = false)
    (hq : s.store.canQueue [.node l a] 0 = true) :
    ∃ t, exec (.nodeRemove h (.given (lineNum l)) (.given a)) s = .next t ∧
      t.node l a = none ∧ (∀ key, key ≠ nodeKey l a → t.nodes.get key = s.nodes.get key) ∧
      (t.line l).queue = (s.line l).queue.filter (fun o => decide (o.target ≠ some a)) ∧
      (t.line l).exch = ((s.line l).exch.map fun x =>
        if x.kind.awaitsReply = true ∧ x.addr = a then { x with kind := .removed } else x) ∧
      (t.line l).cycle = ((s.line l).cycle.map fun c =>
        { c with visit := c.visit.map fun v => if v.addr = a then { v with done := true } else v }) ∧
      { t.line l with queue := (s.line l).queue, exch := (s.line l).exch, cycle := (s.line l).cycle } = s.line l ∧
      (∀ i, i ≠ l → t.line i = s.line i) ∧
      journaled (((s.line l).queue.filter fun o => decide (o.target = some a ∧ o.cls = .decision)).map fun o =>
        ⟨.orderLost, some (l, a), none, none, .lostCause .removed, .order o.kind, .none⟩) s t ∧
      (∀ i, t.rooms.get i = (s.rooms.get i).map fun r =>
        if n.entry.kind = .roomDoor ∧ i = n.entry.room.getD 0 then { r with privacy := false } else r) ∧
      placed [.node l a] t ∧
      answersOnly h [.ok] [.node l a] [.rooms, .nodes, .lines, .journal] [.journal] s t := by
  let lost := (s.line l).queue.filter fun o => decide (o.target = some a)
  let s1 := (s.onNodes fun m => m.del (nodeKey l a)).modLine l (Line.forget a)
  let u := removeNode l a n s
  have eq : u = journalLost l .removed lost (dropPrivacy n.entry s1) := rfl
  have altered : alters [.node l a] [.rooms, .nodes, .lines, .journal] [.journal] s (enqueue (.node l a) u) :=
    (((((alters.refl _ _ _ s).onNodes _).modLine _ _).dropPrivacy _).journalLost _ _ _).enqueue _
  have nodes : u.nodes = s.nodes.del (nodeKey l a) := by
    have first : u.nodes = s1.nodes := by simp [eq]
    rw [first]; rfl
  have store : u.store = s.store := by
    have first : u.store = s1.store := by simp [eq]
    rw [first]; rfl
  have line : ∀ i, u.line i = if i = l then (s.line l).forget a else s.line i := by
    intro i
    have first : u.line i = s1.line i := State.line_congr (by simp [eq]) i
    rw [first]
    split
    · next h => subst h; exact State.line_modLine_self _ _ _
    · next h => exact State.line_modLine_other _ _ h
  have lineT : ∀ i, (finish (placeReply h.tag [.ok] (enqueue (.node l a) u))).line i = u.line i := fun i => by
    rw [finish_line, placeReply_line, enqueue_line]
  refine ⟨_, desk_reply hacc (u := enqueue (.node l a) u) (lines := [.ok]) ?_, ?_, fun key hk => ?_, ?_, ?_, ?_, ?_, fun i hi => ?_,
    ?_, fun i => ?_, placed_finish (placed_enqueue (canQueue_roomFor (t := u.store) (by rw [store]; exact hq) (by simp))),
    altered.answersOnly h _⟩
  · simp only [namedLine_lineNum, argNat_given, hn]
    refine tableRequest_ok (badNode_eq_false l h1 h2) rfl ?_ hro hq
    by_cases hk : n.entry.kind = .minibar
    · rcases hrest hk with hs | hs <;> simp [BarRec.rests, hs]
    · simp [hk]
  · rw [finish_node, placeReply_node, enqueue_node, State.node, nodes]
    exact FMap.get_del_self _ _
  · have all : (finish (placeReply h.tag [.ok] (enqueue (.node l a) u))).nodes = u.nodes := by simp
    rw [all, nodes]
    exact FMap.get_del_other _ hk
  · rw [lineT, line, if_pos rfl]; rfl
  · rw [lineT, line, if_pos rfl]
    simp [Line.forget]
  · rw [lineT, line, if_pos rfl]; rfl
  · rw [lineT, line, if_pos rfl]; rfl
  · rw [lineT, line, if_neg hi]
  · refine journaled_all (w := dropPrivacy n.entry s1) ?_ (by simp [s1]) (by simp [eq, s1])
    rw [show (finish (placeReply h.tag [.ok] (enqueue (.node l a) u))).journal = u.journal by simp, eq, journalLost_eq,
      lostRecords_removed]
  · have all : (finish (placeReply h.tag [.ok] (enqueue (.node l a) u))).rooms = (dropPrivacy n.entry s1).rooms := by
      simp [eq]
    rw [all, dropPrivacy_rooms]
    rfl

/-! ### STOCK -/

theorem slotBit_has {j k : Nat} (hj : 1 ≤ j) (hk : 1 ≤ k) (hk12 : k ≤ 12) : (slotBit j).has k = decide (j = k) := by
  unfold slotBit SlotSet.has
  have one : (1 : BitVec 12) = 1#12 := rfl
  rw [one, BitVec.getLsbD_shiftLeft, BitVec.getLsbD_one, Bool.eq_iff_iff]
  simp
  omega

theorem SlotSet.has_or (m o : SlotSet) (k : Nat) : SlotSet.has (m ||| o) k = (m.has k || o.has k) := by
  simp [SlotSet.has]

theorem SlotSet.has_and (m o : SlotSet) (k : Nat) : SlotSet.has (m &&& o) k = (m.has k && o.has k) := by
  simp [SlotSet.has]

/-- A set gathered slot by slot. -/
theorem gathered_has {p : Nat → Prop} [DecidablePred p] {k : Nat} (h1 : 1 ≤ k) (h2 : k ≤ 12) (ks : List Nat)
    (hks : ∀ j ∈ ks, 1 ≤ j) (m : SlotSet) : (ks.foldl (fun m j => if p j then m else m ||| slotBit j) m).has k =
      (m.has k || decide (k ∈ ks ∧ ¬ p k)) := by
  induction ks generalizing m with
  | nil => simp
  | cons j ks ih =>
    rw [List.foldl_cons, ih fun i hi => hks i (by simp [hi])]
    have bit := slotBit_has (hks j (by simp)) h1 h2
    by_cases hp : p j
    · rw [if_pos hp]
      by_cases hk : k = j
      · subst hk; simp [hp]
      · simp [hk]
    · rw [if_neg hp, SlotSet.has_or, bit]
      by_cases hk : k = j
      · subst hk; simp [hp]
      · simp [hk, Ne.symm hk]

theorem mem_allSlots {k : Nat} : k ∈ allSlots ↔ 1 ≤ k ∧ k ≤ 12 := by
  simp only [allSlots, rangeInc, List.mem_map, List.mem_range]
  constructor
  · rintro ⟨j, hj, rfl⟩; omega
  · exact fun h => ⟨k - 1, by omega, by omega⟩

/-- The stocked slots are those with an item code (R110). -/
theorem stocked_has {e : NodeEntry} {k : Nat} (h1 : 1 ≤ k) (h2 : k ≤ 12) : e.stocked.has k = decide (e.code k ≠ 0) := by
  unfold NodeEntry.stocked
  rw [gathered_has (p := fun k => e.code k = 0) h1 h2 allSlots fun j hj => (mem_allSlots.mp hj).1]
  simp [mem_allSlots, h1, h2, SlotSet.has]

theorem stockCodes_length (cs : List Nat) (args : List (Arg Nat)) : (stockCodes cs args).length = cs.length := by
  fun_induction stockCodes cs args <;> simp [*]

theorem stockCodes_getD (cs : List Nat) (args : List (Arg Nat)) (k : Nat) (hk : k < cs.length) :
    (stockCodes cs args).getD k 0 = argOr (args.getD k .absent) (cs.getD k 0) := by
  fun_induction stockCodes cs args generalizing k with
  | case1 c t a r ih => 
    cases k with
    | zero => rfl
    | succ k => simpa using ih k (by simpa using hk)
  | case2 l => simp
  | case3 args => simp at hk

theorem stockIsTaken {h : ReqHead} {codes : List (Arg Nat)} (hacc : accepts h s) (h1 : 1 ≤ a) (h2 : a ≤ 120)
    (hlen : codes.length = 12) (hcodes : ∀ c ∈ codes, badOpt c 0 127 = false) (hsent : ∃ c ∈ codes, c ≠ .absent)
    (hn : s.node l a = some n) (hk : n.entry.kind = .minibar) (hheld : n.entry.codes.length = 12)
    (hrest : n.bar.state = .locked ∨ n.bar.state = .held) (hro : s.store.readOnly = false)
    (hq : s.store.canQueue [.node l a] 0 = true) :
    ∃ t e, exec (.stock h (.given (lineNum l)) (.given a) codes) s = .next t ∧
      t.node l a = some { n with entry := e } ∧
      { e with codes := n.entry.codes, baseline := n.entry.baseline } = n.entry ∧
      e.codes.length = 12 ∧ (∀ k, k < 12 → e.codes.getD k 0 = argOr (codes.getD k .absent) (n.entry.codes.getD k 0)) ∧
      (∀ k, 1 ≤ k → k ≤ 12 → e.baseline.has k = (n.entry.baseline.has k && decide (e.codes.getD (k - 1) 0 ≠ 0))) ∧
      (∀ key, key ≠ nodeKey l a → t.nodes.get key = s.nodes.get key) ∧ placed [.node l a] t ∧
      answersOnly h [.codes e.codes] [.node l a] [.nodes] [] s t := by
  let e := n.entry.restock codes
  let u := s.modNode l a fun n => { n with entry := e }
  refine ⟨_, e, desk_reply hacc (u := enqueue (.node l a) u) (lines := [.codes e.codes]) ?_, ?_, rfl, ?_, fun k hk => ?_,
    fun k hk1 hk2 => ?_, fun key hkey => ?_,
    placed_finish (placed_enqueue (canQueue_roomFor (keys := [.node l a]) (n := 0) (by simpa [u] using hq) (by simp))),
    (((alters.refl _ _ _ s).modNode l a _).enqueue _).answersOnly h _⟩
  · have found : ((s.node l a).filter fun n => decide (n.entry.kind = .minibar)) = some n := by simp [hn, hk]
    have bad : codes.any (fun c => badOpt c 0 127) = false := by simpa using hcodes
    have sent : codes.any argSent = true := by
      obtain ⟨c, hc, hne⟩ := hsent
      exact List.any_eq_true.mpr ⟨c, hc, argSent_of_ne hne⟩
    simp only [namedLine_lineNum, argNat_given, found]
    refine tableRequest_ok ?_ rfl ?_ hro hq
    · simp [badNode_eq_false l h1 h2, bad, sent, hlen]
    · rcases hrest with hs | hs <;> simp [BarRec.rests, hs]
  · rw [finish_node, placeReply_node, enqueue_node, State.node_modNode_self, hn]; rfl
  · exact (stockCodes_length _ _).trans hheld
  · exact stockCodes_getD _ _ k (by rw [hheld]; exact hk)
  · show SlotSet.has (_ &&& _) k = _
    rw [SlotSet.has_and, stocked_has hk1 hk2]
    rfl
  · have all : (finish (placeReply h.tag [.codes e.codes] (enqueue (.node l a) u))).nodes = u.nodes := by simp
    rw [all, State.get_modNode, if_neg hkey]

/-- Settles O23: the removed node by the line that forgets it, STOCK slot by slot. -/
theorem nodesAreRemovedAndStocked : Obligations.NodesAreRemovedAndStocked :=
  ⟨fun _ _ _ _ _ hacc h1 h2 hn hrest hro hq => nodeIsRemoved hacc h1 h2 hn hrest hro hq,
    fun _ _ _ _ _ _ hacc h1 h2 hlen hcodes hsent hn hk hheld hrest hro hq =>
      stockIsTaken hacc h1 h2 hlen hcodes hsent hn hk hheld hrest hro hq⟩

end

end Sys2Proof.Machine

/-! ## An ISSUE accepted (R23 to R29) -/

namespace Sys2Proof.Machine

set_option Elab.async false

/-! ### The place the serial takes ahead of the intent record (R23) -/

section
variable {t : Store} {slot : Nat}

theorem yieldPlace_rest (slot : Nat) (t : Store) : yieldPlace slot t = { t with queue := (yieldPlace slot t).queue } := by
  unfold yieldPlace; split <;> rfl

theorem yieldPlace_other {k : EntryKey} (hk : k ≠ .cred slot) : (yieldPlace slot t).contents k = t.contents k := by
  unfold yieldPlace
  split
  · rfl
  · unfold Store.contents
    rw [List.find?_filter]
    congr 2
    funext p
    by_cases hp : p.key = k
    · simp [hp, hk]
    · simp [hp]

theorem yieldPlace_hasPlace {k : EntryKey} (hk : k ≠ .cred slot) : (yieldPlace slot t).hasPlace k = t.hasPlace k := by
  unfold yieldPlace
  split
  · rfl
  · unfold Store.hasPlace
    rw [List.any_filter]
    congr 1
    funext p
    by_cases hp : p.key = k
    · simp [hp, hk]
    · simp [hp]

/-- The queue has no place of the slot's record, unless it held the serial. -/
theorem yieldPlace_cred (h : t.hasPlace .serial = false ∨ t.hasPlace (.cred slot) = false) :
    (yieldPlace slot t).hasPlace (.cred slot) = false := by
  unfold yieldPlace
  split
  · next hs => exact h.resolve_left (by simp [hs])
  · simp [Store.hasPlace]

theorem yieldPlace_canQueue (h : t.canQueue [.serial, .cred slot] 0 = true) :
    (yieldPlace slot t).canQueue [.serial, .cred slot] 0 = true := by
  by_cases hs : t.hasPlace .serial = true
  · rwa [yieldPlace, if_pos hs]
  · have hs' : t.hasPlace .serial = false := by simpa using hs
    have hdup : [EntryKey.serial, .cred slot].dedup = [.serial, .cred slot] := by simp
    have hy : (yieldPlace slot t).queue = t.queue.filter fun p => decide (p.key ≠ .cred slot) := by
      unfold yieldPlace; rw [if_neg hs]
    rw [canQueue_iff, hdup] at h ⊢
    rw [List.filter_cons_of_pos (by simp [hs'])] at h
    rw [List.filter_cons_of_pos (by rw [yieldPlace_hasPlace (by simp), hs']; rfl),
      List.filter_cons_of_pos (by rw [yieldPlace_cred (.inl hs')]; rfl), hy]
    by_cases hc : t.hasPlace (.cred slot) = true
    · rw [List.filter_cons_of_neg (by simp [hc])] at h
      obtain ⟨p, hp, hk⟩ := (t.hasPlace_iff _).mp hc
      have : (t.queue.filter fun p => decide (p.key ≠ .cred slot)).length < t.queue.length :=
        List.length_filter_lt_length_iff_exists.mpr ⟨p, hp, by simp [hk]⟩
      simp only [List.filter_nil, List.length_cons, List.length_nil] at h ⊢
      omega
    · rw [List.filter_cons_of_pos (by simpa using hc)] at h
      have := List.length_filter_le (fun p : ChangePlace => decide (p.key ≠ .cred slot)) t.queue
      simp only [List.filter_nil, List.length_cons, List.length_nil] at h ⊢
      omega

/-- An entry queued behind the serial is programmed after it. -/
theorem serialAhead_keys {s : State} {front back : List EntryKey} (hq : s.store.queue.map ChangePlace.key = front ++ .serial :: back)
    (hc : .cred slot ∈ back) : serialAhead slot s := by
  obtain ⟨f, r, hqueue, rfl, hr⟩ := List.map_eq_append_iff.mp hq
  obtain ⟨p, b, rfl, hp, rfl⟩ := List.map_eq_cons_iff.mp hr
  obtain ⟨q, hq, hk⟩ := List.mem_map.mp hc
  exact ⟨f, b, p, hqueue, hp, q, hq, hk⟩

end

/-! ### The state an accepted ISSUE leaves -/

section
variable {s : State} {slot : Nat} {r : CredRec} {m : IssueMode}

/-- The state as the serial takes its place. -/
def State.serialTaken (s : State) (slot : Nat) (r : CredRec) : State :=
  (s.onCred fun c => { c with serial := r.number }).onStore (yieldPlace slot)

/-- The state as the record takes its place. -/
def State.recordMade (s : State) (slot : Nat) (r : CredRec) : State :=
  (enqueue .serial (s.serialTaken slot r)).onCred fun c => { c with slots := c.slots.put slot r }

theorem acceptIssue_eq : acceptIssue m slot r s =
    (enqueue (.cred slot) (s.recordMade slot r)).onEnc fun e => { e with job := some (.issue m r.number slot) } := rfl

theorem alters_yieldPlace {u : State} (h : alters [.serial, .cred slot] [.cred, .enc] [] s u) :
    alters [.serial, .cred slot] [.cred, .enc] [] s (u.onStore (yieldPlace slot)) := by
  refine h.trans ⟨?_, fun k hk => ⟨?_, ?_⟩, Link.posts_refl _ _, keepsBut_mono (by simp) (keepsBut_onStore _)⟩
  · have rest := yieldPlace_rest slot u.store
    constructor <;> (show _ = _; rw [State.onStore_store, rest])
  · exact yieldPlace_other fun e => hk (by simp [e])
  · show k ∈ (yieldPlace slot u.store).waiting ↔ _
    rw [yieldPlace_rest]

theorem acceptIssue_alters : alters [.serial, .cred slot] [.cred, .enc] [] s (acceptIssue m slot r s) := by
  rw [acceptIssue_eq, State.recordMade, State.serialTaken]
  exact ((((alters_yieldPlace ((alters.refl _ _ _ s).onCred _)).enqueue _).onCred _).enqueue _).onEnc _

theorem recordMade_canQueue (hq : s.store.canQueue [.serial, .cred slot] 0 = true) :
    (s.serialTaken slot r).store.canQueue [.serial, .cred slot] 0 = true ∧
      (s.recordMade slot r).store.canQueue [.cred slot] 0 = true := by
  have first : (s.serialTaken slot r).store.canQueue [.serial, .cred slot] 0 = true := yieldPlace_canQueue hq
  exact ⟨first, canQueue_enqueue (keys := [.serial, .cred slot]) first (by simp) (by simp)⟩

theorem acceptIssue_placed (hq : s.store.canQueue [.serial, .cred slot] 0 = true) :
    placed [.serial, .cred slot] (acceptIssue m slot r s) := by
  obtain ⟨hq₁, hq₂⟩ := recordMade_canQueue (r := r) hq
  have record : placed [.cred slot] (enqueue (.cred slot) (s.recordMade slot r)) :=
    placed_enqueue (canQueue_roomFor hq₂ (by simp))
  intro k hk
  rcases List.mem_cons.mp hk with rfl | hk
  · have serial : (acceptIssue m slot r s).store.contents .serial = (s.recordMade slot r).store.contents .serial :=
      enqueue_contents_other (k := .cred slot) (j := .serial) _ (h := by simp)
    have placed := enqueue_contents_self (k := .serial) (s := s.serialTaken slot r) (canQueue_roomFor hq₁ (by simp))
    exact serial.trans placed
  · exact record k hk

theorem recordMade_hasPlace (hq : s.store.canQueue [.serial, .cred slot] 0 = true)
    (h : s.store.hasPlace .serial = false ∨ s.store.hasPlace (.cred slot) = false) :
    (s.recordMade slot r).store.hasPlace .serial = true ∧ (s.recordMade slot r).store.hasPlace (.cred slot) = false := by
  refine ⟨offerChange_hasPlace_self (canQueue_roomFor (recordMade_canQueue (r := r) hq).1 (by simp)) _, ?_⟩
  rw [Bool.eq_false_iff]
  intro hc
  rcases offerChange_hasPlace (yieldPlace slot s.store) .serial (.cred slot) _ hc with h' | h'
  · rw [yieldPlace_cred h] at h'; cases h'
  · cases h'

/-- The serial goes ahead of the record, where either had no place (R23). -/
theorem acceptIssue_ahead (hq : s.store.canQueue [.serial, .cred slot] 0 = true)
    (h : s.store.hasPlace .serial = false ∨ s.store.hasPlace (.cred slot) = false) (lines : List RLine) (tag : List (Fin 10)) :
    serialAhead slot (finish (placeReply tag lines (acceptIssue m slot r s))) := by
  obtain ⟨hs, hc⟩ := recordMade_hasPlace (r := r) hq h
  obtain ⟨p, hp, hk⟩ := (Store.hasPlace_iff _ _).mp hs
  obtain ⟨front, back, split⟩ := List.append_of_mem hp
  have queue : (acceptIssue m slot r s).store.queue.map ChangePlace.key =
      (s.recordMade slot r).store.queue.map ChangePlace.key ++ [.cred slot] := by
    have room := (canQueue_roomFor (recordMade_canQueue (r := r) hq).2 (List.mem_singleton.mpr rfl)).resolve_left (by simp [hc])
    show (((s.recordMade slot r).store.offerChange (.cred slot) _).queue.map ChangePlace.key) = _
    unfold Store.offerChange
    rw [if_neg (by simp [hc]), if_pos room]
    simp
  have kept : (finish (placeReply tag lines (acceptIssue m slot r s))).store.queue.map ChangePlace.key =
      (acceptIssue m slot r s).store.queue.map ChangePlace.key := by
    have := congrArg (List.map Prod.fst) (finish_keeps (placeReply tag lines (acceptIssue m slot r s))).places
    simpa [Function.comp_def] using this
  refine serialAhead_keys (front := front.map ChangePlace.key) (back := back.map ChangePlace.key ++ [.cred slot]) ?_ (by simp)
  rw [kept, queue, split]
  simp [hk]

theorem hasPlace_eq_false {t : Store} {k : EntryKey} (h : ∀ p ∈ t.queue, p.key ≠ k) : t.hasPlace k = false := by
  rw [Bool.eq_false_iff]
  intro hp
  obtain ⟨p, hp, hk⟩ := (t.hasPlace_iff k).mp hp
  exact h p hp hk

/-- An accepted ISSUE as its reply tells it. -/
theorem acceptIssue_issued {h : ReqHead} (hq : s.store.canQueue [.serial, .cred slot] 0 = true) :
    issuedAs h m slot r (if r.kind = .guest then some r.issue else none) s
      (finish (placeReply h.tag [issuedLine slot r] (acceptIssue m slot r s))) := by
  refine ⟨?_, ?_, placed_finish (acceptIssue_placed hq), fun hp => ?_, acceptIssue_alters.answersOnly h _⟩
  · simp [acceptIssue]
  · simp [acceptIssue, Job.issue]
  · exact acceptIssue_ahead hq (hp.imp hasPlace_eq_false hasPlace_eq_false) _ _

end

end Sys2Proof.Machine

/-! ## The slot an ISSUE takes (R25), and its modes -/

namespace Sys2Proof.Machine

set_option Elab.async false

/-! ### The lowest-numbered FREE slot -/

theorem le_firstGap {α : Type} (m : FMap α) (k : Nat) : k ≤ firstGap k m := by
  induction m generalizing k with
  | nil => exact le_rfl
  | cons e m ih =>
    unfold firstGap
    split
    · exact (Nat.le_succ k).trans (ih (k + 1))
    · exact le_rfl

/-- Every number from the start up to the gap is a key, and the gap is none. -/
theorem firstGap_spec {α : Type} {m : FMap α} (hwf : m.wf) (k : Nat) (hk : ∀ e ∈ m, k ≤ e.1) :
    (∀ v, (firstGap k m, v) ∉ m) ∧ ∀ j, k ≤ j → j < firstGap k m → ∃ v, (j, v) ∈ m := by
  induction m generalizing k with
  | nil => exact ⟨fun v => by simp, fun j h h' => absurd h' (by unfold firstGap; omega)⟩
  | cons e m ih =>
    have later : ∀ x ∈ m, e.1 < x.1 := (List.pairwise_cons.mp hwf).1
    unfold firstGap
    by_cases he : e.1 = k
    · rw [if_pos he]
      obtain ⟨free, filled⟩ := ih hwf.of_cons (k + 1) fun x hx => by have := later x hx; omega
      have past := le_firstGap m (k + 1)
      refine ⟨fun v hv => ?_, fun j hj hj' => ?_⟩
      · rcases List.mem_cons.mp hv with h | h
        · have : firstGap (k + 1) m = e.1 := congrArg Prod.fst h
          omega
        · exact free v h
      · rcases Nat.eq_or_lt_of_le hj with rfl | hlt
        · exact ⟨e.2, by rw [← he]; simp⟩
        · obtain ⟨v, hv⟩ := filled j hlt hj'
          exact ⟨v, by simp [hv]⟩
    · rw [if_neg he]
      have := hk e (by simp)
      refine ⟨fun v hv => ?_, fun j hj hj' => absurd hj' (by omega)⟩
      rcases List.mem_cons.mp hv with h | h
      · exact he (congrArg Prod.fst h).symm
      · have := later _ h
        dsimp only at this
        omega

section
variable {m : FMap CredRec}

theorem get_isSome_iff (hwf : m.wf) (k : Nat) : (m.get k).isSome = true ↔ ∃ v, (k, v) ∈ m := by
  constructor
  · intro h
    obtain ⟨v, hv⟩ := Option.isSome_iff_exists.mp h
    exact ⟨v, FMap.mem_of_get hv⟩
  · rintro ⟨v, hv⟩
    rw [FMap.get_of_mem hwf hv]
    rfl

theorem firstGap_free (hwf : m.wf) : m.get (firstGap 0 m) = none := by
  rw [← Option.not_isSome_iff_eq_none, get_isSome_iff hwf]
  rintro ⟨v, hv⟩
  exact (firstGap_spec hwf 0 fun _ _ => Nat.zero_le _).1 v hv

theorem firstGap_filled (hwf : m.wf) {j : Nat} (hj : j < firstGap 0 m) : (m.get j).isSome = true :=
  (get_isSome_iff hwf j).mpr ((firstGap_spec hwf 0 fun _ _ => Nat.zero_le _).2 j (Nat.zero_le _) hj)

theorem firstGap_le (hwf : m.wf) {j : Nat} (hj : m.get j = none) : firstGap 0 m ≤ j := by
  by_contra hlt
  have := firstGap_filled hwf (Nat.lt_of_not_le hlt)
  rw [hj] at this
  cases this

end

/-! ### The reusable record of earliest expiry -/

theorem endEarlier_trans {a b c : EndMinute} (h : endEarlier a b = true) (g : endEarlier b c = true) : endEarlier a c = true := by
  cases a <;> cases b <;> cases c <;> simp_all [endEarlier]
  omega

theorem endEarlier_of_not {a b c : EndMinute} (h : endEarlier a b = true) (g : endEarlier c b = false) :
    endEarlier a c = true := by
  cases a <;> cases b <;> cases c <;> simp_all [endEarlier]
  omega

/-- The first of the earliest of a list, found as R25 has it. -/
def earliest {β : Type} (f : β → EndMinute) (e : β) (l : List β) : β :=
  l.foldl (fun m x => if endEarlier (f x) (f m) then x else m) e

theorem earliest_spec {β : Type} (f : β → EndMinute) (e : β) (l : List β) :
    ∃ front back, e :: l = front ++ earliest f e l :: back ∧
      (∀ x ∈ front, endEarlier (f (earliest f e l)) (f x) = true) ∧
      ∀ x ∈ e :: l, endEarlier (f x) (f (earliest f e l)) = false := by
  induction l generalizing e with
  | nil => exact ⟨[], [], rfl, by simp, fun x hx => by rw [List.mem_singleton.mp hx]; exact endEarlier_irrefl _⟩
  | cons y l ih =>
    by_cases hy : endEarlier (f y) (f e) = true
    · have step : earliest f e (y :: l) = earliest f y l := by simp [earliest, hy]
      obtain ⟨front, back, split, before, all⟩ := ih y
      rw [step]
      have first : endEarlier (f (earliest f y l)) (f e) = true := by
        cases front with
        | nil => rw [← (List.cons.inj split).1]; exact hy
        | cons z front =>
          have hz : z = y := (List.cons.inj split).1.symm
          exact endEarlier_trans (before z (by simp)) (hz ▸ hy)
      refine ⟨e :: front, back, by rw [split]; rfl, fun x hx => ?_, fun x hx => ?_⟩
      · rcases List.mem_cons.mp hx with rfl | hx
        · exact first
        · exact before x hx
      · rcases List.mem_cons.mp hx with rfl | hx
        · exact endEarlier_asymm first
        · exact all x hx
    · have hy' : endEarlier (f y) (f e) = false := by simpa using hy
      have step : earliest f e (y :: l) = earliest f e l := by simp [earliest, hy']
      obtain ⟨front, back, split, before, all⟩ := ih e
      rw [step]
      cases front with
      | nil =>
        obtain ⟨he, -⟩ := List.cons.inj split
        refine ⟨[], y :: l, by rw [← he]; rfl, by simp, fun x hx => ?_⟩
        rcases List.mem_cons.mp hx with rfl | hx
        · exact all x (by simp)
        · rcases List.mem_cons.mp hx with rfl | hx
          · rw [← he]; exact hy'
          · exact all x (by simp [hx])
      | cons z front =>
        obtain ⟨rfl, hl⟩ := List.cons.inj split
        have second : endEarlier (f (earliest f e l)) (f y) = true := endEarlier_of_not (before e (by simp)) hy'
        refine ⟨e :: y :: front, back, congrArg (e :: y :: ·) hl, fun x hx => ?_, fun x hx => ?_⟩
        · rcases List.mem_cons.mp hx with rfl | hx
          · exact before x (by simp)
          · rcases List.mem_cons.mp hx with rfl | hx
            · exact second
            · exact before x (by simp [hx])
        · rcases List.mem_cons.mp hx with rfl | hx
          · exact all x (by simp)
          · rcases List.mem_cons.mp hx with rfl | hx
            · exact endEarlier_asymm second
            · exact all x (by simp [hx])

section
variable {s : State} {slot : Nat}

theorem reusable_iff (c : CredState) : c.reusable = true ↔ c = .lapsed ∨ c = .superseded ∨ c = .revoked := by
  cases c <;> simp [CredState.reusable]

/-- With a slot FREE an ISSUE takes the lowest-numbered one. -/
theorem issueSlot_free (hwf : s.cred.slots.wf) (hslot : s.issueSlot = some slot)
    (hfree : ∃ j, j < 2048 ∧ s.cred.slots.get j = none) :
    slot < 2048 ∧ s.cred.slots.get slot = none ∧ ∀ j, j < slot → (s.cred.slots.get j).isSome = true := by
  obtain ⟨j, hj, hn⟩ := hfree
  have hlt : firstGap 0 s.cred.slots < Config.credSlots := (firstGap_le hwf hn).trans_lt hj
  unfold State.issueSlot at hslot
  rw [if_pos hlt] at hslot
  obtain rfl := Option.some.inj hslot
  exact ⟨hlt, firstGap_free hwf, fun j hj => firstGap_filled hwf hj⟩

/-- With none FREE it takes that of the reusable record of earliest expiry. -/
theorem issueSlot_reused (hwf : s.cred.slots.wf) (hslot : s.issueSlot = some slot)
    (hfull : ∀ j, j < 2048 → (s.cred.slots.get j).isSome = true) : ∃ r, s.cred.slots.get slot = some r ∧
      (r.state = .lapsed ∨ r.state = .superseded ∨ r.state = .revoked) ∧
      ∀ k q, s.cred.slots.get k = some q → (q.state = .lapsed ∨ q.state = .superseded ∨ q.state = .revoked) →
        endEarlier (s.expiry q) (s.expiry r) = false ∧ (s.expiry q = s.expiry r → slot ≤ k) := by
  have hge : ¬ firstGap 0 s.cred.slots < Config.credSlots := fun hlt => by
    have := hfull _ hlt
    rw [firstGap_free hwf] at this
    cases this
  have hsub : FMap.wf (s.cred.slots.filter fun e => e.2.state.reusable) := hwf.filter _
  unfold State.issueSlot State.reusableSlot at hslot
  rw [if_neg hge] at hslot
  cases hl : s.cred.slots.filter fun e => e.2.state.reusable with
  | nil => rw [hl] at hslot; cases hslot
  | cons e l =>
    rw [hl] at hslot hsub
    obtain ⟨front, back, split, before, all⟩ := earliest_spec (fun x : Nat × CredRec => s.expiry x.2) e l
    have hm : (earliest (fun x : Nat × CredRec => s.expiry x.2) e l).1 = slot := Option.some.inj hslot
    have member : ∀ x, x ∈ e :: l ↔ x ∈ s.cred.slots ∧ x.2.state.reusable = true := fun x => by
      rw [← hl, List.mem_filter]
    obtain ⟨hin, hre⟩ := (member (earliest (fun x : Nat × CredRec => s.expiry x.2) e l)).mp (by
      rw [split]; exact List.mem_append_right front (List.mem_cons_self ..))
    refine ⟨(earliest (fun x : Nat × CredRec => s.expiry x.2) e l).2, ?_, (reusable_iff _).mp hre, fun k q hq hs => ?_⟩
    · rw [← hm]; exact FMap.get_of_mem hwf hin
    · have hkq := (member (k, q)).mpr ⟨FMap.mem_of_get hq, (reusable_iff _).mpr hs⟩
      refine ⟨all _ hkq, fun heq => ?_⟩
      rw [split] at hkq hsub
      rcases List.mem_append.mp hkq with h | h
      · have := before _ h
        rw [show s.expiry q = s.expiry _ from heq, endEarlier_irrefl] at this
        cases this
      · rcases List.mem_cons.mp h with h | h
        · rw [← hm, ← h]
        · have := (List.pairwise_cons.mp (List.pairwise_append.mp hsub).2.1).1 _ h
          rw [← hm]
          exact Nat.le_of_lt this

/-! ### The modes -/

/-- An ISSUE whose fields are sound and whose mode refuses nothing is accepted. -/
theorem issueAccepted {h : ReqHead} {m : IssueMode} {f : IssueFields} (hacc : accepts h s) (ready : s.readyToIssue slot)
    (fields : s.issueFieldFault m f = false) (room : (modeGuest m && s.noRoom f.room) = false)
    (mode : s.modeRefusal m f = none) :
    ∃ t, exec (.issue h (.given m) f.room f.validFrom f.validUntil f.groups f.window f.minibar) s = .next t ∧
      issuedAs h m slot (s.issueRecord m f)
        (if (s.issueRecord m f).kind = .guest then some (s.issueRecord m f).issue else none) s t := by
  refine ⟨_, desk_reply hacc (u := acceptIssue m slot (s.issueRecord m f) s) (lines := [issuedLine slot (s.issueRecord m f)]) ?_,
    acceptIssue_issued ready.places⟩
  have commissioned : s.store.identity.isNone = false := by simpa using ready.commissioned
  have serial : ¬ max32 ≤ s.cred.serial := Nat.not_le.mpr ready.serial
  simp only [argGet_given, fields, issueTests, commissioned, ready.clock, ready.idle, room, mode, ready.writable, serial,
    ready.slot, ready.places]
  rfl

/-- The end of validity an ISSUE may carry. -/
def untilFits (guest : Bool) (frm now : Nat) (until' : Arg EndMinute) : Prop :=
  badUntil guest until' = false ∧ endBy frm (argOr until' none) = false ∧ endBy now (argOr until' none) = false

theorem untilFits_given {guest : Bool} {frm now u : Nat} (hu : u ≤ maxMinute) (hf : frm < u) (hn : now < u) :
    untilFits guest frm now (.given (some u)) := by
  simp [untilFits, badUntil, endBy, hu, hf, hn]

theorem untilFits_open {frm now : Nat} {until' : Arg EndMinute} (h : until' = .absent ∨ until' = .given none ∨
    ∃ u, until' = .given (some u) ∧ u ≤ maxMinute ∧ frm < u ∧ now < u) : untilFits false frm now until' := by
  rcases h with rfl | rfl | ⟨u, rfl, hu, hf, hn⟩
  · exact ⟨rfl, rfl, rfl⟩
  · exact ⟨rfl, rfl, rfl⟩
  · exact untilFits_given hu hf hn

section
variable {frm : Nat} {from' : Arg Nat}

theorem issueFrom_eq (hfrom : from' = .given frm ∨ (from' = .absent ∧ frm = s.clock.minute)) {f : IssueFields}
    (hf : f.validFrom = from') : s.issueFrom f = frm := by
  unfold State.issueFrom
  rw [hf]
  rcases hfrom with rfl | ⟨rfl, rfl⟩ <;> rfl

theorem fromFits (hfrm : frm ≤ maxMinute) (hfrom : from' = .given frm ∨ (from' = .absent ∧ frm = s.clock.minute)) :
    badOpt from' 0 maxMinute = false := by
  rcases hfrom with rfl | ⟨rfl, -⟩
  · exact badOpt_given (Nat.zero_le _) hfrm
  · rfl

/-- The fields of a GUEST mode. -/
theorem guestFields {m : IssueMode} (hm : modeGuest m = true) (hk : modeMasked m = false) (hfrm : frm ≤ maxMinute)
    (hfrom : from' = .given frm ∨ (from' = .absent ∧ frm = s.clock.minute)) {i u : Nat} {bar : Arg Bool} (hi : i ≤ 511)
    (hu : u ≤ maxMinute) (hf : frm < u) (hn : s.clock.minute < u) (hbar : bar ≠ .malformed) :
    s.issueFieldFault m ⟨.given i, from', .given (some u), .absent, .absent, bar⟩ = false := by
  obtain ⟨h1, h2, h3⟩ := untilFits_given (guest := true) hu hf hn
  unfold State.issueFieldFault notLater issueUntil
  rw [issueFrom_eq hfrom rfl, hm, hk]
  simp [badRoom_eq_false hi, fromFits hfrm hfrom, h1, h2, h3, argMalformed_eq_false hbar, -argOr_given]

/-- The fields of a mode that names no room. -/
theorem staffFields {m : IssueMode} (hm : modeGuest m = false) (hfrm : frm ≤ maxMinute)
    (hfrom : from' = .given frm ∨ (from' = .absent ∧ frm = s.clock.minute)) {until' : Arg EndMinute}
    (hu : untilFits false frm s.clock.minute until') {groups : Arg (List Nat)} {window : Arg (Nat × Nat)}
    (hmask : (if modeMasked m then badSet groups || badWindow window else argSent groups || argSent window) = false) :
    s.issueFieldFault m ⟨.absent, from', until', groups, window, .absent⟩ = false := by
  obtain ⟨h1, h2, h3⟩ := hu
  unfold State.issueFieldFault notLater issueUntil
  rw [issueFrom_eq hfrom rfl, hmask, hm]
  simp [fromFits hfrm hfrom, h1, h2, h3]

end

theorem modeRefusal_extraKey {f : IssueFields}
    (hex : ∃ e ∈ s.activeGuests (argNat f.room), e.2.issue = s.currentIssue (argNat f.room))
    (hlen : (s.activeGuests (argNat f.room)).length < 8)
    (hend : endBy (s.issueFrom f) (s.appliedUntil .extraKey f) = false) : s.modeRefusal .extraKey f = none := by
  unfold State.modeRefusal
  dsimp only
  rw [if_neg (by simpa using hex), if_neg (Nat.not_le.mpr hlen), if_neg (by simp [notLater, hend])]

/-- Settles O25: one acceptance for the five modes (`issueAccepted`), and the slot by `firstGap_spec` and
`earliest_spec`. -/
theorem issueIsAccepted : Obligations.IssueIsAccepted := by
  intro h s slot frm from' hacc ready hfrm hfrom
  refine ⟨fun i u x bar hi hx hissue hu hf hn hbar => ?_, fun i u x bar hi hx hu hf hn hbar hex hlen hend => ?_,
    fun m k until' groups window hm hu hgroups hwindow => ?_, fun until' hu => ?_,
    fun hwf hfree => issueSlot_free hwf ready.slot hfree, fun hwf hfull => issueSlot_reused hwf ready.slot hfull⟩
  · have issue : s.currentIssue i = x.entry.issue := currentIssue_of hx
    have accepted := issueAccepted (m := .newStay) (f := ⟨.given i, from', .given (some u), .absent, .absent, bar⟩) hacc ready
      (guestFields rfl rfl hfrm hfrom hi hu hf hn hbar) (noRoom_eq_false hx)
      (by
        unfold State.modeRefusal
        simp only [argNat_given, issue]
        exact if_neg (Nat.not_le.mpr hissue))
    have record : s.issueRecord .newStay ⟨.given i, from', .given (some u), .absent, .absent, bar⟩ =
        ⟨s.cred.serial + 1, .guest, .pending, i, x.entry.issue + 1, frm, some u, 0, 0, 0, argOr bar false, none, 0⟩ := by
      unfold State.issueRecord
      rw [issueFrom_eq hfrom rfl]
      simp [modeKind, modeGuest, modeMasked, issue, State.appliedUntil, issueUntil]
    rw [record] at accepted
    exact accepted
  · have issue : s.currentIssue i = x.entry.issue := currentIssue_of hx
    have accepted := issueAccepted (m := .extraKey) (f := ⟨.given i, from', .given (some u), .absent, .absent, bar⟩) hacc ready
      (guestFields rfl rfl hfrm hfrom hi hu hf hn hbar) (noRoom_eq_false hx)
      (modeRefusal_extraKey (by rw [argNat_given, issue]; exact hex) hlen
        (by rw [issueFrom_eq hfrom rfl]; simpa [State.appliedUntil, issueUntil] using hend))
    have record : s.issueRecord .extraKey ⟨.given i, from', .given (some u), .absent, .absent, bar⟩ =
        ⟨s.cred.serial + 1, .guest, .pending, i, x.entry.issue, frm, s.extraUntil i (some u), 0, 0, 0, argOr bar false, none,
          0⟩ := by
      unfold State.issueRecord
      rw [issueFrom_eq hfrom rfl]
      simp [modeKind, modeGuest, modeMasked, issue, State.appliedUntil, issueUntil]
    rw [record] at accepted
    exact accepted
  · have kinds : modeGuest m = false ∧ modeMasked m = true ∧ modeKind m = k ∧ m ≠ .extraKey ∧ k ≠ .guest ∧
        s.modeRefusal m ⟨.absent, from', until', groups, window, .absent⟩ = none := by
      rcases hm with ⟨rfl, rfl⟩ | ⟨rfl, rfl⟩ <;> exact ⟨rfl, rfl, rfl, by simp, by simp, rfl⟩
    obtain ⟨guest, masked, kind, extra, named, refusal⟩ := kinds
    have accepted := issueAccepted (f := ⟨.absent, from', until', groups, window, .absent⟩) hacc ready
      (staffFields guest hfrm hfrom (untilFits_open hu) (by rw [if_pos masked, hgroups, hwindow]; rfl))
      (by rw [guest]; rfl) refusal
    have record : s.issueRecord m ⟨.absent, from', until', groups, window, .absent⟩ =
        ⟨s.cred.serial + 1, k, .pending, 0, 0, frm, argOr until' none, groupsOf (argOr groups []),
          (argOr window (0, 0)).1, (argOr window (0, 0)).2, false, none, 0⟩ := by
      unfold State.issueRecord
      rw [issueFrom_eq hfrom rfl]
      rcases hm with ⟨rfl, rfl⟩ | ⟨rfl, rfl⟩ <;>
        simp [modeKind, modeGuest, modeMasked, State.appliedUntil, issueUntil]
    rw [record, if_neg named] at accepted
    exact accepted
  · have accepted := issueAccepted (m := .master) (f := ⟨.absent, from', until', .absent, .absent, .absent⟩) hacc ready
      (staffFields rfl hfrm hfrom (untilFits_open hu) rfl) rfl rfl
    have record : s.issueRecord .master ⟨.absent, from', until', .absent, .absent, .absent⟩ =
        ⟨s.cred.serial + 1, .master, .pending, 0, 0, frm, argOr until' none, 0, 0, 0, false, none, 0⟩ := by
      unfold State.issueRecord
      rw [issueFrom_eq hfrom rfl]
      simp [modeKind, modeGuest, modeMasked, State.appliedUntil, issueUntil]
    rw [record] at accepted
    exact accepted

end

end Sys2Proof.Machine

/-! ## The bytes of a card image (R195) -/

namespace Sys2Proof.Machine

set_option Elab.async false

section
variable {b l r : List Byte} {off len n m v : Nat}

theorem leBytes_length (k n : Nat) : (leBytes k n).length = k := by
  induction k generalizing n with
  | zero => rfl
  | succ k ih => simp [leBytes, ih]

theorem leBytes_get {k i : Nat} (n : Nat) (h : i < k) : (leBytes k n)[i]? = some (BitVec.ofNat 8 (n / 256 ^ i)) := by
  induction k generalizing n i with
  | zero => cases h
  | succ k ih =>
    cases i with
    | zero => simp [leBytes]
    | succ i =>
      have step := ih (n / 256) (Nat.lt_of_succ_lt_succ h)
      rw [Nat.div_div_eq_div_mul, ← Nat.pow_succ'] at step
      simpa [leBytes] using step

/-- A number stands where its bytes do. -/
theorem holdsAt_here (len n : Nat) (r : List Byte) : holdsAt (leBytes len n ++ r) 0 len n := by
  intro k hk
  rw [Nat.zero_add, List.getElem?_append_left (by rw [leBytes_length]; exact hk)]
  exact leBytes_get n hk

/-- A number stands behind what is ahead of it. -/
theorem holdsAt_behind (h : l.length ≤ off) (g : holdsAt r (off - l.length) len n) : holdsAt (l ++ r) off len n := by
  intro k hk
  have := g k hk
  rw [List.getElem?_append_right (by omega), ← this]
  congr 1
  omega

/-- A number stands behind a field ahead of it. -/
theorem holdsAt_skip (h : m ≤ off) (g : holdsAt r (off - m) len n) : holdsAt (leBytes m v ++ r) off len n :=
  holdsAt_behind (by rw [leBytes_length]; exact h) (by rw [leBytes_length]; exact g)

/-! ### The header, the entries and the check -/

/-- Bytes 0 to 51. -/
def imageHeader (f : ImageFields) : List Byte :=
  leBytes 1 f.version ++ leBytes 1 f.kind ++ leBytes 1 f.flags ++ leBytes 1 f.entries.length ++
  leBytes 4 f.site ++ leBytes 4 f.number ++ leBytes 2 f.label ++ leBytes 2 f.room ++
  leBytes 2 f.issue ++ leBytes 2 f.mask ++ leBytes 4 f.validFrom ++ leBytes 4 f.validUntil ++
  leBytes 2 f.winStart ++ leBytes 2 f.winEnd ++ leBytes 4 f.encodeMinute ++ leBytes 2 f.grace ++
  List.replicate 14 0

theorem imageHeader_length (f : ImageFields) : (imageHeader f).length = 52 := by
  simp [imageHeader, leBytes_length]

theorem entryBytes_length (es : List (Nat × Nat)) : (entryBytes es).length = 72 := by
  simp [entryBytes]

theorem imageBody_eq (f : ImageFields) : imageBody f = imageHeader f ++ entryBytes f.entries := rfl

theorem imageBody_length (f : ImageFields) : (imageBody f).length = 124 := by
  rw [imageBody_eq, List.length_append, imageHeader_length, entryBytes_length]

theorem imageBytes_length (seed : Nat) (f : ImageFields) : (imageBytes seed f).length = 128 := by
  rw [imageBytes, List.length_append, imageBody_length, leBytes_length]

theorem imageBytes_take (seed : Nat) (f : ImageFields) : (imageBytes seed f).take 124 = imageBody f :=
  List.take_left' (imageBody_length f)

/-- The image, a field at a time. -/
theorem imageBytes_fields (seed : Nat) (f : ImageFields) : imageBytes seed f =
    leBytes 1 f.version ++ (leBytes 1 f.kind ++ (leBytes 1 f.flags ++ (leBytes 1 f.entries.length ++
    (leBytes 4 f.site ++ (leBytes 4 f.number ++ (leBytes 2 f.label ++ (leBytes 2 f.room ++
    (leBytes 2 f.issue ++ (leBytes 2 f.mask ++ (leBytes 4 f.validFrom ++ (leBytes 4 f.validUntil ++
    (leBytes 2 f.winStart ++ (leBytes 2 f.winEnd ++ (leBytes 4 f.encodeMinute ++ (leBytes 2 f.grace ++
    (List.replicate 14 0 ++ (entryBytes f.entries ++ leBytes 4 (cardCheck seed (imageBody f)).toNat))))))))))))))))) := by
  rw [imageBytes, imageBody_eq, imageHeader]
  simp only [List.append_assoc]

/-- The number each field of the header holds, by its place. -/
structure headerHolds (f : ImageFields) (b : List Byte) : Prop where
  version : holdsAt b 0 1 f.version
  kind : holdsAt b 1 1 f.kind
  flags : holdsAt b 2 1 f.flags
  count : holdsAt b 3 1 f.entries.length
  site : holdsAt b 4 4 f.site
  number : holdsAt b 8 4 f.number
  label : holdsAt b 12 2 f.label
  room : holdsAt b 14 2 f.room
  issue : holdsAt b 16 2 f.issue
  mask : holdsAt b 18 2 f.mask
  validFrom : holdsAt b 20 4 f.validFrom
  validUntil : holdsAt b 24 4 f.validUntil
  winStart : holdsAt b 28 2 f.winStart
  winEnd : holdsAt b 30 2 f.winEnd
  minute : holdsAt b 32 4 f.encodeMinute
  grace : holdsAt b 36 2 f.grace

theorem imageBytes_header (seed : Nat) (f : ImageFields) : headerHolds f (imageBytes seed f) := by
  rw [imageBytes_fields]
  constructor
  · exact holdsAt_here _ _ _
  · iterate 1 refine holdsAt_skip (by decide) ?_
    exact holdsAt_here _ _ _
  · iterate 2 refine holdsAt_skip (by decide) ?_
    exact holdsAt_here _ _ _
  · iterate 3 refine holdsAt_skip (by decide) ?_
    exact holdsAt_here _ _ _
  · iterate 4 refine holdsAt_skip (by decide) ?_
    exact holdsAt_here _ _ _
  · iterate 5 refine holdsAt_skip (by decide) ?_
    exact holdsAt_here _ _ _
  · iterate 6 refine holdsAt_skip (by decide) ?_
    exact holdsAt_here _ _ _
  · iterate 7 refine holdsAt_skip (by decide) ?_
    exact holdsAt_here _ _ _
  · iterate 8 refine holdsAt_skip (by decide) ?_
    exact holdsAt_here _ _ _
  · iterate 9 refine holdsAt_skip (by decide) ?_
    exact holdsAt_here _ _ _
  · iterate 10 refine holdsAt_skip (by decide) ?_
    exact holdsAt_here _ _ _
  · iterate 11 refine holdsAt_skip (by decide) ?_
    exact holdsAt_here _ _ _
  · iterate 12 refine holdsAt_skip (by decide) ?_
    exact holdsAt_here _ _ _
  · iterate 13 refine holdsAt_skip (by decide) ?_
    exact holdsAt_here _ _ _
  · iterate 14 refine holdsAt_skip (by decide) ?_
    exact holdsAt_here _ _ _
  · iterate 15 refine holdsAt_skip (by decide) ?_
    exact holdsAt_here _ _ _

theorem imageBytes_fill (seed : Nat) (f : ImageFields) {k : Nat} (h : 38 ≤ k) (h' : k < 52) :
    (imageBytes seed f)[k]? = some 0 := by
  have header : (imageHeader f)[k]? = some 0 := by
    unfold imageHeader
    rw [List.getElem?_append_right (by simp [leBytes_length]; omega), List.getElem?_replicate,
      if_pos (by simp [leBytes_length]; omega)]
  rw [imageBytes, imageBody_eq, List.append_assoc, List.getElem?_append_left (by rw [imageHeader_length]; exact h'), header]

theorem imageBytes_check (seed : Nat) (f : ImageFields) :
    holdsAt (imageBytes seed f) 124 4 (cardCheck seed ((imageBytes seed f).take 124)).toNat := by
  rw [imageBytes_take, imageBytes]
  refine holdsAt_behind (by rw [imageBody_length]) ?_
  rw [imageBody_length]
  have := holdsAt_here 4 (cardCheck seed (imageBody f)).toNat []
  rwa [List.append_nil] at this

/-! ### The carried entries -/

/-- The bytes of entries, one behind another. -/
def entriesFlat (es : List (Nat × Nat)) : List Byte := es.flatMap fun e => leBytes 4 e.1 ++ leBytes 2 e.2

theorem entriesFlat_length (es : List (Nat × Nat)) : (entriesFlat es).length = 6 * es.length := by
  induction es with
  | nil => rfl
  | cons e es ih =>
    rw [entriesFlat, List.flatMap_cons, List.length_append, ← entriesFlat, ih]
    simp [leBytes_length]
    omega

theorem entryBytes_eq {es : List (Nat × Nat)} (h : es.length ≤ 12) :
    entryBytes es = entriesFlat es ++ List.replicate (72 - 6 * es.length) 0 := by
  have flat := entriesFlat_length es
  rw [entryBytes, ← entriesFlat, List.take_append, List.take_of_length_le (by omega), List.take_replicate, flat]
  congr 2
  omega

/-- An entry stands in its place. -/
theorem entriesFlat_holds {es : List (Nat × Nat)} {k : Nat} {e : Nat × Nat} (he : es[k]? = some e) (r : List Byte) :
    holdsAt (entriesFlat es ++ r) (6 * k) 4 e.1 ∧ holdsAt (entriesFlat es ++ r) (6 * k + 4) 2 e.2 := by
  induction es generalizing k with
  | nil => simp at he
  | cons d es ih =>
    have split : entriesFlat (d :: es) ++ r = leBytes 4 d.1 ++ (leBytes 2 d.2 ++ (entriesFlat es ++ r)) := by
      simp [entriesFlat]
    rw [split]
    cases k with
    | zero =>
      obtain rfl : d = e := by simpa using he
      exact ⟨holdsAt_here _ _ _, holdsAt_skip (by omega) (holdsAt_here _ _ _)⟩
    | succ k =>
      obtain ⟨h1, h2⟩ := ih (by simpa using he)
      refine ⟨holdsAt_skip (by omega) (holdsAt_skip (by omega) ?_), holdsAt_skip (by omega) (holdsAt_skip (by omega) ?_)⟩
      · rw [show 6 * (k + 1) - 4 - 2 = 6 * k by omega]; exact h1
      · rw [show 6 * (k + 1) + 4 - 4 - 2 = 6 * k + 4 by omega]; exact h2

theorem imageBytes_entries (seed : Nat) {f : ImageFields} (h : f.entries.length ≤ 12) {k : Nat} {e : Nat × Nat}
    (he : f.entries[k]? = some e) :
    holdsAt (imageBytes seed f) (52 + 6 * k) 4 e.1 ∧ holdsAt (imageBytes seed f) (56 + 6 * k) 2 e.2 := by
  rw [imageBytes, imageBody_eq, List.append_assoc, entryBytes_eq h, List.append_assoc]
  obtain ⟨h1, h2⟩ := entriesFlat_holds he
    (List.replicate (72 - 6 * f.entries.length) 0 ++ leBytes 4 (cardCheck seed (imageHeader f ++
      (entriesFlat f.entries ++ List.replicate (72 - 6 * f.entries.length) 0))).toNat)
  refine ⟨holdsAt_behind (by rw [imageHeader_length]; omega) ?_, holdsAt_behind (by rw [imageHeader_length]; omega) ?_⟩
  · rw [imageHeader_length, show 52 + 6 * k - 52 = 6 * k by omega]; exact h1
  · rw [imageHeader_length, show 56 + 6 * k - 52 = 6 * k + 4 by omega]; exact h2

theorem imageBytes_noEntries (seed : Nat) {f : ImageFields} (h : f.entries.length ≤ 12) {k : Nat}
    (h1 : 52 + 6 * f.entries.length ≤ k) (h2 : k < 124) : (imageBytes seed f)[k]? = some 0 := by
  have flat := entriesFlat_length f.entries
  rw [imageBytes, imageBody_eq, List.append_assoc, entryBytes_eq h, List.append_assoc,
    List.getElem?_append_right (by rw [imageHeader_length]; omega),
    List.getElem?_append_right (by rw [imageHeader_length]; omega), imageHeader_length,
    List.getElem?_append_left (by rw [List.length_replicate]; omega), List.getElem?_replicate, if_pos (by omega)]

end

end Sys2Proof.Machine

/-! ## The programmed intent record (R42, R47, R48, R50) -/

namespace Sys2Proof.Machine

set_option Elab.async false

section
variable {s : State} {r : CredRec} {g : Nat}

/-! ### The groups of a card -/

theorem credGroups_has (hg : g < 16) : (s.credGroups r).has g = s.opens r g := by
  unfold State.credGroups State.opens Groups.has
  cases r.kind with
  | guest => cases s.rooms.get r.room <;> simp
  | staff | restock => rfl
  | master => exact (BitVec.getLsbD_allOnes ..).trans (decide_eq_true hg)

theorem groupBit_has {i : Nat} (hg : g < 16) : Groups.has ((1 : Groups) <<< i) g = decide (i = g) := by
  have one : (1 : Groups) = 1#16 := rfl
  unfold Groups.has
  rw [one, BitVec.getLsbD_shiftLeft, BitVec.getLsbD_one, Bool.eq_iff_iff]
  simp
  omega

/-- The offline groups gathered from a table. -/
theorem offline_gathered (hg : g < 16) (l : List (Nat × GroupEntry)) (m : Groups) :
    Groups.has (l.foldl (fun m e => if e.2.offline then m ||| ((1 : Groups) <<< e.1) else m) m) g =
      (m.has g || l.any fun e => decide (e.1 = g) && e.2.offline) := by
  induction l generalizing m with
  | nil => simp
  | cons e l ih =>
    rw [List.foldl_cons, ih, List.any_cons]
    cases he : e.2.offline with
    | false => simp
    | true =>
      have bit := groupBit_has (i := e.1) hg
      have joined : Groups.has (m ||| ((1 : Groups) <<< e.1)) g = (m.has g || decide (e.1 = g)) := by
        rw [← bit]; simp [Groups.has]
      rw [if_pos rfl, joined]
      simp [Bool.or_assoc]

theorem offlineGroups_has (hwf : s.groups.wf) (hg : g < 16) : s.offlineGroups.has g = (s.group g).offline := by
  unfold State.offlineGroups
  rw [offline_gathered hg]
  have zero : Groups.has 0 g = false := by simp [Groups.has]
  rw [zero, Bool.false_or, Bool.eq_iff_iff]
  simp only [List.any_eq_true, Bool.and_eq_true, decide_eq_true_eq, State.group]
  constructor
  · rintro ⟨⟨i, x⟩, hm, rfl, ho⟩
    rw [FMap.get_of_mem hwf hm]
    exact ho
  · intro ho
    cases hx : s.groups.get g with
    | none => rw [hx] at ho; cases ho
    | some x => rw [hx] at ho; exact ⟨(g, x), FMap.mem_of_get hx, rfl, ho⟩

theorem groups_ne_zero (m : Groups) : m ≠ 0 ↔ ∃ g, g < 16 ∧ m.has g = true := by
  constructor
  · intro h
    by_contra hno
    refine h (BitVec.eq_of_getLsbD_eq fun i hi => ?_)
    rw [Bool.eq_iff_iff]
    simp only [BitVec.ofNat_eq_ofNat, BitVec.getLsbD_zero, Bool.false_eq_true, iff_false]
    exact fun hb => hno ⟨i, hi, hb⟩
  · rintro ⟨g, -, hg⟩ rfl
    simp [Groups.has] at hg

theorem meetsReach_iff (hwf : s.groups.wf) (e : RevEntry) : e.reach &&& s.reach r ≠ 0 ↔ meetsReach s r e := by
  rw [groups_ne_zero]
  unfold meetsReach State.reach
  refine exists_congr fun g => and_congr_right fun hg => ?_
  rw [← credGroups_has hg, ← offlineGroups_has hwf hg]
  simp only [Groups.has, BitVec.getLsbD_and, Bool.and_eq_true]
  exact and_congr_right fun _ => and_comm

/-- The carried selection (R42). -/
theorem carriedFor_selection (hwf : s.groups.wf) : carriedSelection s r (s.cred.carriedFor (s.reach r)) := by
  let l := (sortBy (fun e : Nat × Nat × RevEntry => e.2.1)
    (s.cred.entries.filter fun e => decide (e.2.2.reach &&& s.reach r ≠ 0))).reverse
  have member : ∀ e, e ∈ l ↔ e ∈ s.cred.entries ∧ meetsReach s r e.2.2 := fun e => by
    rw [← meetsReach_iff hwf]
    simp [l, mem_sortBy]
  have sorted : l.Pairwise fun x y => y.2.1 ≤ x.2.1 := List.pairwise_reverse.mpr (sortBy_sorted _ _)
  refine ⟨List.length_take_le 12 l, fun e he => (member e).mp (List.mem_of_mem_take he), sorted.take,
    fun e he hm hno => ?_⟩
  have dropped : e ∈ l.drop 12 := by
    have := (member e).mpr ⟨he, hm⟩
    rw [← List.take_append_drop 12 l] at this
    exact (List.mem_append.mp this).resolve_left hno
  refine ⟨?_, fun x hx => ?_⟩
  · have := List.length_pos_of_mem dropped
    rw [List.length_drop] at this
    show (l.take 12).length = 12
    rw [List.length_take]
    omega
  · rw [← List.take_append_drop 12 l] at sorted
    exact (List.pairwise_append.mp sorted).2.2 x hx e dropped

/-! ### The images -/

theorem mask_shown {m : Groups} {b : List Byte} (h : holdsAt b 18 2 m.toNat) (hg : g < 16) :
    (b[18 + g / 8]?).map (fun c => c.getLsbD (g % 8)) = some (m.has g) := by
  rw [h (g / 8) (by omega), Option.map_some]
  congr 1
  have pow : 256 ^ (g / 8) = 2 ^ (8 * (g / 8)) := by rw [Nat.pow_mul]
  rw [BitVec.getLsbD_ofNat, pow, Nat.testBit_div_two_pow, decide_eq_true (Nat.mod_lt _ (by omega)), Bool.true_and,
    Nat.add_comm, Nat.div_add_mod]
  rfl

theorem site_of {i : Identity} (hi : s.store.identity = some i) : s.site = i.site ∧ s.seed = i.seed := by
  simp [State.site, State.seed, hi]

/-- The issue image (R47). -/
theorem issueFields_image {i : Identity} {chosen : List (Nat × Nat × RevEntry)} (hi : s.store.identity = some i)
    (hlen : chosen.length ≤ 12) : issueImage s i r chosen (imageBytes s.seed
      (s.issueFields r (chosen.map fun e => (e.2.2.number, expiryDay e.2.2.expiry)))) := by
  obtain ⟨hsite, hseed⟩ := site_of hi
  let f := s.issueFields r (chosen.map fun e => (e.2.2.number, expiryDay e.2.2.expiry))
  have header := imageBytes_header s.seed f
  have entries : f.entries = chosen.map fun e => (e.2.2.number, expiryDay e.2.2.expiry) := rfl
  have count : f.entries.length = chosen.length := by rw [entries, List.length_map]
  refine
    { length := imageBytes_length _ _
      version := header.version
      kind := ?_
      flags := ?_
      count := count ▸ header.count
      site := hsite ▸ header.site
      number := header.number
      label := fun x hk hx => ?_
      stay := ⟨header.room, header.issue⟩
      noLabel := fun hk => ?_
      mask := fun g hg => ?_
      term := ⟨header.validFrom, ?_⟩
      window := ⟨header.winStart, header.winEnd⟩
      minute := header.minute
      grace := header.grace
      fill := fun k h h' => imageBytes_fill _ _ h h'
      entries := fun k e he => ?_
      noEntries := fun k h h' => imageBytes_noEntries _ (by rw [count]; exact hlen) (by rw [count]; exact h) h'
      check := hseed ▸ imageBytes_check _ _ }
  · have := header.kind
    have code : f.kind = (match r.kind with
      | .guest => 1
      | .staff => 2
      | .restock => 3
      | .master => 4) := by show r.kind.code = _; cases r.kind <;> rfl
    rwa [code] at this
  · have := header.flags
    have flag : f.flags = if r.kind = .guest ∧ r.minibar = true then 1 else 0 := by simp [f, State.issueFields]
    rwa [flag] at this
  · have := header.label
    have label : f.label = x.entry.label := by
      show s.labelOf r = _
      simp [State.labelOf, CredRec.roomOf, hk, hx]
    rwa [label] at this
  · have := header.label
    have label : f.label = 0 := by
      show s.labelOf r = _
      simp [State.labelOf, CredRec.roomOf, hk]
    rwa [label] at this
  · rw [← credGroups_has hg]
    exact mask_shown header.mask hg
  · have := header.validUntil
    have written : f.validUntil = r.validUntil.getD 0xFFFFFFFF := by
      show untilWritten r.validUntil = _
      cases r.validUntil <;> rfl
    rwa [written] at this
  · obtain ⟨h1, h2⟩ := imageBytes_entries s.seed (f := f) (by rw [count]; exact hlen) (k := k)
      (e := (e.2.2.number, expiryDay e.2.2.expiry)) (by rw [entries, List.getElem?_map, he]; rfl)
    refine ⟨h1, ?_⟩
    have day : expiryDay e.2.2.expiry = (match e.2.2.expiry with
      | none => 65535
      | some m => min (m / 1440) 65535) := by
      cases e.2.2.expiry with
      | none => rfl
      | some m => simp only [expiryDay]; split <;> omega
    rwa [day] at h2

theorem holdsAt_zero {b : List Byte} {off len k : Nat} (h : holdsAt b off len 0) (h1 : off ≤ k) (h2 : k < off + len) :
    b[k]? = some 0 := by
  have := h (k - off) (by omega)
  rw [show off + (k - off) = k by omega, Nat.zero_div] at this
  exact this

/-- The void image (R48). -/
theorem voidImage_image {i : Identity} (number : Nat) (hi : s.store.identity = some i) :
    voidImage i number (s.voidImage number) := by
  obtain ⟨hsite, hseed⟩ := site_of hi
  have header : headerHolds _ (s.voidImage number) := imageBytes_header s.seed _
  refine ⟨imageBytes_length _ _, header.kind, hsite ▸ header.site, header.number, fun k hk h1 h4 => ?_,
    hseed ▸ imageBytes_check _ _⟩
  have field : k = 0 ∨ k = 2 ∨ k = 3 ∨ (12 ≤ k ∧ k < 14) ∨ (14 ≤ k ∧ k < 16) ∨ (16 ≤ k ∧ k < 18) ∨ (18 ≤ k ∧ k < 20) ∨
      (20 ≤ k ∧ k < 24) ∨ (24 ≤ k ∧ k < 28) ∨ (28 ≤ k ∧ k < 30) ∨ (30 ≤ k ∧ k < 32) ∨ (32 ≤ k ∧ k < 36) ∨
      (36 ≤ k ∧ k < 38) ∨ (38 ≤ k ∧ k < 52) ∨ 52 ≤ k := by omega
  rcases field with rfl | rfl | rfl | ⟨h, h'⟩ | ⟨h, h'⟩ | ⟨h, h'⟩ | ⟨h, h'⟩ | ⟨h, h'⟩ | ⟨h, h'⟩ | ⟨h, h'⟩ | ⟨h, h'⟩ | ⟨h, h'⟩ |
    ⟨h, h'⟩ | ⟨h, h'⟩ | h
  · exact holdsAt_zero header.version le_rfl (by omega)
  · exact holdsAt_zero header.flags le_rfl (by omega)
  · exact holdsAt_zero header.count le_rfl (by omega)
  · exact holdsAt_zero header.label h h'
  · exact holdsAt_zero header.room h h'
  · exact holdsAt_zero header.issue h h'
  · exact holdsAt_zero header.mask h h'
  · exact holdsAt_zero header.validFrom h h'
  · exact holdsAt_zero header.validUntil h h'
  · exact holdsAt_zero header.winStart h h'
  · exact holdsAt_zero header.winEnd h h'
  · exact holdsAt_zero header.minute h h'
  · exact holdsAt_zero header.grace h h'
  · exact imageBytes_fill _ _ h h'
  · exact imageBytes_noEntries _ (Nat.zero_le _) h hk

/-! ### The job goes on -/

theorem carry_cred (places : List Nat) (s : State) :
    (carry places s).cred = places.foldl (fun c i => raiseCarried i c) s.cred := by
  unfold carry
  induction places generalizing s with
  | nil => rfl
  | cons i is ih => rw [List.foldl_cons, ih]; rfl

theorem alters.carry {K : List EntryKey} {P : List Part} {C : List NoticeClass} {t : State} {places : List Nat}
    (h : alters K P C s t) (hk : ∀ i ∈ places, EntryKey.listPlace i ∈ K) (hp : Part.cred ∈ P) :
    alters K P C s (carry places t) := by
  unfold Machine.carry
  induction places generalizing t with
  | nil => exact h
  | cons i is ih =>
    exact ih ((h.onCred _ hp).enqueue _ (hk i (by simp))) fun j hj => hk j (by simp [hj])

/-- What a report for a job whose intent record has been programmed brings. -/
theorem takeReport_prepared {j : Job} (hrep : s.enc.report = some j.number) (hj : s.enc.job = some j)
    (hs : j.state = .preparing) (ho : j.outcome = none) (hr : s.cred.slots.get j.slot = some r) :
    takeReport s = enterWaiting (buildImage r (s.onEnc fun e => { e with report := none })) := by
  unfold takeReport
  rw [hrep, hj]
  simp only [hs, ho, and_self, if_true, hr]

theorem takeReport_nothing {n : Nat} (hrep : s.enc.report = some n)
    (h : ∀ j, s.enc.job = some j → j.state ≠ .preparing ∨ j.outcome ≠ none ∨ j.number ≠ n) :
    takeReport s = s.onEnc fun e => { e with report := none } := by
  unfold takeReport
  rw [hrep]
  cases hj : s.enc.job with
  | none => rfl
  | some j =>
    dsimp only
    rw [if_neg]
    rintro ⟨h1, h2, h3⟩
    rcases h j hj with h | h | h
    · exact h h1
    · exact h h2
    · exact h h3

/-- The image of a job. -/
def State.imageOf (s : State) (r : CredRec) : List Byte :=
  imageBytes s.seed (s.issueFields r ((s.cred.carriedFor (s.reach r)).map fun e => (e.2.2.number, expiryDay e.2.2.expiry)))

/-- The job as it waits for a card, its image built. -/
def State.readied (s : State) (r : CredRec) (j : Job) : Job :=
  { j with
    image := some (s.imageOf r), carried := (s.cred.carriedFor (s.reach r)).length, state := .waitingCard
    cardWait := some s.settings.wait }

/-- The part as the job waits for a card. -/
def State.readying (s : State) (r : CredRec) : State :=
  modJob (fun j => { j with state := .waitingCard, cardWait := some s.settings.wait })
    (buildImage r (s.onEnc fun e => { e with report := none }))

theorem readying_enc {j : Job} (hj : s.enc.job = some j) :
    (s.readying r).enc = { s.enc with report := none, job := some (s.readied r j) } := by
  simp [State.readying, buildImage, modJob, hj]
  rfl

theorem readying_cred : (s.readying r).cred =
    ((s.cred.carriedFor (s.reach r)).map Prod.fst).foldl (fun c i => raiseCarried i c) s.cred := by
  have h : (s.readying r).cred = (carry ((s.cred.carriedFor (s.reach r)).map Prod.fst)
    (s.onEnc fun e => { e with report := none })).cred := rfl
  rw [h, carry_cred]
  rfl

theorem readying_slots : (s.readying r).cred.slots = s.cred.slots := by
  rw [readying_cred]
  generalize (s.cred.carriedFor (s.reach r)).map Prod.fst = is
  generalize hc : s.cred = c
  clear hc
  induction is generalizing c with
  | nil => rfl
  | cons i is ih => exact (ih _).trans (keepsSound.raiseCarried_slots)

theorem readying_alters : alters (((s.cred.carriedFor (s.reach r)).map Prod.fst).map .listPlace) [.cred, .enc] [] s
    (s.readying r) := by
  have first : alters (((s.cred.carriedFor (s.reach r)).map Prod.fst).map .listPlace) [.cred, .enc] [] s
      (s.onEnc fun e => { e with report := none }) := (alters.refl _ _ _ s).onEnc _
  unfold State.readying buildImage modJob
  exact ((first.carry (fun i hi => List.mem_map_of_mem hi) (by simp)).onEnc _).onEnc _

theorem readying_settings : (s.readying r).settings = s.settings := readying_alters.rest .settings (by simp)

/-- The card wait as it is entered (R51). -/
theorem enterWaiting_readying {j : Job} (hj : s.enc.job = some j) (hk : j.kind = .issue) :
    enterWaiting (buildImage r (s.onEnc fun e => { e with report := none })) =
      if s.enc.cardIn then sendWrite (s.readied r j) (s.readying r)
      else if s.settings.wait = 0 then reportOutcome .released (some .noCard) (s.readying r)
      else s.readying r := by
  have settings : (buildImage r (s.onEnc fun e => { e with report := none })).settings = s.settings :=
    readying_settings (r := r)
  unfold enterWaiting
  rw [settings]
  have enc := readying_enc (r := r) hj
  have kind : (s.readied r j).kind = .issue := hk
  simp only [show modJob (fun j => { j with state := .waitingCard, cardWait := some s.settings.wait })
    (buildImage r (s.onEnc fun e => { e with report := none })) = s.readying r from rfl, enc, cardArrives, waitEnds, kind]

theorem finish_enc (u : State) : (finish u).enc = u.enc := by simp

theorem finish_cred (u : State) : (finish u).cred = u.cred := by simp

/-- With a card present the readied job writes at once. -/
theorem readied_writes {j : Job} (hj : s.enc.job = some j) :
    (finish (sendWrite (s.readied r j) (s.readying r))).enc = { s.enc with
      report := none, headOp := some (.write (s.imageOf r))
      job := some { s.readied r j with
        state := .writing, writeStarted := true, cardWait := none, headEnd := some 400 } } ∧
    (finish (sendWrite (s.readied r j) (s.readying r))).cred =
      ((s.cred.carriedFor (s.reach r)).map Prod.fst).foldl (fun c i => raiseCarried i c) s.cred ∧
    changesOnly (((s.cred.carriedFor (s.reach r)).map Prod.fst).map .listPlace) [.cred, .enc] [] s
      (finish (sendWrite (s.readied r j) (s.readying r))) := by
  have enc := readying_enc (r := r) hj
  refine ⟨?_, ?_, ((readying_alters.onEnc _).onEnc _).changesOnly⟩
  · rw [finish_enc, sendWrite_enc (j := s.readied r j) (by rw [enc]), enc]
    rfl
  · rw [finish_cred, ← readying_cred]
    rfl

/-- Settles O35: the selection and the images by their bytes, the job by the part as it waits (`State.readying`). -/
theorem intentRecordStartsTheJob : Obligations.IntentRecordStartsTheJob := by
  refine ⟨fun s r hwf => carriedFor_selection hwf, fun s i r chosen hi hlen => issueFields_image hi hlen,
    fun s i number hi => voidImage_image number hi,
    fun s j r chosen image ready cred hw hrep hj hk hs ho hr hchosen himage hready hcred => ?_, fun s n hw hrep h => ?_⟩
  · subst hchosen himage hready hcred
    have run : exec .intentRecordProgrammed s = done (takeReport s) := if_pos hw
    rw [run, takeReport_prepared hrep hj hs ho hr, enterWaiting_readying hj hk]
    have enc := readying_enc (r := r) hj
    refine ⟨_, rfl, fun hc => ?_, fun hc hwait => ?_, fun hc hwait => ?_⟩
    · rw [if_pos hc]
      exact readied_writes hj
    · rw [if_neg (by simp [hc]), if_neg hwait, finish_enc, finish_cred]
      exact ⟨enc, readying_cred, readying_alters.changesOnly⟩
    · rw [if_neg (by simp [hc]), if_pos hwait]
      exact ⟨s.readying r, enc, readying_cred, readying_alters.changesOnly_inner,
        reportOutcome_reported _ _ (by rw [enc]; rfl) (by rw [readying_slots]; exact hr)⟩
  · have run : exec .intentRecordProgrammed s = done (takeReport s) := if_pos hw
    rw [run, takeReport_nothing hrep h]
    exact ⟨_, rfl, by simp, ((alters.refl _ _ _ s).onEnc _).changesOnly⟩

end

end Sys2Proof.Machine

/-! ## Slot events and door events of a minibar (R111, R113, R120 to R125) -/

namespace Sys2Proof.Machine

set_option Elab.async false

/-! ### A node changed twice -/

section
variable {s : State} {l : LineId} {a : Nat} {n : Node}

theorem FMap.put_put {α : Type} (m : FMap α) (k : Nat) (v w : α) : (m.put k v).put k w = m.put k w := by
  induction m with
  | nil => simp [FMap.put]
  | cons e m ih =>
    obtain ⟨j, x⟩ := e
    by_cases hlt : k < j
    · simp [FMap.put, hlt]
    · by_cases heq : k = j
      · simp [FMap.put, heq]
      · simp [FMap.put, hlt, heq, ih]

theorem State.modNode_modNode (f g : Node → Node) :
    (s.modNode l a f).modNode l a g = s.modNode l a fun n => g (f n) := by
  cases hn : s.node l a with
  | none =>
    have same (f : Node → Node) : s.modNode l a f = s := by
      unfold State.modNode State.modNodeAt; rw [show s.nodes.get (nodeKey l a) = none from hn]
    rw [same, same, same]
  | some n =>
    have node : (s.modNode l a f).node l a = some (f n) := by rw [State.node_modNode_self, hn]; rfl
    rw [State.modNode_eq node, State.modNode_eq hn, State.modNode_eq hn]
    simp [State.onNodes, FMap.put_put]

theorem State.modNode_congr (hn : s.node l a = some n) {f g : Node → Node} (h : f n = g n) :
    s.modNode l a f = s.modNode l a g := by rw [State.modNode_eq hn, State.modNode_eq hn, h]

/-- A minibar that comes to rest after a change of its node. -/
theorem comeToRest_modNode (hn : s.node l a = some n) (f : Node → Node) (hf : (f n).entry.room = n.entry.room) :
    comeToRest l a (s.modNode l a f) = s.modNode l a fun y =>
      { f y with bar := { (f y).bar with state := s.restState n.entry.room } } := by
  have node : (s.modNode l a f).node l a = some (f n) := by rw [State.node_modNode_self, hn]; rfl
  have rest : (s.modNode l a f).restState (f n).entry.room = s.restState n.entry.room := by
    rw [hf]; exact State.restState_congr (fun i => by simp) _
  rw [comeToRest_bar node, rest]
  exact State.modNode_modNode ..

theorem modBar_modNode (f : BarRec → BarRec) (g : Node → Node) :
    modBar l a f (s.modNode l a g) = s.modNode l a fun y => { g y with bar := f (g y).bar } :=
  State.modNode_modNode ..

end

/-! ### Sets of slots -/

section
variable {k : Nat}

theorem SlotSet.has_not (m : SlotSet) (h1 : 1 ≤ k) (h2 : k ≤ 12) : SlotSet.has (~~~ m) k = !m.has k := by
  have inside : k - 1 < 12 := by omega
  simp [SlotSet.has, inside]

theorem slotCount_eq {m : SlotSet} {p : Nat → Bool} (h : ∀ k, 1 ≤ k → k ≤ 12 → m.has k = p k) :
    slotCount m = (allSlots.filter p).length := by
  unfold slotCount
  rw [List.filter_congr fun k hk => h k (mem_allSlots.mp hk).1 (mem_allSlots.mp hk).2]

theorem tamperMissing_has {n : Node} {m : SlotSet} (h1 : 1 ≤ k) (h2 : k ≤ 12) : (tamperMissing n m).has k =
    (m.has k && n.entry.baseline.has k && decide (n.bar.lines.get k = none)) := by
  have turned : tamperMissing n m = allSlots.foldl (fun o j =>
      if ¬ (m.has j && n.entry.baseline.has j && (n.bar.lines.get j).isNone) = true then o else o ||| slotBit j) 0 := by
    unfold tamperMissing
    congr 1
    funext o j
    exact (ite_not _ _ _).symm
  rw [turned, gathered_has h1 h2 allSlots fun j hj => (mem_allSlots.mp hj).1]
  cases n.bar.lines.get k <;> simp [mem_allSlots, h1, h2, SlotSet.has]

end

/-! ### A changed slot in a guest's opening (R121) -/

section
variable {s t : State} {l : LineId} {a k : Nat} {n m : Node} {reported : SlotSet}

theorem newLine_eq : s.newLine n k = ⟨lineAmount (s.price (n.entry.code k))
      (((s.rooms.get (n.entry.room.getD 0)).map fun x => x.entry.discount).getD 0),
    n.entry.code k, s.currentIssue (n.entry.room.getD 0), s.clock.minute⟩ := by
  unfold State.newLine
  cases hx : s.rooms.get n.entry.boundRoom <;>
    simp [NodeEntry.boundRoom] at hx ⊢ <;> simp [hx]

theorem guestSlot_removed (hs : n.entry.stocked.has k = true) (hr : reported.has k = false) :
    guestSlot l a n reported k s = if n.entry.baseline.has k = true
      then modBar l a (fun b => { b with lines := b.lines.put k (s.newLine n k) }) s else s := by
  simp [guestSlot, hs, hr]

theorem guestSlot_returned (hs : n.entry.stocked.has k = true) (hr : reported.has k = true) :
    guestSlot l a n reported k s = if (n.bar.lines.get k).isSome = true
      then modBar l a (fun b => { b with lines := b.lines.del k }) s else offer (lateReturnBody (l, a) n k) s := by
  simp [guestSlot, hs, hr]

/-- A node that differs from another in its pending lines alone. -/
def Node.relined (n m : Node) : Prop := m = { n with bar := { n.bar with lines := m.bar.lines } }

/-- A changed slot changes the pending lines of its minibar alone. -/
theorem guestSlot_relines (hn : s.node l a = some m) :
    ∃ m', (guestSlot l a n reported k s).node l a = some m' ∧ m.relined m' := by
  have kept : ∀ u : State, u.nodes = s.nodes → ∃ m', u.node l a = some m' ∧ m.relined m' :=
    fun u hu => ⟨m, (State.node_congr hu l a).trans hn, rfl⟩
  have lines (f : FMap PendingLine → FMap PendingLine) :
      ∃ m', (modBar l a (fun b => { b with lines := f b.lines }) s).node l a = some m' ∧ m.relined m' :=
    ⟨_, modBar_node hn _, rfl⟩
  cases hs : n.entry.stocked.has k with
  | false => rw [show guestSlot l a n reported k s = s by simp [guestSlot, hs]]; exact kept s rfl
  | true =>
    cases hr : reported.has k with
    | false =>
      rw [guestSlot_removed hs hr]
      split
      · exact lines fun x => x.put k (s.newLine n k)
      · exact kept s rfl
    | true =>
      rw [guestSlot_returned hs hr]
      split
      · exact lines fun x => x.del k
      · exact kept _ (by simp)

theorem guestSlots_reline (ks : List Nat) (s : State) (hn : s.node l a = some m) :
    ∃ m', (ks.foldl (fun y k => guestSlot l a n reported k y) s).node l a = some m' ∧ m.relined m' := by
  induction ks generalizing s m with
  | nil => exact ⟨m, hn, rfl⟩
  | cons k ks ih =>
    obtain ⟨y, node, first⟩ := guestSlot_relines (n := n) (reported := reported) (k := k) hn
    obtain ⟨z, last, second⟩ := ih _ node
    refine ⟨z, last, ?_⟩
    unfold Node.relined at first second ⊢
    rw [second, first]

end

/-! ### A SLOTS report (R111, R120) -/

section
variable {s : State} {l : LineId} {a : Nat} {n : Node} {m p : SlotSet}

/-- The missing marks a SLOTS report leaves. -/
def missingAfter (n : Node) (m : SlotSet) : SlotSet :=
  match n.bar.present, n.bar.state with
  | none, _ => (n.bar.missing &&& ~~~ m) ||| (n.entry.stocked &&& n.entry.baseline &&& ~~~ m)
  | some _, .openGuest | some _, .settling | some _, .openRestock => n.bar.missing &&& ~~~ m
  | some p, _ => (n.bar.missing &&& ~~~ m) ||| tamperMissing n (p &&& ~~~ m &&& n.entry.stocked)

theorem takeSlots_eq (hn : s.node l a = some n) : takeSlots l a m s = s.modNode l a fun y =>
    { y with bar := { y.bar with present := some m, missing := n.bar.missing &&& ~~~ m } } :=
  State.modNode_congr hn rfl

theorem slotsReported_first (hn : s.node l a = some n) (hp : n.bar.present = none) :
    (∀ k, 1 ≤ k → k ≤ 12 → (missingAfter n m).has k = (!m.has k && (n.bar.missing.has k ||
      (n.entry.stocked.has k && n.entry.baseline.has k)))) ∧
    slotsReported l a n m s = s.modNode l a fun y =>
      { y with bar := { y.bar with present := some m, missing := missingAfter n m } } := by
  have marks : missingAfter n m =
      (n.bar.missing &&& ~~~ m) ||| (n.entry.stocked &&& n.entry.baseline &&& ~~~ m) := by simp [missingAfter, hp]
  refine ⟨fun k h1 h2 => ?_, ?_⟩
  · simp only [marks, SlotSet.has_or, SlotSet.has_and, SlotSet.has_not m h1 h2]
    cases m.has k <;> simp
  · rw [show slotsReported l a n m s = firstSlots l a n m s by simp [slotsReported, hp]]
    exact State.modNode_congr hn (by rw [marks])

theorem has_minus (o : SlotSet) {k : Nat} (h1 : 1 ≤ k) (h2 : k ≤ 12) :
    SlotSet.has (o &&& ~~~ m) k = (!m.has k && o.has k) := by
  rw [SlotSet.has_and, SlotSet.has_not m h1 h2, Bool.and_comm]

theorem slotsReported_guest (hn : s.node l a = some n) (hp : n.bar.present = some p)
    (hb : n.bar.state = .openGuest ∨ n.bar.state = .settling) {u : State}
    (hu : u = ((allSlots.filter fun k => decide (p.has k ≠ m.has k)).foldl (fun y k => guestSlot l a n m k y) s).modNode
      l a (fun y => { y with bar := { y.bar with present := some m, missing := missingAfter n m } })) :
    (∀ k, 1 ≤ k → k ≤ 12 → (missingAfter n m).has k = (!m.has k && n.bar.missing.has k)) ∧
    ∀ y, u.node l a = some y → slotsReported l a n m s = if n.bar.state = .settling ∧ y.bar.lines = []
      then u.modNode l a fun y =>
        { y with bar := { y.bar with graceEnd := none, state := s.restState n.entry.room } }
      else u := by
  have marks : missingAfter n m = n.bar.missing &&& ~~~ m := by
    rcases hb with hb | hb <;> simp [missingAfter, hp, hb]
  refine ⟨fun k h1 h2 => by rw [marks, has_minus _ h1 h2], fun y hy => ?_⟩
  obtain ⟨z, node, relined⟩ := guestSlots_reline (n := n) (reported := m)
    (allSlots.filter fun k => decide (p.has k ≠ m.has k)) s hn
  have event : slotsReported l a n m s = settleIfEmpty l a u := by
    have branch : slotsReported l a n m s = settleIfEmpty l a (takeSlots l a m
        ((allSlots.filter fun k => p.has k != m.has k).foldl (fun y k => guestSlot l a n m k y) s)) := by
      rcases hb with hb | hb <;> simp [slotsReported, slotEvent, hp, hb]
    have same : (allSlots.filter fun k => p.has k != m.has k) = allSlots.filter fun k => decide (p.has k ≠ m.has k) :=
      List.filter_congr fun k _ => by cases p.has k <;> cases m.has k <;> rfl
    rw [branch, same, takeSlots_eq node, hu, marks]
    congr 2
    rw [relined]
  have hyz : y = { z with bar := { z.bar with present := some m, missing := missingAfter n m } } := by
    rw [hu, State.node_modNode_self, node] at hy
    exact (Option.some.inj hy).symm
  have state : y.bar.state = n.bar.state := by rw [hyz, relined]
  have room : y.entry.room = n.entry.room := by rw [hyz, relined]
  have rest : u.restState y.entry.room = s.restState n.entry.room := by
    rw [room]; exact State.restState_congr (fun i => by simp [hu]) _
  have comes : comeToRest l a (modBar l a (fun b => { b with graceEnd := none }) u) = u.modNode l a fun y =>
      { y with bar := { y.bar with graceEnd := none, state := s.restState n.entry.room } } := by
    unfold modBar
    rw [comeToRest_modNode hy _ rfl, rest]
  rw [event]
  unfold settleIfEmpty
  rw [hy]
  simp only [state, List.isEmpty_iff, comes]

theorem slotsReported_restock (hn : s.node l a = some n) (hp : n.bar.present = some p)
    (hb : n.bar.state = .openRestock) :
    (∀ k, 1 ≤ k → k ≤ 12 → (missingAfter n m).has k = (!m.has k && n.bar.missing.has k)) ∧
    slotsReported l a n m s = s.modNode l a fun y =>
      { y with bar := { y.bar with present := some m, missing := missingAfter n m } } := by
  have marks : missingAfter n m = n.bar.missing &&& ~~~ m := by simp [missingAfter, hp, hb]
  refine ⟨fun k h1 h2 => by rw [marks, has_minus _ h1 h2], ?_⟩
  rw [marks, ← takeSlots_eq hn]
  simp [slotsReported, slotEvent, hp, hb]

theorem slotsReported_tamper (hn : s.node l a = some n) (hp : n.bar.present = some p)
    (hb : n.bar.state = .locked ∨ n.bar.state = .chargeWait ∨ n.bar.state = .held) :
    (∀ k, 1 ≤ k → k ≤ 12 → (missingAfter n m).has k = (!m.has k && (n.bar.missing.has k ||
      (n.entry.stocked.has k && p.has k && n.entry.baseline.has k && decide (n.bar.lines.get k = none))))) ∧
    slotsReported l a n m s = post .alarm (.slots (l, a)) (offer
      ⟨.minibarTamper, some (l, a), none, n.entry.room,
        .num (allSlots.filter fun k => p.has k && !m.has k && n.entry.stocked.has k).length,
        .num (allSlots.filter fun k => !p.has k && m.has k && n.entry.stocked.has k).length, .none⟩
      (s.modNode l a fun y => { y with bar := { y.bar with present := some m, missing := missingAfter n m } })) := by
  have marks : missingAfter n m =
      (n.bar.missing &&& ~~~ m) ||| tamperMissing n (p &&& ~~~ m &&& n.entry.stocked) := by
    rcases hb with hb | hb | hb <;> simp [missingAfter, hp, hb]
  refine ⟨fun k h1 h2 => ?_, ?_⟩
  · rw [marks, SlotSet.has_or, tamperMissing_has h1 h2, SlotSet.has_and, SlotSet.has_and _ n.entry.stocked,
      SlotSet.has_and, SlotSet.has_not m h1 h2]
    cases m.has k <;> simp [Bool.and_comm]
  · have removals : slotCount (p &&& ~~~ m &&& n.entry.stocked) =
        (allSlots.filter fun k => p.has k && !m.has k && n.entry.stocked.has k).length :=
      slotCount_eq fun k h1 h2 => by rw [SlotSet.has_and, SlotSet.has_and, SlotSet.has_not m h1 h2]
    have returns : slotCount (m &&& ~~~ p &&& n.entry.stocked) =
        (allSlots.filter fun k => !p.has k && m.has k && n.entry.stocked.has k).length :=
      slotCount_eq fun k h1 h2 => by
        rw [SlotSet.has_and, SlotSet.has_and, SlotSet.has_not p h1 h2, Bool.and_comm (m.has k)]
    have event : slotsReported l a n m s = tamperSlots l a n (p &&& ~~~ m &&& n.entry.stocked)
        (m &&& ~~~ p &&& n.entry.stocked) (takeSlots l a m s) := by
      rcases hb with hb | hb | hb <;> simp [slotsReported, slotEvent, hp, hb]
    rw [event, takeSlots_eq hn]
    unfold tamperSlots
    rw [modBar_modNode, removals, returns, marks]
    rfl

end

end Sys2Proof.Machine

/-! ## Presentations at a minibar, and what its events do (R113 to R125) -/

namespace Sys2Proof.Machine

set_option Elab.async false

/-! ### A MINIBAR_DOOR event (R113, R114, R122, R125) -/

section
variable {s : State} {l : LineId} {a : Nat} {n : Node}

theorem minibarDoor_opens (ho : n.bar.state.isOpening = true) :
    minibarDoor l a n true s = (s.modNode l a fun y => { y with bar := { y.bar with opened := true } }) ∧
      (n.bar.opened = false → minibarDoor l a n false s = s) := by
  unfold minibarDoor
  cases hb : n.bar.state <;> simp [hb, BarState.isOpening] at ho ⊢
  · exact ⟨rfl, fun h hh => by simp [h] at hh⟩
  · exact ⟨rfl, fun h hh => by simp [h] at hh⟩

theorem minibarDoor_tampers (ho : n.bar.state.isOpening = false) : minibarDoor l a n false s = s ∧
    minibarDoor l a n true s = post .alarm (.minibarDoor (l, a)) (offer
      ⟨.minibarTamper, some (l, a), none, n.entry.room, .num 0, .num 0, .none⟩ s) := by
  unfold minibarDoor
  cases hb : n.bar.state with
  | openGuest => simp [hb, BarState.isOpening] at ho
  | openRestock => simp [hb, BarState.isOpening] at ho
  | locked => exact ⟨rfl, rfl⟩
  | settling => exact ⟨rfl, rfl⟩
  | chargeWait => exact ⟨rfl, rfl⟩
  | held => exact ⟨rfl, rfl⟩

theorem minibarDoor_guest (hb : n.bar.state = .openGuest) (ho : n.bar.opened = true) :
    minibarDoor l a n false s = endGuest l a n s := by simp [minibarDoor, hb, ho]

/-- A guest's opening that ends with no line pending, or with a return grace to run (R125). -/
theorem guestOpeningEnds (hn : s.node l a = some n) (hb : n.bar.state = .openGuest) (ho : n.bar.opened = true)
    (hg : n.bar.lines = [] ∨ s.settings.grace ≠ 0) :
    minibarDoor l a n false s = s.modNode l a fun y => { y with bar := { y.bar with
      latchEnd := none, opener := none, opened := false, backToSettling := false
      state := if n.bar.lines = [] then s.restState n.entry.room else .settling
      graceEnd := if n.bar.lines = [] then n.bar.graceEnd else some s.settings.grace } } := by
  rw [minibarDoor_guest hb ho]
  unfold endGuest
  by_cases hl : n.bar.lines = []
  · rw [if_pos (List.isEmpty_iff.mpr hl)]
    unfold modBar
    rw [comeToRest_modNode hn _ rfl]
    exact State.modNode_congr hn (by simp only [if_pos hl])
  · have grace := hg.resolve_left hl
    rw [if_neg (fun h => hl (List.isEmpty_iff.mp h))]
    unfold enterSettling
    have settings (f : BarRec → BarRec) : (modBar l a f s).settings = s.settings := by simp
    rw [settings, if_neg grace]
    refine (State.modNode_modNode ..).trans (State.modNode_congr hn ?_)
    simp only [if_neg hl]

/-- A guest's opening that ends with lines pending and no return grace (R125). -/
theorem guestOpeningCharges (hb : n.bar.state = .openGuest) (ho : n.bar.opened = true)
    (hl : n.bar.lines ≠ []) (hg : s.settings.grace = 0) :
    minibarDoor l a n false s = graceEnds l a (n.entry.room.getD 0) (s.modNode l a fun y =>
      { y with bar := { y.bar with latchEnd := none, opener := none, opened := false, backToSettling := false,
                                   state := .settling, graceEnd := some 0 } }) := by
  rw [minibarDoor_guest hb ho]
  unfold endGuest
  rw [if_neg (fun h => hl (List.isEmpty_iff.mp h))]
  unfold enterSettling
  have settings (f : BarRec → BarRec) : (modBar l a f s).settings = s.settings := by simp
  rw [settings, if_pos hg, hg]
  exact congrArg _ (State.modNode_modNode ..)

/-- A restock opening that ends (R122). -/
theorem restockOpeningEnds (hn : s.node l a = some n) (hb : n.bar.state = .openRestock) (ho : n.bar.opened = true) :
    ∃ base : SlotSet, ∃ u,
      (∀ k, 1 ≤ k → k ≤ 12 → base.has k = (n.entry.stocked.has k && (n.bar.present.getD 0).has k)) ∧
      u = offer ⟨.restock, some (l, a), n.bar.opener.bind (fun k => if k = 0 then none else some k), n.entry.room,
          .num (allSlots.filter fun k => base.has k && !n.entry.baseline.has k).length,
          .num (allSlots.filter fun k => base.has k).length, .none⟩
        (s.modNode l a fun y => { y with
          entry := { y.entry with baseline := base }
          bar := { y.bar with missing := 0, latchEnd := none, opener := none, opened := false,
                              state := s.restState n.entry.room } }) ∧
      minibarDoor l a n false s = if base = n.entry.baseline then u else enqueue (.node l a) u := by
  have added : slotCount (n.restocked &&& ~~~ n.entry.baseline) =
      (allSlots.filter fun k => n.restocked.has k && !n.entry.baseline.has k).length :=
    slotCount_eq fun k h1 h2 => by rw [SlotSet.has_and, SlotSet.has_not _ h1 h2]
  have rested := comeToRest_modNode hn (fun y => { y with
    entry := { y.entry with baseline := y.restocked },
    bar := { y.bar with missing := 0, latchEnd := none, opener := none, opened := false } }) rfl
  refine ⟨n.restocked, _, fun k _ _ => SlotSet.has_and _ _ k, rfl, ?_⟩
  have ends : minibarDoor l a n false s = endRestock l a n s := by simp [minibarDoor, hb, ho]
  rw [ends]
  unfold endRestock restockBody
  dsimp only
  rw [rested, added]
  have same := State.modNode_congr hn (f := fun y => { y with
      entry := { y.entry with baseline := y.restocked },
      bar := { y.bar with missing := 0, latchEnd := none, opener := none, opened := false,
                          state := s.restState n.entry.room } })
    (g := fun y => { y with
      entry := { y.entry with baseline := n.restocked },
      bar := { y.bar with missing := 0, latchEnd := none, opener := none, opened := false,
                          state := s.restState n.entry.room } }) rfl
  rw [same]
  rfl

end

/-! ### The orders and records of a decision (R114, R115, R119) -/

section
variable {s : State} {l : LineId} {a : Nat} {n : Node} {o : Order}

theorem queued_nil : s.queued l [] = s := by
  have same : s.lines.set l { s.line l with queue := (s.line l).queue ++ [] } = s.lines :=
    PerLine.ext_get fun i => by
      by_cases hi : i = l
      · subst hi; simp [State.line]
      · rw [PerLine.get_set_other _ _ hi]
  unfold State.queued
  rw [same]

theorem placeOrder_queued (hr : (s.line l).running = true) (hq : (s.line l).queue.length < 16)
    (hc : o.cls = .decision) : placeOrder l o s = s.queued l [o] := by
  have places : (s.line l).places o.cls = true := by
    simp only [Line.places, hr, hc, Bool.true_and]
    exact decide_eq_true hq
  unfold placeOrder
  rw [if_pos places]
  rfl

theorem modBar_queued (f : BarRec → BarRec) (os : List Order) :
    modBar l a f (s.queued l os) = s.barOrder l a os f := by
  unfold modBar State.barOrder State.modNode State.modNodeAt
  rw [show (s.queued l os).nodes = s.nodes from rfl]
  cases s.nodes.get (nodeKey l a) <;> rfl

/-- The decisions that refuse. -/
def Decision.refuses : Decision → Bool
  | .grant | .grantOverride | .grantHeld => false
  | _ => true

/-- What a refusal queues for the node. -/
def refusalOrders (a : Nat) (d : Decision) : List Order :=
  if d = .denyStale then [] else [⟨.denySignal, .decision, some a, 0⟩]

theorem placeDecision_refuses {d : Decision} (hd : d.refuses = true) (hr : (s.line l).running = true)
    (hq : (s.line l).queue.length < 16) (time : Nat) :
    placeDecision l a time d s = s.queued l (refusalOrders a d) := by
  by_cases stale : d = .denyStale
  · subst stale; exact queued_nil.symm
  · have order : d.order a time = some ⟨.denySignal, .decision, some a, 0⟩ := by
      cases d <;> first | rfl | exact absurd rfl stale | cases hd
    unfold placeDecision refusalOrders
    rw [order, if_neg stale]
    exact placeOrder_queued hr hq rfl

theorem refuseBar_eq {d : Decision} {p : Presentation} {room : Nat} (hd : d.refuses = true)
    (hr : (s.line l).running = true) (hq : (s.line l).queue.length < 16) (hroom : n.entry.room = some room) :
    refuseBar l a n p d s = offer ⟨.refuse, some (l, a), if p.number = 0 then none else some p.number, some room,
      .decision d, .num p.age, .none⟩ (s.queued l (if d = .denyStale then [] else [⟨.denySignal, .decision, some a, 0⟩])) := by
  unfold refuseBar
  rw [placeDecision_refuses hd hr hq, refuseBody, hroom]
  rfl

theorem grantBar_eq {p : Presentation} {room sum : Nat} {kind : JVal} {f g : BarRec → BarRec}
    (hr : (s.line l).running = true) (hq : (s.line l).queue.length < 16) (hroom : n.entry.room = some room)
    (hf : ∀ m, s.node l a = some m → { f m.bar with latchEnd := some s.settings.latch, opener := some p.number } =
      g m.bar) :
    grantBar l a n p f kind sum s = offer ⟨.minibarOpen, some (l, a), if p.number = 0 then none else some p.number,
      some room, kind, .num sum, .none⟩ (s.barOrder l a [⟨.unlatch, .decision, some a, s.settings.latch⟩] g) := by
  have placed : placeDecision l a s.settings.latch .grant s =
      s.queued l [⟨.unlatch, .decision, some a, s.settings.latch⟩] := placeOrder_queued hr hq rfl
  have bar : (s.modNode l a fun y => { y with bar :=
        { f y.bar with latchEnd := some s.settings.latch, opener := some p.number } }) =
      s.modNode l a fun y => { y with bar := g y.bar } := by
    cases hn : s.node l a with
    | none =>
      unfold State.modNode State.modNodeAt; rw [show s.nodes.get (nodeKey l a) = none from hn]
    | some m => exact State.modNode_congr hn (by rw [hf m hn])
  unfold grantBar
  dsimp only
  rw [placed, modBar_queued, openBody, hroom]
  unfold State.barOrder
  rw [bar]
  rfl

end

/-! ### The decision (R115 to R118) -/

section
variable {s : State} {l : LineId} {a room sum : Nat} {n : Node} {p : Presentation} {r : CredRec} {x : Room}
  {d : Decision}

theorem recordTests_refuses (h : s.recordTests p r = some d) : d.refuses = true ∧ d ≠ .denyTabLimit := by
  unfold State.recordTests stateRefusal at h
  cases hr : r.state <;> simp only [hr] at h <;> first
    | (cases h; exact ⟨rfl, by decide⟩)
    | (split at h
       · cases h; exact ⟨rfl, by decide⟩
       · split at h
         · cases h; exact ⟨rfl, by decide⟩
         · split at h
           · cases h; exact ⟨rfl, by decide⟩
           · cases h)

theorem cardTests_refuses (h : s.cardTests p = .inr d) : d.refuses = true ∧ d ≠ .denyTabLimit := by
  unfold State.cardTests at h
  split at h
  · cases h; exact ⟨rfl, by decide⟩
  · split at h
    · cases h; exact ⟨rfl, by decide⟩
    · split at h
      · cases h; split <;> exact ⟨rfl, by decide⟩
      · split at h
        · next hd => cases h; exact recordTests_refuses hd
        · cases h

/-- The refusal of a guest, as the statement puts it. -/
theorem guestTests_eq (hroom : n.entry.room = some room) (hx : s.rooms.get room = some x)
    (hsum : sum = x.entry.tab + s.pendingTotal room) (hc : s.cardTests p = .inl r) (hk : r.kind = .guest) :
    s.guestTests n r = s.barRefusal n x room sum p := by
  have limit : s.tabLimit room = x.entry.limit := by simp [State.tabLimit, hx]
  have bound : n.entry.boundRoom = room := by simp [NodeEntry.boundRoom, hroom]
  have total : s.openSum room = sum := by rw [State.openSum, tab_of hx, hsum]
  unfold State.guestTests State.barRefusal
  simp only [hc, hk, bound, currentIssue_of hx, limit, total]
  have tabs : (if x.entry.limit ≤ sum then some Decision.denyTabLimit else none) =
      if sum < x.entry.limit then none else some .denyTabLimit := by
    simp only [← Nat.not_lt, ite_not]
  rw [tabs, ite_or]
  cases n.bar.state <;> rfl

theorem restockTests_eq (hc : s.cardTests p = .inl r) (hk : r.kind = .restock ∨ r.kind = .master) :
    s.restockTests n r = s.barRefusal n x room sum p := by
  unfold State.restockTests State.barRefusal State.staffTests
  rcases hk with hk | hk
  · simp only [hc, hk]
    cases r.mask.has n.entry.group <;> cases s.inWindow r <;> simp
  · simp [hc, hk]

end

end Sys2Proof.Machine

/-! ## The decision at a minibar, and the obligation (R115 to R119) -/

namespace Sys2Proof.Machine

set_option Elab.async false

section
variable {s : State} {l : LineId} {a room sum : Nat} {n : Node} {p : Presentation} {r : CredRec} {x : Room}
  {d : Decision}

theorem guestTests_refuses (h : s.guestTests n r = some d) : d.refuses = true := by
  unfold State.guestTests at h
  cases hb : n.bar.state <;> simp only [hb, guestStateRefusal] at h <;> split_ifs at h <;> cases h <;> rfl

theorem restockTests_refuses (h : s.restockTests n r = some d) : d.refuses = true ∧ d ≠ .denyTabLimit := by
  unfold State.restockTests State.staffTests at h
  cases hb : n.bar.state <;> simp only [hb] at h <;> split_ifs at h <;> cases h <;> exact ⟨rfl, by decide⟩

theorem guestPresents_refused (h : s.guestTests n r = some d) : guestPresents l a n p r s = refuseBar l a n p d
    (if d = .denyTabLimit then post .minibar (.tabLimit n.entry.boundRoom (s.openSum n.entry.boundRoom)) s else s) := by
  unfold guestPresents
  rw [h]
  cases d <;> rfl

/-- A presentation refused: one of DENY_TAB_LIMIT posts its occurrence first. -/
theorem minibarPresents_refused (hroom : n.entry.room = some room) (hx : s.rooms.get room = some x)
    (hsum : sum = x.entry.tab + s.pendingTotal room) (hd : s.barRefusal n x room sum p = some d) :
    d.refuses = true ∧ minibarPresents l a n p s = refuseBar l a n p d
      (if d = .denyTabLimit then post .minibar (.tabLimit room sum) s else s) := by
  unfold minibarPresents
  cases hc : s.cardTests p with
  | inr e =>
    dsimp only
    obtain ⟨refuses, ne⟩ := cardTests_refuses hc
    have same : e = d := by simpa [State.barRefusal, hc] using hd
    subst same
    exact ⟨refuses, by rw [if_neg ne]⟩
  | inl r =>
    have restock (hk : r.kind = .restock ∨ r.kind = .master) : d.refuses = true ∧ restockPresents l a n p r s =
        refuseBar l a n p d (if d = .denyTabLimit then post .minibar (.tabLimit room sum) s else s) := by
      have tests := (restockTests_eq (n := n) (x := x) (room := room) (sum := sum) hc hk).trans hd
      obtain ⟨refuses, ne⟩ := restockTests_refuses tests
      exact ⟨refuses, by unfold restockPresents; rw [tests, if_neg ne]⟩
    dsimp only
    cases hk : r.kind with
    | guest =>
      have tests := (guestTests_eq hroom hx hsum hc hk).trans hd
      have bound : n.entry.boundRoom = room := by simp [NodeEntry.boundRoom, hroom]
      have total : s.openSum room = sum := by rw [State.openSum, tab_of hx, hsum]
      exact ⟨guestTests_refuses tests, (guestPresents_refused tests).trans (by rw [bound, total])⟩
    | staff =>
      have same : Decision.denyNoPrivilege = d := by simpa [State.barRefusal, hc, hk] using hd
      subst same
      exact ⟨rfl, rfl⟩
    | restock => exact restock (.inl hk)
    | master => exact restock (.inr hk)

/-! ### A restock of a minibar in SETTLING -/

theorem finaliseLines_chargedTo (ls : FMap PendingLine) (s : State) (hn : s.node l a = some n) :
    ∃ m, (finaliseLines l a room ls s).1.node l a = some m ∧ n.chargedTo m := by
  induction ls generalizing s n with
  | nil => exact ⟨n, hn, .refl n⟩
  | cons e ls ih =>
    unfold finaliseLines
    by_cases h : s.journal.takesMoney = true ∧ s.store.canQueue [.room room] 0 = true
    · rw [finaliseLine_eq_some h]
      have node := (lineCharged_leaveSlot (l := l) (a := a) (k := e.1) (p := e.2) h.2).node
      rw [hn] at node
      obtain ⟨m, last, charged⟩ := ih _ node
      exact ⟨m, last, (Node.chargedTo.mk rfl).trans charged⟩
    · rw [finaliseLine_eq_none h]
      exact ⟨n, hn, .refl n⟩

/-- What a restock presentation that passes the tests meets: the minibar as it stands, or, one in SETTLING, its lines
finalised as far as they go. -/
theorem restockPresents_passed {u : State} {whole : Bool} (ht : s.restockTests n r = none)
    (hu : (n.bar.state ≠ .settling ∧ u = s ∧ whole = true) ∨ (n.bar.state = .settling ∧ (u, whole) = finaliseBar l a
      (s.modNode l a fun y => { y with bar := { y.bar with graceEnd := none } }))) :
    restockPresents l a n p r s = if whole = true then grantBar l a n p restockOpens .restock 0 u
      else refuseBar l a n p .denyChargeWait (enterChargeWait l a n.entry.boundRoom u) := by
  unfold restockPresents
  rw [ht]
  dsimp only
  rcases hu with ⟨hb, rfl, rfl⟩ | ⟨hb, hf⟩
  · rw [if_neg hb, if_pos rfl]
  · rw [if_pos hb]
    unfold modBar
    rw [← hf]

theorem restock_keeps {u : State} {whole : Bool} (hn : s.node l a = some n)
    (hu : (n.bar.state ≠ .settling ∧ u = s ∧ whole = true) ∨ (n.bar.state = .settling ∧ (u, whole) = finaliseBar l a
      (s.modNode l a fun y => { y with bar := { y.bar with graceEnd := none } }))) :
    u.lines = s.lines ∧ u.settings = s.settings ∧ ∃ m, u.node l a = some m ∧
      m.bar.state = n.bar.state ∧ m.bar.opened = n.bar.opened := by
  rcases hu with ⟨hb, rfl, rfl⟩ | ⟨hb, hf⟩
  · exact ⟨rfl, rfl, n, hn, rfl, rfl⟩
  · have node : (s.modNode l a fun y => { y with bar := { y.bar with graceEnd := none } }).node l a =
        some { n with bar := { n.bar with graceEnd := none } } := by rw [State.node_modNode_self, hn]; rfl
    have same : u = (finaliseBar l a (s.modNode l a fun y => { y with bar := { y.bar with graceEnd := none } })).1 :=
      congrArg Prod.fst hf
    obtain ⟨m, last, charged⟩ := finaliseLines_chargedTo (room := n.entry.room.getD 0) n.bar.lines _ node
    refine ⟨by rw [same]; simp, by rw [same]; simp, m, ?_, by rw [charged.same], by rw [charged.same]⟩
    rw [same, finaliseBar_eq node]
    exact last

end

/-! ### The obligation -/

section
variable {s : State} {l : LineId} {a room sum : Nat} {n : Node} {p : Presentation} {r : CredRec} {x : Room}

theorem presentationRefused {d : Decision} (hroom : n.entry.room = some room) (hx : s.rooms.get room = some x)
    (hsum : sum = x.entry.tab + s.pendingTotal room) (hr : (s.line l).running = true)
    (hq : (s.line l).queue.length < 16) (hd : s.barRefusal n x room sum p = some d) :
    minibarPresents l a n p s = offer ⟨.refuse, some (l, a), if p.number = 0 then none else some p.number, some room,
        .decision d, .num p.age, .none⟩
      ((if d = .denyTabLimit then post .minibar (.tabLimit room sum) s else s).queued l
        (if d = .denyStale then [] else [⟨.denySignal, .decision, some a, 0⟩])) := by
  obtain ⟨refuses, presents⟩ := minibarPresents_refused (l := l) (a := a) hroom hx hsum hd
  have line : (if d = .denyTabLimit then post .minibar (.tabLimit room sum) s else s).line l = s.line l := by
    split
    · simp [State.line]
    · rfl
  rw [presents]
  exact refuseBar_eq refuses (by rw [line]; exact hr) (by rw [line]; exact hq) hroom

theorem guestOpensBar (hn : s.node l a = some n) (hroom : n.entry.room = some room) (hx : s.rooms.get room = some x)
    (hsum : sum = x.entry.tab + s.pendingTotal room) (hr : (s.line l).running = true)
    (hq : (s.line l).queue.length < 16) (hd : s.barRefusal n x room sum p = none) (hc : s.cardTests p = .inl r)
    (hk : r.kind = .guest) :
    minibarPresents l a n p s =
      offer ⟨.minibarOpen, some (l, a), if p.number = 0 then none else some p.number, some room, .guest, .num sum,
          .none⟩
        (s.barOrder l a [⟨.unlatch, .decision, some a, s.settings.latch⟩] fun y => { y with
          state := .openGuest
          opened := y.opened && decide (n.bar.state = .openGuest)
          backToSettling := decide (n.bar.state = .settling) ||
            (y.backToSettling && decide (n.bar.state = .openGuest))
          graceEnd := if n.bar.state = .settling then none else y.graceEnd
          latchEnd := some s.settings.latch, opener := some p.number }) := by
  have tests := (guestTests_eq hroom hx hsum hc hk).trans hd
  have bound : n.entry.boundRoom = room := by simp [NodeEntry.boundRoom, hroom]
  have total : s.openSum room = sum := by rw [State.openSum, tab_of hx, hsum]
  have grants : minibarPresents l a n p s = grantBar l a n p guestOpens .guest sum s := by
    unfold minibarPresents guestPresents
    rw [hc]
    simp only [hk, tests, bound, total]
  rw [grants]
  refine grantBar_eq hr hq hroom fun m hm => ?_
  have same : m = n := Option.some.inj (hm.symm.trans hn)
  subst same
  cases hb : m.bar.state <;> simp [guestOpens, hb]

theorem restockOpensBar (hn : s.node l a = some n) (hroom : n.entry.room = some room)
    (hr : (s.line l).running = true) (hq : (s.line l).queue.length < 16)
    (hd : s.barRefusal n x room sum p = none) (hc : s.cardTests p = .inl r)
    (hk : r.kind = .restock ∨ r.kind = .master) (u : State) (whole : Bool)
    (hu : (n.bar.state ≠ .settling ∧ u = s ∧ whole = true) ∨ (n.bar.state = .settling ∧ (u, whole) = finaliseBar l a
      (s.modNode l a fun y => { y with bar := { y.bar with graceEnd := none } }))) :
    (whole = true → minibarPresents l a n p s =
      offer ⟨.minibarOpen, some (l, a), if p.number = 0 then none else some p.number, some room, .restock, .num 0,
          .none⟩
        (u.barOrder l a [⟨.unlatch, .decision, some a, s.settings.latch⟩] fun y => { y with
          state := .openRestock, opened := y.opened && decide (n.bar.state = .openRestock)
          latchEnd := some s.settings.latch, opener := some p.number })) ∧
    (whole = false → minibarPresents l a n p s =
      offer ⟨.refuse, some (l, a), if p.number = 0 then none else some p.number, some room,
          .decision .denyChargeWait, .num p.age, .none⟩
        ((post .minibar (.charges room (u.lineCount l a))
          (u.modNode l a fun y => { y with bar := { y.bar with state := .chargeWait } })).queued l
            [⟨.denySignal, .decision, some a, 0⟩])) := by
  obtain ⟨lines, settings, m, node, state, opened⟩ := restock_keeps hn hu
  have tests := (restockTests_eq (n := n) (x := x) (room := room) (sum := sum) hc hk).trans hd
  have passed : minibarPresents l a n p s = restockPresents l a n p r s := by
    unfold minibarPresents
    rw [hc]
    rcases hk with hk | hk <;> simp only [hk]
  have line : u.line l = s.line l := congrArg (PerLine.get · l) lines
  rw [passed, restockPresents_passed tests hu]
  constructor
  · rintro rfl
    rw [if_pos rfl, ← settings]
    refine grantBar_eq (line ▸ hr) (line ▸ hq) hroom fun m' hm => ?_
    have same : m' = m := Option.some.inj (hm.symm.trans node)
    subst same
    rw [← state]
    cases hb : m'.bar.state <;> simp [restockOpens, hb]
  · rintro rfl
    rw [if_neg (by decide)]
    have bound : n.entry.boundRoom = room := by simp [NodeEntry.boundRoom, hroom]
    have waits : (enterChargeWait l a room u).line l = s.line l :=
      (congrArg (PerLine.get · l) (by simp)).trans line
    rw [bound]
    exact refuseBar_eq rfl (waits ▸ hr) (waits ▸ hq) hroom

end

/-- Settles O47: each event of a minibar by its branch; changes of one node merge into one, and the tests of a
presentation are those of the statement. -/
theorem minibarsAreOpenedAndCharged : Obligations.MinibarsAreOpenedAndCharged := by
  refine ⟨?_, ?_, ?_, ?_⟩
  · intro s l a k n reported _ _ hn hs
    refine ⟨?_, ?_, ?_, ?_⟩
    · rintro hr hb line rfl
      rw [guestSlot_removed hs hr, if_pos hb, newLine_eq]
      rfl
    · intro hr hb
      rw [guestSlot_removed hs hr, if_neg (by rw [hb]; decide)]
    · intro hr hl
      rw [guestSlot_returned hs hr, if_pos hl]
      rfl
    · intro hr hl
      rw [guestSlot_returned hs hr, if_neg (by rw [hl]; decide)]
      rfl
  · intro s l a n m hn
    exact ⟨missingAfter n m, slotsReported_first hn, fun p hp hb u hu => slotsReported_guest hn hp hb hu,
      fun p hp hb => slotsReported_restock hn hp hb, fun p hp hb => slotsReported_tamper hn hp hb⟩
  · intro s l a n hn
    exact ⟨minibarDoor_opens, minibarDoor_tampers, guestOpeningEnds hn, guestOpeningCharges, restockOpeningEnds hn⟩
  · intro s l a room sum n p x hn hroom hx hsum hr hq
    exact ⟨fun d hd => presentationRefused hroom hx hsum hr hq hd,
      fun r hd hc hk => guestOpensBar hn hroom hx hsum hr hq hd hc hk,
      fun r hd hc hk u whole hu => restockOpensBar hn hroom hr hq hd hc hk u whole hu⟩

end Sys2Proof.Machine

/-! ## What the steps of a cold start leave (R184 to R189)

A cold start is a chain of small steps over volatile state that has just started. `boots` says what each of them
leaves: the parts it never touches, the slots of the store, and the occurrences it may post; `takes` says how the
journal unit grows. -/

namespace Sys2Proof.Machine

set_option Elab.async false

/-! ### Occurrences of the start -/

/-- The link is the same but for occurrences of the start posted in turn. -/
structure Link.hears (l m : Link) : Prop where
  rest : { m with notices := l.notices } = l
  heard : ∀ k, ∃ ds : List Detail, (∀ d ∈ ds, startOccurrence k d) ∧
    m.notices.get k = ds.foldl Notice.occur (l.notices.get k)

namespace Link.hears

variable {l m n : Link}

theorem refl (l : Link) : l.hears l := ⟨rfl, fun _ => ⟨[], nofun, rfl⟩⟩

theorem trans (h : l.hears m) (g : m.hears n) : l.hears n := by
  refine ⟨?_, fun k => ?_⟩
  · have hr := h.rest; have gr := g.rest
    rw [← hr, ← gr]
  · obtain ⟨ds, hd, hm⟩ := h.heard k
    obtain ⟨es, he, hn⟩ := g.heard k
    refine ⟨ds ++ es, fun d hx => (List.mem_append.mp hx).elim (hd d) (he d), ?_⟩
    rw [hn, hm, List.foldl_append]

theorem of_eq (h : m = l) : l.hears m := h ▸ refl l

theorem post {s : State} {c : NoticeClass} {d : Detail} (h : startOccurrence c d) :
    s.link.hears (post c d s).link := by
  refine ⟨rfl, fun k => ?_⟩
  by_cases hk : k = c
  · subst hk
    exact ⟨[d], fun e he => by rw [List.mem_singleton.mp he]; exact h, post_notice_self k d s⟩
  · exact ⟨[], nofun, post_notice_other d s hk⟩

theorem field (h : l.hears m) {β : Type} (f : Link → β) (hf : ∀ n, f { m with notices := n } = f m) : f m = f l := by
  rw [← h.rest]; exact (hf _).symm

end Link.hears

/-! ### What every step of a cold start leaves -/

/-- The parts a cold start changes as it goes. -/
def bootParts : List Part := [.rooms, .nodes, .groups, .prices, .settings, .cred, .lines, .journal, .store, .link]

/-- The sectors, the identity places and the identity in use are the same. -/
structure Store.stands (t u : Store) : Prop where
  tlog : u.tlog = t.tlog
  jreg : u.jreg = t.jreg
  idPlaces : u.idPlaces = t.idPlaces
  identity : u.identity = t.identity

theorem Store.stands.refl (t : Store) : t.stands t := ⟨rfl, rfl, rfl, rfl⟩

theorem Store.stands.trans {t u v : Store} (h : t.stands u) (g : u.stands v) : t.stands v :=
  ⟨g.tlog.trans h.tlog, g.jreg.trans h.jreg, g.idPlaces.trans h.idPlaces, g.identity.trans h.identity⟩

/-- What a step of a cold start leaves. -/
structure boots (s t : State) : Prop where
  parts : keepsBut bootParts s t
  link : s.link.hears t.link
  store : s.store.stands t.store

namespace boots

variable {s t u : State}

theorem refl (s : State) : boots s s := ⟨keepsBut_refl _ s, .refl _, .refl _⟩

theorem trans (h : boots s t) (g : boots t u) : boots s u :=
  ⟨keepsBut_trans h.parts g.parts, h.link.trans g.link, h.store.trans g.store⟩

/-- A step that leaves the store and the link. -/
theorem of_keeps (h : keepsBut bootParts s t) (hs : t.store = s.store) (hl : t.link = s.link) : boots s t :=
  ⟨h, .of_eq hl, hs ▸ .refl _⟩

theorem foldl {α : Type} {f : State → α → State} (l : List α) (s : State) (h : ∀ x, ∀ a ∈ l, boots x (f x a)) :
    boots s (l.foldl f s) := by
  induction l generalizing s with
  | nil => exact refl s
  | cons a l ih =>
    exact (h s a (by simp)).trans (ih _ fun x b hb => h x b (List.mem_cons_of_mem _ hb))

theorem post {c : NoticeClass} {d : Detail} (h : startOccurrence c d) : boots s (post c d s) :=
  ⟨fun p hp => by cases p <;> first | rfl | simp [bootParts] at hp, .post h, .refl _⟩

theorem onStore {f : Store → Store} (h : s.store.stands (f s.store)) : boots s (s.onStore f) :=
  ⟨fun p hp => by cases p <;> first | rfl | simp [bootParts] at hp, .refl _, h⟩

theorem onJournal (f : Journal → Journal) : boots s (s.onJournal f) :=
  of_keeps (fun p hp => by cases p <;> first | rfl | simp [bootParts] at hp) rfl rfl

theorem onCred (f : CredUnit → CredUnit) : boots s (s.onCred f) :=
  of_keeps (fun p hp => by cases p <;> first | rfl | simp [bootParts] at hp) rfl rfl

theorem enqueue (k : EntryKey) : boots s (enqueue k s) := by
  refine onStore (f := fun t => t.offerChange k (s.entryVal k)) ?_
  unfold Store.offerChange
  repeat' split
  all_goals exact ⟨rfl, rfl, rfl, rfl⟩

theorem enqueueAll (ks : List EntryKey) : boots s (ks.foldl (fun x k => Machine.enqueue k x) s) :=
  foldl ks s fun _ k _ => enqueue k

/-! #### The table log's head -/

theorem stall : boots s (stall s) := by
  unfold Machine.stall
  split
  · exact refl s
  · exact (onStore (f := fun t => { t with stalled := true }) ⟨rfl, rfl, rfl, rfl⟩).trans (post (.inl rfl))

theorem countErased : boots s (countErased s) := by
  unfold Machine.countErased
  split
  · exact refl s
  · split
    · exact onStore ⟨rfl, rfl, rfl, rfl⟩
    · exact stall

theorem moveLogHead (copy : Bool) : boots s (moveLogHead copy s) := by
  have moved (k : Nat) (x : State) : boots x (Machine.countErased (x.onStore fun t => { t with head := k })) :=
    (onStore (f := fun t => { t with head := k }) ⟨rfl, rfl, rfl, rfl⟩).trans countErased
  unfold Machine.moveLogHead
  split
  · exact refl s
  · split
    · exact stall
    · next k _ =>
      have held : boots s (if s.store.hasReclaim && !s.draining then holdWriter s else s) := by
        split
        · exact onStore ⟨rfl, rfl, rfl, rfl⟩
        · exact refl s
      have last (x : State) : boots x (if x.store.held && !copy then x
          else Machine.countErased (x.onStore fun t => { t with head := k })) := by
        split
        · exact refl x
        · exact moved k x
      exact held.trans (last _)
    · next k _ _ _ => exact moved k s

theorem testReadOnly : boots s (testReadOnly s) := by
  unfold Machine.testReadOnly
  split
  · exact (onStore (f := fun t => { t with readOnly := true }) ⟨rfl, rfl, rfl, rfl⟩).trans (post (.inr (.inl rfl)))
  · exact refl s

theorem applyRec (r : LogRec) : boots s (applyRec s r) :=
  of_keeps (fun p hp => by cases p <;> first | (simp [bootParts] at hp; done) | simp [Part.same]) (by simp) (by simp)

/-! #### The journal unit -/

theorem acceptRec (b : JBody) : boots s (acceptRec b s) := by
  unfold Machine.acceptRec
  dsimp only
  split
  · exact (onJournal _).trans (post (.inr (.inr rfl)))
  · exact onJournal _

theorem acceptGap : boots s (acceptGap s) :=
  (onJournal fun j => { j with dropAdm := 0, dropOther := 0 }).trans (acceptRec s.journal.gapBody)

theorem offer (b : JBody) : boots s (offer b s) := by
  have dropped (x : State) : boots x (dropRec b x) := onJournal _
  unfold Machine.offer
  split
  · exact dropped s
  · split
    · split
      · split
        · exact acceptGap.trans (dropped _)
        · exact acceptGap.trans (acceptRec b)
      · exact dropped s
    · split
      · exact acceptRec b
      · exact dropped s

theorem offerOverrun (r : Nat × Nat) : boots s (offerOverrun r s) := by
  unfold Machine.offerOverrun
  split
  · exact onJournal _
  · split
    · exact acceptRec _
    · exact onJournal _

theorem moveJournalHead : boots s (moveJournalHead s) := by
  unfold Machine.moveJournalHead chooseSpare
  exact (onJournal _).trans (onJournal _)

theorem startWriter : boots s (startWriter s).1 := by
  unfold Machine.startWriter
  split
  · exact ((onJournal _).trans (onStore ⟨rfl, rfl, rfl, rfl⟩)).trans (post (.inr (.inr rfl)))
  · split
    · exact refl s
    · split
      · exact moveJournalHead
      · split
        · exact onJournal fun j => { j with writer := .waitingSpare }
        · split
          · exact onJournal fun j => { j with writer := .full }
          · exact ((onJournal _).trans (enqueue .journalState)).trans (post (.inr (.inl ⟨_, _, rfl⟩)))

theorem postStartLevel : boots s (postStartLevel s) := by
  unfold Machine.postStartLevel
  dsimp only
  split
  · exact post (.inl ⟨_, .inl rfl⟩)
  · split
    · exact post (.inl ⟨_, .inr (.inl rfl)⟩)
    · split
      · exact post (.inl ⟨_, .inr (.inr rfl)⟩)
      · exact refl s

/-! #### The credential unit's start-up work -/

theorem reportDisplaced (number seq : Nat) (expiry : EndMinute) : boots s (reportDisplaced number seq expiry s) :=
  (offer _).trans (post ⟨number, rfl⟩)

theorem applyVerdict (v : ListVerdict) (e : RevEntry) : boots s (applyVerdict v e s) := by
  have entered (i : Nat) : boots s (enterAt i e s) := by unfold enterAt; exact onCred _
  cases v with
  | notEntered => exact refl s
  | enters i => exact entered i
  | displaces i q old => exact (entered i).trans (reportDisplaced _ _ _)
  | leftOut => exact reportDisplaced _ _ _

theorem revokeReported (slot : Nat) (why : RevReason) : boots s (revokeReported slot why s) := by
  unfold Machine.revokeReported
  split
  · exact refl s
  · next r hr =>
    refine boots.trans ?_ (offer _)
    rw [revokeCred_eq hr]
    exact ((onCred _).trans (applyVerdict _ _)).trans (enqueueAll _)

theorem minuteWork (m : Nat) : boots s (minuteWork m s) :=
  ((onCred _).trans (onCred _)).trans (foldl _ _ fun _ i _ => enqueue (.listPlace i))

theorem modRoom (i : Nat) (f : Room → Room) : boots s (s.modRoom i f) :=
  of_keeps (fun p hp => by cases p <;> first | (simp [bootParts] at hp; done) | simp [Part.same]) (by simp) (by simp)

theorem raiseIssue (found : FMap CredRec) (room : Nat) : boots s (raiseIssue found s room) := by
  unfold Machine.raiseIssue
  dsimp only
  split
  · exact (modRoom _ _).trans (enqueue _)
  · exact refl s

theorem supersedeOld (room : Nat) : boots s (supersedeOld s room) :=
  foldl _ _ fun _ e _ => (onCred _).trans (enqueue (.cred e.1))

theorem credentialStart : boots s (credentialStart s) := by
  have revoked : boots s (List.foldl (fun x (e : Nat × CredRec) => Machine.revokeReported e.1 .issueAborted x)
      (s.onCred fun c => { c with revCount := c.highestSeq })
      (s.cred.slots.filter fun e => decide (e.2.state = .pending))) :=
    (onCred _).trans (foldl _ _ fun _ e _ => revokeReported e.1 .issueAborted)
  unfold Machine.credentialStart
  dsimp only
  refine boots.trans ?_ (onCred _)
  refine boots.trans ?_ (foldl _ _ fun x e _ => (raiseIssue s.cred.slots e.1).trans (supersedeOld e.1))
  split
  · exact revoked.trans (minuteWork _)
  · exact revoked

/-! #### The engine -/

theorem serve (r : Requester) : boots s (serve r s) := by
  unfold Machine.serve
  split
  · split
    · exact refl s
    · exact onStore ⟨rfl, rfl, rfl, rfl⟩
    · refine onStore ⟨?_, ?_, ?_, ?_⟩ <;> (unfold Store.takeOldest; split <;> rfl)
  · split
    · exact refl s
    · exact onStore ⟨rfl, rfl, rfl, rfl⟩
  · split
    · exact refl s
    · exact onStore ⟨rfl, rfl, rfl, rfl⟩
    · exact (moveLogHead true).trans (onStore ⟨rfl, rfl, rfl, rfl⟩)

theorem pumpEngine : boots s (pumpEngine s) := by
  unfold Machine.pumpEngine
  split
  · exact refl s
  · split
    · exact refl s
    · unfold orderSuspension
      split
      · exact onStore ⟨rfl, rfl, rfl, rfl⟩
      · exact refl s
    · split
      · exact serve _
      · unfold resume
        split
        · exact refl s
        · exact onStore ⟨rfl, rfl, rfl, rfl⟩

end boots

end Sys2Proof.Machine

/-! ## How the journal unit grows, and what the credential unit's start-up work leaves (R44, R137) -/

namespace Sys2Proof.Machine

set_option Elab.async false

/-! ### The journal unit in a cold start -/

/-- The journal unit takes records in; below the last sequence it posts nothing to its class. -/
structure takes (s t : State) : Prop where
  journal : s.journal.takesIn t.journal
  grows : s.journal.nextSeq ≤ t.journal.nextSeq
  quiet : t.journal.nextSeq ≤ max32 → t.link.notices.get .journal = s.link.notices.get .journal

namespace takes

variable {s t u : State}

theorem refl (s : State) : takes s s := ⟨.refl _, Nat.le_refl _, fun _ => rfl⟩

theorem trans (h : takes s t) (g : takes t u) : takes s u :=
  ⟨h.journal.trans g.journal, h.grows.trans g.grows, fun hu => (g.quiet hu).trans (h.quiet (g.grows.trans hu))⟩

theorem of_eq (hj : t.journal = s.journal) (hl : t.link.notices.get .journal = s.link.notices.get .journal) :
    takes s t := ⟨hj ▸ .refl _, by rw [hj], fun _ => hl⟩

theorem foldl {α : Type} {f : State → α → State} (l : List α) (s : State) (h : ∀ x a, takes x (f x a)) :
    takes s (l.foldl f s) := by
  induction l generalizing s with
  | nil => exact refl s
  | cons a l ih => exact (h s a).trans (ih _)

theorem dropHeld_nextSeq (j : Journal) : j.dropHeld.nextSeq = j.nextSeq := by
  unfold Journal.dropHeld
  split
  · rw [Journal.tallied]
  · rfl

theorem acceptRec (b : JBody) : takes s (acceptRec b s) := by
  have next : (Machine.acceptRec b s).journal.nextSeq = s.journal.nextSeq + 1 := by
    rw [acceptRec_journal, dropHeld_nextSeq]; rfl
  refine ⟨.acceptRec b s, by omega, fun h => ?_⟩
  have below : s.journal.nextSeq ≠ max32 := by omega
  unfold Machine.acceptRec
  rw [if_neg below]
  rfl

theorem tally (k : JKind) : takes s (s.onJournal fun j => j.tally k) := by
  refine ⟨.tally _ k, ?_, fun _ => rfl⟩
  show _ ≤ (s.journal.tally k).nextSeq
  rw [Journal.tally_eq]
  split <;> exact Nat.le_refl _

theorem acceptGap : takes s (acceptGap s) := by
  refine takes.trans (t := s.onJournal fun j => { j with dropAdm := 0, dropOther := 0 }) ?_ (acceptRec _)
  exact ⟨⟨List.prefix_rfl, rfl⟩, Nat.le_refl _, fun _ => rfl⟩

theorem offer (b : JBody) : takes s (offer b s) := by
  unfold Machine.offer
  split
  · exact tally _
  · split
    · split
      · split
        · exact acceptGap.trans (tally _)
        · exact acceptGap.trans (acceptRec b)
      · exact tally _
    · split
      · exact acceptRec b
      · exact tally _

theorem offerOverrun (r : Nat × Nat) : takes s (offerOverrun r s) := by
  unfold Machine.offerOverrun
  split
  · exact tally _
  · split
    · exact acceptRec _
    · exact ⟨⟨List.prefix_rfl, rfl⟩, Nat.le_refl _, fun _ => rfl⟩

theorem onCred (f : CredUnit → CredUnit) : takes s (s.onCred f) := of_eq rfl rfl

theorem enqueue (k : EntryKey) : takes s (enqueue k s) := of_eq rfl rfl

theorem reportDisplaced (number seq : Nat) (expiry : EndMinute) : takes s (reportDisplaced number seq expiry s) :=
  (offer _).trans (of_eq rfl (post_notice_other _ _ (by decide)))

theorem applyVerdict (v : ListVerdict) (e : RevEntry) : takes s (applyVerdict v e s) := by
  have entered (i : Nat) : takes s (enterAt i e s) := of_eq rfl rfl
  cases v with
  | notEntered => exact refl s
  | enters i => exact entered i
  | displaces i q old => exact (entered i).trans (reportDisplaced _ _ _)
  | leftOut => exact reportDisplaced _ _ _

theorem revokeReported (slot : Nat) (why : RevReason) : takes s (revokeReported slot why s) := by
  unfold Machine.revokeReported
  split
  · exact refl s
  · next r hr =>
    refine takes.trans ?_ (offer _)
    rw [revokeCred_eq hr]
    refine takes.trans ?_ (foldl _ _ fun _ k => enqueue k)
    exact takes.trans (t := s.onCred fun c => { c with slots := c.slots.put slot (s.revokedRec r why) })
      (of_eq rfl rfl) (applyVerdict _ _)

theorem credentialStart : takes s (credentialStart s) := by
  have revoked : takes s (List.foldl (fun x (e : Nat × CredRec) => Machine.revokeReported e.1 .issueAborted x)
      (s.onCred fun c => { c with revCount := c.highestSeq })
      (s.cred.slots.filter fun e => decide (e.2.state = .pending))) :=
    (onCred _).trans (foldl _ _ fun _ e => revokeReported e.1 .issueAborted)
  have room (x : State) (i : Nat) : takes x (supersedeOld (raiseIssue s.cred.slots x i) i) :=
    of_eq (by simp) (by simp)
  unfold Machine.credentialStart
  dsimp only
  refine takes.trans ?_ (onCred _)
  refine takes.trans ?_ (foldl _ _ fun x e => room x e.1)
  split
  · exact revoked.trans (of_eq (by simp) (by simp))
  · exact revoked

theorem pumpEngine : takes s (pumpEngine s) :=
  of_eq (by simp) ((pumpEngine_posts s).notices .journal (by simp))

end takes

/-! ### No credential is left PENDING, and no room has privacy or a hold mark (R44) -/

section
variable {s : State}

/-- The PENDING credentials lie in these slots. -/
def State.pendingIn (s : State) (ks : List Nat) : Prop :=
  ∀ k r, s.cred.slots.get k = some r → r.state = .pending → k ∈ ks

theorem revokeReported_pendingIn {k : Nat} {ks : List Nat} {why : RevReason} (h : s.pendingIn (k :: ks)) :
    (revokeReported k why s).pendingIn ks := by
  intro i r hi hp
  unfold revokeReported at hi
  cases hk : s.cred.slots.get k with
  | none =>
    rw [hk] at hi
    refine (List.mem_cons.mp (h i r hi hp)).resolve_left fun hik => ?_
    rw [← hik, hi] at hk; cases hk
  | some q =>
    rw [hk] at hi
    simp only [offer_frame, revokeCred_cred hk] at hi
    by_cases hik : i = k
    · subst hik
      rw [FMap.get_put_self] at hi
      cases hi; cases hp
    · rw [FMap.get_put_other _ _ hik] at hi
      exact (List.mem_cons.mp (h i r hi hp)).resolve_left hik

theorem revokeAll_pendingIn {why : RevReason} (es : List (Nat × CredRec)) (s : State)
    (h : s.pendingIn (es.map Prod.fst)) :
    (es.foldl (fun x e => revokeReported e.1 why x) s).pendingIn [] := by
  induction es generalizing s with
  | nil => exact h
  | cons e es ih => exact ih _ (revokeReported_pendingIn h)

theorem minuteWork_pendingIn {ks : List Nat} (h : s.pendingIn ks) (m : Nat) : (minuteWork m s).pendingIn ks := by
  intro k r hk hp
  rw [minuteWork_slot] at hk
  obtain ⟨q, hq, rfl⟩ := Option.map_eq_some_iff.mp hk
  split at hp
  · cases hp
  · exact h k q hq hp

theorem setCredState_pendingIn {ks : List Nat} (h : s.pendingIn ks) (slot : Nat) {st : CredState}
    (hst : st ≠ .pending) : (setCredState slot st s).pendingIn ks := by
  intro k r hk hp
  rw [setCredState_get] at hk
  obtain ⟨q, hq, rfl⟩ := Option.map_eq_some_iff.mp hk
  split at hp
  · exact absurd hp hst
  · exact h k q hq hp

theorem supersedeOld_pendingIn {ks : List Nat} (h : s.pendingIn ks) (room : Nat) : (supersedeOld s room).pendingIn ks := by
  have all (es : List (Nat × CredRec)) (x : State) (hx : x.pendingIn ks) :
      (es.foldl (fun x e => enqueue (.cred e.1) (setCredState e.1 .superseded x)) x).pendingIn ks := by
    induction es generalizing x with
    | nil => exact hx
    | cons e es ih => exact ih _ (setCredState_pendingIn hx e.1 (by decide))
  exact all _ s h

/-- No room has privacy or a hold mark. -/
def State.roomsFresh (s : State) : Prop := ∀ k r, s.rooms.get k = some r → r.privacy = false ∧ r.hold = false

theorem raiseIssue_roomsFresh (h : s.roomsFresh) (found : FMap CredRec) (room : Nat) :
    (raiseIssue found s room).roomsFresh := by
  unfold raiseIssue
  dsimp only
  split
  · intro k r hk
    rw [(enqueue_frame _ _).2.2.1, State.get_modRoom] at hk
    split at hk
    · obtain ⟨q, hq, rfl⟩ := Option.map_eq_some_iff.mp hk
      exact h room q hq
    · exact h k r hk
  · exact h

/-- What the start-up work leaves of the rooms and the credentials. -/
theorem credentialStart_leaves (hr : s.roomsFresh) :
    (credentialStart s).roomsFresh ∧ (credentialStart s).pendingIn [] := by
  have revokedIn : (List.foldl (fun x (e : Nat × CredRec) => revokeReported e.1 .issueAborted x)
      (s.onCred fun c => { c with revCount := c.highestSeq })
      (s.cred.slots.filter fun e => decide (e.2.state = .pending))).pendingIn [] := by
    refine revokeAll_pendingIn _ _ fun k r hk hp => ?_
    exact List.mem_map.mpr ⟨(k, r), List.mem_filter.mpr ⟨FMap.mem_of_get hk, by simpa using hp⟩, rfl⟩
  have rooms : (List.foldl (fun x (e : Nat × CredRec) => revokeReported e.1 .issueAborted x)
      (s.onCred fun c => { c with revCount := c.highestSeq })
      (s.cred.slots.filter fun e => decide (e.2.state = .pending))).rooms = s.rooms := by simp
  have each (es : FMap Room) (x : State) (hx : x.roomsFresh ∧ x.pendingIn []) :
      (es.foldl (fun x e => supersedeOld (raiseIssue s.cred.slots x e.1) e.1) x).roomsFresh ∧
      (es.foldl (fun x e => supersedeOld (raiseIssue s.cred.slots x e.1) e.1) x).pendingIn [] := by
    induction es generalizing x with
    | nil => exact hx
    | cons e es ih =>
      have raised := raiseIssue_roomsFresh hx.1 s.cred.slots e.1
      have pending : (raiseIssue s.cred.slots x e.1).pendingIn [] := by
        unfold State.pendingIn
        rw [show (raiseIssue s.cred.slots x e.1).cred = x.cred by simp]
        exact hx.2
      refine ih _ ⟨?_, supersedeOld_pendingIn pending e.1⟩
      unfold State.roomsFresh
      rw [show (supersedeOld (raiseIssue s.cred.slots x e.1) e.1).rooms = (raiseIssue s.cred.slots x e.1).rooms by simp]
      exact raised
  have before : ∀ y : State, y.rooms = s.rooms → y.pendingIn [] →
      (if y.clock.valid = .valid then minuteWork y.clock.minute y else y).roomsFresh ∧
      (if y.clock.valid = .valid then minuteWork y.clock.minute y else y).pendingIn [] := by
    intro y hy hp
    unfold State.roomsFresh
    split
    · exact ⟨by rw [show (minuteWork y.clock.minute y).rooms = y.rooms by simp, hy]; exact hr, minuteWork_pendingIn hp _⟩
    · exact ⟨by rw [hy]; exact hr, hp⟩
  exact each _ _ (before _ rooms revokedIn)

end

end Sys2Proof.Machine

/-! ## The line masters of a cold start (R65, R67, R189) -/

namespace Sys2Proof.Machine

set_option Elab.async false

section
variable {s t u w : State} {i : LineId}

/-- A node no reply has reached yet, and which is owed no order. -/
structure Node.unheard (n : Node) : Prop where
  state : n.link.state = .unknown ∨ n.link.state = .disabled
  mode : n.link.modeOwed = false
  group : n.link.groupOwed = false

/-- Every node of the table is unheard. -/
def State.nodesUnheard (s : State) : Prop := ∀ e ∈ s.nodes, e.2.unheard

theorem counted_unheard (h : s.nodesUnheard) (i : LineId) : s.counted i = [] := by
  refine List.filter_eq_nil_iff.mpr fun n hn => ?_
  obtain ⟨x, hx, rfl⟩ := List.mem_map.mp hn
  obtain ⟨e, he, rfl⟩ := List.mem_map.mp hx
  rcases (h e (List.mem_filter.mp he).1).state with hs | hs <;> simp [hs]

/-- A line master goes on with its work: what changes is that line alone, and of it neither the queue nor the cycle's
phase and period. -/
structure worksOn (i : LineId) (s u : State) : Prop where
  rest : u = { s with lines := u.lines }
  others : ∀ j, j ≠ i → u.line j = s.line j
  running : (u.line i).running = (s.line i).running
  queue : (u.line i).queue = (s.line i).queue
  phase : (u.line i).phase = (s.line i).phase
  period : (u.line i).periodEnd = (s.line i).periodEnd

namespace worksOn

theorem refl (i : LineId) (s : State) : worksOn i s s := ⟨rfl, fun _ _ => rfl, rfl, rfl, rfl, rfl⟩

theorem trans (h : worksOn i s t) (g : worksOn i t u) : worksOn i s u :=
  ⟨by rw [g.rest, h.rest], fun j hj => (g.others j hj).trans (h.others j hj), g.running.trans h.running,
    g.queue.trans h.queue, g.phase.trans h.phase, g.period.trans h.period⟩

theorem modLine {f : Line → Line} (hr : ∀ l, (f l).running = l.running := by exact fun _ => rfl)
    (hq : ∀ l, (f l).queue = l.queue := by exact fun _ => rfl) (hp : ∀ l, (f l).phase = l.phase := by exact fun _ => rfl)
    (he : ∀ l, (f l).periodEnd = l.periodEnd := by exact fun _ => rfl) : worksOn i s (s.modLine i f) := by
  have line : (s.modLine i f).line i = f (s.line i) := State.line_modLine_self _ _ _
  exact ⟨rfl, fun j hj => State.line_modLine_other _ _ hj, by rw [line, hr], by rw [line, hq], by rw [line, hp],
    by rw [line, he]⟩

theorem nodes (h : worksOn i s u) : u.nodes = s.nodes := by rw [h.rest]

theorem sendOldest : worksOn i s (sendOldest i s) := by
  unfold Machine.sendOldest
  split
  · exact refl i s
  · split
    · unfold sendTagged sendFrame
      exact (modLine).trans modLine
    · unfold sendFrame
      exact modLine

/-- A visit to a node that is owed nothing sends the oldest order or its poll. -/
theorem workVisit (h : s.nodesUnheard) (v : Visit) : worksOn i s (workVisit i v s) := by
  unfold Machine.workVisit
  split
  · exact sendOldest
  · split
    · exact refl i s
    · next n hn =>
      have unheard : n.unheard := h _ (FMap.mem_of_get hn)
      rw [if_neg (by simp [unheard.mode]), if_neg (by simp [unheard.group])]
      unfold sendPoll sendFrame
      exact modLine

/-- A cycle complete with no node heard leaves the line WHOLE. -/
theorem completeCycle (h : s.nodesUnheard) (hc : (s.line i).cond = .whole) : worksOn i s (completeCycle i s) := by
  unfold Machine.completeCycle locate
  dsimp only
  let x := s.modLine i fun l => { l with cycle := none, count := satSucc max32 l.count }
  have counted : x.counted i = [] := counted_unheard (s := x) h i
  have cond : (x.line i).cond = .whole := by rw [State.line_modLine_self]; exact hc
  have whole : lineCond [] = .whole := rfl
  have first : worksOn i s x := modLine
  show worksOn i s (if lineCond (x.counted i) = (x.line i).cond then _ else _)
  rw [counted, cond, if_pos whole]
  exact first.trans modLine

theorem nextVisit (h : s.nodesUnheard) (hc : (s.line i).cond = .whole) (listed : List Nat) :
    worksOn i s (nextVisit i listed s) := by
  unfold Machine.nextVisit
  split
  · exact completeCycle h hc
  · next a n t _ =>
    have first : worksOn i s (s.modLine i fun l => { l with cycle := some ⟨t, some (.start a n)⟩ }) :=
      modLine
    exact first.trans (workVisit (s := s.modLine i fun l => { l with cycle := some ⟨t, some (.start a n)⟩ }) h _)

theorem openCycle (h : s.nodesUnheard) (hc : (s.line i).cond = .whole) (listed : List Nat) :
    worksOn i s (openCycle i listed s) := by
  unfold Machine.openCycle
  split
  · exact modLine
  · exact nextVisit h hc listed

theorem sendBetween : worksOn i s (sendBetween i s) := by
  unfold Machine.sendBetween
  split
  · exact sendOldest
  · exact refl i s

end worksOn

/-- A line that starts begins its first cycle. -/
theorem proceed_first {x : Line} (hx : w.line i = x) (hr : x.running = true) (he : x.exch = none) (hcy : x.cycle = none)
    (hp : x.periodEnd = none) (hre : x.restart = true) (hc : x.cond = .whole) (hd : w.draining = false)
    (h : w.nodesUnheard) :
    worksOn i (w.modLine i fun l => { l with phase := 1, restart := false, periodEnd := some (w.settings.period.get i) })
      (proceed i w) := by
  let y := w.modLine i fun l => { l with phase := 1, restart := false, periodEnd := some (w.settings.period.get i) }
  have phase : (w.line i).nextPhase = 1 := by rw [hx]; simp [Line.nextPhase, hre]
  have cond : (y.line i).cond = .whole := by
    rw [State.line_modLine_self]; show (w.line i).cond = _; rw [hx]; exact hc
  have goes : proceed i w = sendBetween i (openCycle i (w.visitList i 1) y) := by
    unfold proceed
    rw [hx, hr, he, hd, hcy]
    unfold betweenCycles beginCycle
    rw [hx, hcy, hp, ← hx, phase]
    rfl
  rw [goes]
  exact (worksOn.openCycle (s := y) h cond _).trans worksOn.sendBetween

/-- A line that starts in a part none of whose nodes has been heard. -/
structure startsFresh (i : LineId) (s u : State) : Prop where
  rest : u = { s with lines := u.lines, nodes := nodesChanged i startsAs s.nodes }
  others : ∀ j, j ≠ i → u.line j = s.line j
  running : (u.line i).running = true
  queue : (u.line i).queue = s.firstOrders
  phase : (u.line i).phase = 1
  period : (u.line i).periodEnd = some (s.settings.period.get i)

theorem startsAs_unheard (n : Node) : (startsAs n).unheard := by
  refine ⟨?_, rfl, rfl⟩
  unfold startsAs
  dsimp only
  split
  · exact .inl rfl
  · exact .inr rfl

theorem nodesChanged_unheard (h : s.nodesUnheard) : ∀ e ∈ nodesChanged i startsAs s.nodes, e.2.unheard := by
  intro e he
  obtain ⟨x, hx, rfl⟩ := List.mem_map.mp he
  dsimp only
  split
  · exact startsAs_unheard _
  · exact h x hx

theorem startLine_fresh (hd : s.draining = false) (h : s.nodesUnheard) : startsFresh i s (startLine i s) := by
  let x : Line := { Line.start with running := true, tag := (s.line i).tag }
  let w := startsFrom i x s
  have line : w.line i = { x with queue := s.firstOrders } := restarted_line i x [] s
  have goes := proceed_first (w := w) line rfl rfl rfl rfl rfl rfl hd (nodesChanged_unheard h)
  have start : startLine i s = proceed i w := startLine_eq i s
  let y := w.modLine i fun l => { l with phase := 1, restart := false, periodEnd := some (w.settings.period.get i) }
  have lineY : y.line i =
      { x with queue := s.firstOrders, phase := 1, restart := false, periodEnd := some (s.settings.period.get i) } := by
    rw [State.line_modLine_self, line]; rfl
  rw [start]
  refine ⟨goes.rest.trans rfl, fun j hj => ?_, ?_, ?_, ?_, ?_⟩
  · rw [goes.others j hj, State.line_modLine_other _ _ hj]
    exact restarted_other x [] s hj
  · rw [goes.running]; exact congrArg Line.running lineY
  · rw [goes.queue]; exact congrArg Line.queue lineY
  · rw [goes.phase]; exact congrArg Line.phase lineY
  · rw [goes.period]; exact congrArg Line.periodEnd lineY

/-- The lines started one after the other. -/
structure startsAll (l : List LineId) (s u : State) : Prop where
  rest : u = { s with lines := u.lines, nodes := l.foldl (fun m i => nodesChanged i startsAs m) s.nodes }
  others : ∀ j, j ∉ l → u.line j = s.line j
  started : ∀ i ∈ l, (u.line i).running = true ∧ (u.line i).queue = s.firstOrders ∧ (u.line i).phase = 1 ∧
    (u.line i).periodEnd = some (s.settings.period.get i)

theorem startLines_fresh (l : List LineId) (hl : l.Nodup) (s : State) (hd : s.draining = false) (h : s.nodesUnheard) :
    startsAll l s (l.foldl (fun x i => startLine i x) s) := by
  induction l generalizing s with
  | nil => exact ⟨rfl, fun _ _ => rfl, nofun⟩
  | cons i l ih =>
    obtain ⟨notIn, nodup⟩ := List.nodup_cons.mp hl
    have first := startLine_fresh (i := i) hd h
    have draining : (startLine i s).draining = false := by rw [first.rest]; exact hd
    have unheard : (startLine i s).nodesUnheard := by
      unfold State.nodesUnheard; rw [first.rest]; exact nodesChanged_unheard h
    have orders : (startLine i s).firstOrders = s.firstOrders := by rw [first.rest]; rfl
    have settings : (startLine i s).settings = s.settings := by rw [first.rest]
    have next := ih nodup (startLine i s) draining unheard
    refine ⟨?_, fun j hj => ?_, fun j hj => ?_⟩
    · have rest := next.rest
      rw [List.foldl_cons, rest]
      rw [first.rest]
      rfl
    · obtain ⟨ne, out⟩ := not_or.mp (mt List.mem_cons.mpr hj)
      exact (next.others j out).trans (first.others j ne)
    · rcases List.mem_cons.mp hj with rfl | hj
      · have same := next.others j notIn
        rw [List.foldl_cons, same]
        exact ⟨first.running, first.queue, first.phase, first.period⟩
      · have := next.started j hj
        rw [orders, settings] at this
        exact this

end

end Sys2Proof.Machine

/-! ## What a cold start finds in the store (R169, R185, R186) -/

namespace Sys2Proof.Machine

set_option Elab.async false

/-! ### The sectors as they are classed -/

theorem Sector.classed_blank {α : Type} : (Sector.blank : Sector α).classed = .blank := by
  simp [Sector.classed, Sector.blank, Sector.interrupted, Sector.spoiledCount]

section
variable {α : Type} [DecidableEq α] {m : FMap (Sector α)}

theorem mem_classRegion {e : Nat × Sector α} (h : e ∈ classRegion m) : ∃ c, (e.1, c) ∈ m ∧ e.2 = c.classed := by
  obtain ⟨x, hx, rfl⟩ := List.mem_map.mp (List.mem_filter.mp h).1
  exact ⟨x.2, hx, rfl⟩

theorem wf_classRegion (h : m.wf) : (classRegion m).wf := by
  have keys : (m.map fun e => (e.1, e.2.classed)).Pairwise fun a b => a.1 < b.1 := by
    simpa [List.pairwise_map] using h
  exact keys.filter _

/-- A sector read after the classing is the sector classed. -/
theorem classRegion_get (h : m.wf) (k : Nat) :
    ((classRegion m).get k).getD .blank = ((m.get k).getD .blank).classed := by
  cases hk : m.get k with
  | some c =>
    have mem := FMap.mem_of_get hk
    by_cases hb : c.classed = .blank
    · cases hg : (classRegion m).get k with
      | none => simp [hb]
      | some d =>
        obtain ⟨c', hm, hd⟩ := mem_classRegion (FMap.mem_of_get hg)
        have same := (FMap.get_of_mem h hm).symm.trans hk
        cases same
        exact hd
    · have kept : (k, c.classed) ∈ classRegion m :=
        List.mem_filter.mpr ⟨List.mem_map.mpr ⟨(k, c), mem, rfl⟩, by simpa using hb⟩
      rw [FMap.get_of_mem (wf_classRegion h) kept]
      rfl
  | none =>
    cases hg : (classRegion m).get k with
    | none => exact Sector.classed_blank.symm
    | some d =>
      obtain ⟨c, hm, -⟩ := mem_classRegion (FMap.mem_of_get hg)
      rw [FMap.get_of_mem h hm] at hk
      cases hk

end

/-! ### The store as it is found -/

section
variable {s : State} {t u : Store}

/-- Both regions are in canonical form. -/
structure Store.regionsWf (t : Store) : Prop where
  tlog : t.tlog.wf
  jreg : t.jreg.wf

theorem Store.regionsWf.modJ (h : t.regionsWf) (k : Nat) (f : Sector JRec → Sector JRec) : (t.modJ k f).regionsWf :=
  ⟨h.tlog, FMap.wf_set h.jreg _ _⟩

theorem Store.regionsWf.modT (h : t.regionsWf) (k : Nat) (f : Sector LogRec → Sector LogRec) : (t.modT k f).regionsWf :=
  ⟨FMap.wf_set h.tlog _ _, h.jreg⟩

theorem Store.regionsWf.cutSector (h : t.regionsWf) (k : Nat) : (cutSector k t).regionsWf := by
  unfold Machine.cutSector
  split
  · exact h.modJ _ _
  · exact h.modT _ _

theorem Store.regionsWf.cutErases (h : t.regionsWf) : (cutErases t).regionsWf := by
  have suspended : ∀ x : Store, x.regionsWf → Store.regionsWf (match x.suspended with
      | some e => { Machine.cutSector e.work.sector x with suspended := none }
      | none => x) := by
    intro x hx
    split
    · next e _ => exact ⟨(hx.cutSector e.work.sector).tlog, (hx.cutSector e.work.sector).jreg⟩
    · exact hx
  unfold Machine.cutErases
  cases he : t.engine with
  | idle => exact suspended t h
  | programming p => exact suspended t h
  | erasing e =>
    exact suspended { Machine.cutSector e.work.sector t with engine := .idle }
      ⟨(h.cutSector e.work.sector).tlog, (h.cutSector e.work.sector).jreg⟩

theorem Store.regionsWf.landProgram (h : t.regionsWf) (p : Program) (sound : Bool) : (landProgram p sound t).regionsWf := by
  have appended (k : Nat) (key : EntryKey) (v : EntryVal) : (t.appendRec k key v).regionsWf :=
    ⟨(h.modT k _).tlog, (h.modT k (Sector.program none)).jreg⟩
  unfold Machine.landProgram
  cases sound with
  | true =>
    cases p with
    | table k key v => exact appended k key v
    | copy k key v => exact appended k key v
    | journal k r => exact h.modJ _ _
    | identity n i => exact ⟨h.tlog, h.jreg⟩
  | false =>
    unfold cutProgram
    cases p with
    | table k key v => exact h.modT _ _
    | copy k key v => exact h.modT _ _
    | journal k r => exact h.modJ _ _
    | identity n i => exact ⟨h.tlog, h.jreg⟩

theorem foundStore_wf (ht : s.store.tlog.wf) (hj : s.store.jreg.wf) : s.foundStore.regionsWf := by
  have cut := Store.regionsWf.cutErases (t := s.store) ⟨ht, hj⟩
  unfold State.foundStore
  split
  · exact cut.landProgram _ _
  · exact cut

/-- Giving the erases up leaves a program in progress, and nothing else running. -/
theorem cutErases_engine (t : Store) : (cutErases t).engine = match t.engine with
    | .programming p => .programming p
    | _ => .idle := by
  have sector (k : Nat) (x : Store) : (cutSector k x).engine = x.engine := by unfold cutSector; split <;> rfl
  unfold cutErases
  cases he : t.engine with
  | idle => dsimp only; split <;> simp [sector, he]
  | programming p => dsimp only; split <;> simp [sector, he]
  | erasing e => dsimp only; split <;> simp [sector]

end

/-! ### The newest record of the journal region -/

section
variable {s : State} {t u : Store} {r x : JRec} {k : Nat}

theorem journalRecs_classed (hu : t.jreg = classRegion u.jreg) (hwf : u.jreg.wf) :
    (k, r) ∈ t.journalRecs ↔ some r ∈ (u.jsec k).cells ∧ (u.jsec k).interrupted = false := by
  have recs (c : Sector JRec) : r ∈ c.classed.recs ↔ some r ∈ c.cells ∧ c.interrupted = false := by
    unfold Sector.recs Sector.classed
    cases hi : c.interrupted <;> simp
  unfold Store.journalRecs
  rw [hu]
  constructor
  · intro h
    obtain ⟨e, he, hr⟩ := List.mem_flatMap.mp h
    obtain ⟨y, hy, heq⟩ := List.mem_map.mp hr
    cases heq
    obtain ⟨c, hc, hcl⟩ := mem_classRegion he
    have sec : u.jsec e.1 = c := by unfold Store.jsec; rw [FMap.get_of_mem hwf hc]; rfl
    rw [sec]
    exact (recs c).mp (hcl ▸ hy)
  · intro h
    have mem : r ∈ (u.jsec k).classed.recs := (recs _).mpr h
    have read : ((classRegion u.jreg).get k).getD .blank = (u.jsec k).classed := classRegion_get hwf k
    cases hg : (classRegion u.jreg).get k with
    | none =>
      rw [hg] at read
      rw [← read] at mem
      simp [Sector.recs, Sector.blank] at mem
    | some d =>
      rw [hg] at read
      exact List.mem_flatMap.mpr ⟨(k, d), FMap.mem_of_get hg, List.mem_map.mpr ⟨r, by rw [← read] at mem; exact mem, rfl⟩⟩

/-- The newest record is one of the region's, and no other has a higher sequence. -/
theorem newestRec_some (h : t.newestRec = some r) :
    (∃ k, (k, r) ∈ t.journalRecs) ∧ ∀ e ∈ t.journalRecs, e.2.seq ≤ r.seq := by
  unfold Store.newestRec at h
  obtain ⟨e, he, rfl⟩ := Option.map_eq_some_iff.mp h
  obtain ⟨front, hsplit⟩ := List.getLast?_eq_some_iff.mp he
  have member : e ∈ sortBy (fun e : Nat × JRec => e.2.seq) t.journalRecs := by rw [hsplit]; simp
  have sorted := sortBy_sorted (fun e : Nat × JRec => e.2.seq) t.journalRecs
  rw [hsplit] at sorted
  refine ⟨⟨e.1, (mem_sortBy _ _ _).mp member⟩, fun y hy => ?_⟩
  have hy' := (mem_sortBy (fun e : Nat × JRec => e.2.seq) y t.journalRecs).mpr hy
  rw [hsplit] at hy'
  rcases List.mem_append.mp hy' with hf | hl
  · exact (List.pairwise_append.mp sorted).2.2 y hf e (by simp)
  · rw [List.mem_singleton.mp hl]

theorem newestRec_none : t.newestRec = none ↔ t.journalRecs = [] := by
  unfold Store.newestRec
  rw [Option.map_eq_none_iff, List.getLast?_eq_none_iff]
  constructor
  · intro h
    refine List.eq_nil_iff_forall_not_mem.mpr fun e he => ?_
    have := (mem_sortBy (fun e : Nat × JRec => e.2.seq) e t.journalRecs).mpr he
    rw [h] at this
    cases this
  · intro h; rw [h]; rfl

/-- A record that every other is older than is the newest. -/
theorem newestRec_of_max (hx : (k, x) ∈ t.journalRecs) (hmax : ∀ e ∈ t.journalRecs, e.2 = x ∨ e.2.seq < x.seq) :
    t.newestRec = some x := by
  cases hn : t.newestRec with
  | none => rw [newestRec_none.mp hn] at hx; cases hx
  | some r =>
    obtain ⟨⟨i, hi⟩, top⟩ := newestRec_some hn
    have above := top _ hx
    rcases hmax _ hi with same | below
    · exact congrArg some same
    · exact absurd below (Nat.not_lt.mpr above)

theorem newestRec_congr (h : t.jreg = u.jreg) : t.newestRec = u.newestRec := by
  unfold Store.newestRec Store.journalRecs; rw [h]

theorem cleanStart_congr (h : t.jreg = u.jreg) : t.cleanStart = u.cleanStart := by
  unfold Store.cleanStart; rw [newestRec_congr h]

end

/-! ### The tables as they are read -/

section
variable {s : State}

/-- The volatile state a cold start has read so far. -/
structure State.readIn (s : State) : Prop where
  nodes : ∀ e ∈ s.nodes, e.2 = Node.fresh e.2.entry
  rooms : s.roomsFresh
  writer : s.journal.writer = .writing
  staging : s.journal.staging = []
  owed : s.journal.owed = false

theorem applyRec_readIn (h : s.readIn) (r : LogRec) : (applyRec s r).readIn := by
  unfold applyRec
  split
  · exact ⟨h.nodes, h.rooms, h.writer, h.staging, h.owed⟩
  · next i v _ _ =>
    refine ⟨h.nodes, fun k x hk => ?_, h.writer, h.staging, h.owed⟩
    by_cases hki : k = i
    · subst hki
      simp only [State.onRooms_rooms, FMap.get_set_self] at hk
      obtain ⟨e, -, rfl⟩ := Option.map_eq_some_iff.mp hk
      exact ⟨rfl, rfl⟩
    · simp only [State.onRooms_rooms, FMap.get_set_other _ _ hki] at hk
      exact h.rooms k x hk
  · refine ⟨fun e he => ?_, h.rooms, h.writer, h.staging, h.owed⟩
    rcases FMap.mem_set he with ⟨-, hv⟩ | hm
    · obtain ⟨n, -, hn⟩ := Option.map_eq_some_iff.mp hv
      rw [← hn]; rfl
    · exact h.nodes e hm
  · exact ⟨h.nodes, h.rooms, h.writer, h.staging, h.owed⟩
  · exact ⟨h.nodes, h.rooms, h.writer, h.staging, h.owed⟩
  · exact ⟨h.nodes, h.rooms, h.writer, h.staging, h.owed⟩
  · exact ⟨h.nodes, h.rooms, h.writer, h.staging, h.owed⟩
  · exact ⟨h.nodes, h.rooms, h.writer, h.staging, h.owed⟩
  · exact ⟨h.nodes, h.rooms, h.writer, h.staging, h.owed⟩
  · exact h

theorem applyRecs_readIn (l : List LogRec) (s : State) (h : s.readIn) : (l.foldl applyRec s).readIn := by
  induction l generalizing s with
  | nil => exact h
  | cons r l ih => exact ih _ (applyRec_readIn h r)

end

end Sys2Proof.Machine

/-! ## The stages of a cold start (R184 to R189) -/

namespace Sys2Proof.Machine

set_option Elab.async false

section
variable {s t u : State} {rate : LinkRate}

/-! ### The stages -/

/-- Volatile state as a cold start begins, with the clock and the identity taken. -/
def State.begun (s : State) (rate : LinkRate) : State :=
  ((s.volatileStart .run rate).onClock HotelClock.taken).onStore fun t => { t with identity := foundIdentity t.idPlaces }

/-- The sectors of both regions classed. -/
def State.classed (s : State) : State :=
  s.onStore fun t => { t with tlog := classRegion t.tlog, jreg := classRegion t.jreg }

/-- The writer placed, START and the owed OVERRUN record offered. -/
def State.opened (s : State) : State :=
  let x := offer (startBody s.store.cleanStart (startWriter s).1.clock.valid) (postStartLevel (startWriter s).1)
  match (startWriter s).2 with
  | some r => offerOverrun r x
  | none => x

/-- The part as it stands before its line masters start. -/
def State.beforeLines (s : State) (rate : LinkRate) : State :=
  credentialStart (placeJournal (scanTables (s.begun rate))).opened

theorem startUp_eq : startUp rate s = endColdStart (s.beforeLines rate) := by
  unfold startUp State.beforeLines State.opened State.begun
  dsimp only <;> generalize placeJournal _ = z <;> cases (startWriter z).2 <;> rfl

/-! ### What each stage leaves -/

theorem scanTables_boots : boots s.classed (scanTables s) := by
  have read : boots s.classed (s.classed.store.scanOrder.foldl applyRec s.classed) :=
    boots.foldl _ _ fun _ r _ => boots.applyRec r
  unfold scanTables
  exact ((read.trans (boots.onStore ⟨rfl, rfl, rfl, rfl⟩)).trans (boots.moveLogHead false)).trans boots.testReadOnly

theorem opened_boots : boots s s.opened := by
  have start : boots s (offer (startBody s.store.cleanStart (startWriter s).1.clock.valid)
      (postStartLevel (startWriter s).1)) :=
    (boots.startWriter.trans boots.postStartLevel).trans (boots.offer _)
  unfold State.opened
  dsimp only
  split
  · exact start.trans (boots.offerOverrun _)
  · exact start

theorem placeJournal_boots : boots s (placeJournal s) := by unfold placeJournal; exact boots.onJournal _

theorem beforeLines_boots : boots (s.begun rate).classed (s.beforeLines rate) :=
  ((scanTables_boots.trans placeJournal_boots).trans opened_boots).trans boots.credentialStart

theorem startWriter_keeps : keepsBut [.journal, .store, .link] s (startWriter s).1 := by
  unfold startWriter
  repeat' split
  all_goals exact fun p hp => by cases p <;> first | (simp at hp; done) | simp [Part.same]

theorem opened_keeps : keepsBut [.journal, .store, .link] s s.opened := by
  refine keepsBut_trans startWriter_keeps ?_
  unfold State.opened
  dsimp only
  split <;> exact fun p hp => by cases p <;> first | (simp at hp; done) | simp [Part.same]

/-! ### The journal unit -/

theorem placeJournal_nextSeq : (placeJournal s).journal.nextSeq = (s.store.newestRec.map JRec.seq).getD 0 + 1 := by
  unfold placeJournal
  dsimp only [State.onJournal]
  rw [Nat.max_eq_left (Nat.min_le_left _ _)]

/-- A writer that is not in FAULT has left the staging queue, the next sequence and the tallies. -/
theorem startWriter_stands (h : (startWriter s).1.journal.writer ≠ .fault) :
    (startWriter s).1.journal.staging = s.journal.staging ∧ (startWriter s).1.journal.nextSeq = s.journal.nextSeq ∧
      (startWriter s).1.journal.owed = s.journal.owed := by
  have faulted : (declareFault s).journal.writer = .fault :=
    (Journal.takesIn.dropHeld { s.journal with writer := .fault }).writer
  unfold startWriter at h ⊢
  split
  · next hu =>
    rw [if_pos hu] at h
    exact absurd faulted h
  · repeat' split
    all_goals exact ⟨rfl, rfl, rfl⟩

/-- A writer that is not on the OVERWRITE path has posted nothing to its class. -/
theorem startWriter_notice (h : (startWriter s).1.journal.writer ≠ .overrun) :
    (startWriter s).1.link.notices.get .journal = s.link.notices.get .journal := by
  unfold startWriter at h ⊢
  split
  · exact post_notice_other _ _ (by decide)
  · next hu =>
    rw [if_neg hu] at h
    split
    · rfl
    · next hf =>
      rw [if_neg hf] at h
      split
      · rfl
      · next he =>
        rw [if_neg he] at h
        split
        · rfl
        · next hr =>
          rw [if_neg hr] at h
          split
          · rfl
          · next hp => rw [hp] at h; exact absurd rfl h

theorem opened_takes : takes (postStartLevel (startWriter s).1) s.opened := by
  unfold State.opened
  dsimp only
  split
  · exact (takes.offer _).trans (takes.offerOverrun _)
  · exact takes.offer _

/-- START is the first staged where it can be accepted. -/
theorem opened_staging (hw : (startWriter s).1.journal.writer ≠ .fault) (hn : s.journal.nextSeq ≤ max32)
    (hs : s.journal.staging = []) (ho : s.journal.owed = false) :
    [⟨s.journal.nextSeq, s.clock.minute, s.clock.second, startBody s.store.cleanStart s.clock.valid⟩] <+:
      s.opened.journal.staging := by
  obtain ⟨staging, next, owed⟩ := startWriter_stands hw
  let x := postStartLevel (startWriter s).1
  have journal : x.journal = (startWriter s).1.journal := by simp [x]
  have clockW : (startWriter s).1.clock = s.clock := startWriter_keeps .clock (by simp)
  have clock : x.clock = s.clock := by simp [x, clockW]
  have accepted : offer (startBody s.store.cleanStart (startWriter s).1.clock.valid) x =
      acceptRec (startBody s.store.cleanStart (startWriter s).1.clock.valid) x :=
    offer_accepted (by rw [journal]; exact hw) (by rw [journal, next]; exact hn) (by rw [journal, owed]; exact ho)
      (by rw [journal, staging, hs]; exact Nat.zero_le _)
  have first : [⟨s.journal.nextSeq, s.clock.minute, s.clock.second, startBody s.store.cleanStart s.clock.valid⟩] <+:
      (offer (startBody s.store.cleanStart (startWriter s).1.clock.valid) x).journal.staging := by
    rw [accepted, acceptRec_journal]
    have held := (Journal.takesIn.dropHeld
      (x.journal.append x.clock (startBody s.store.cleanStart (startWriter s).1.clock.valid))).staged
    have appended : (x.journal.append x.clock (startBody s.store.cleanStart (startWriter s).1.clock.valid)).staging =
        [⟨s.journal.nextSeq, s.clock.minute, s.clock.second, startBody s.store.cleanStart s.clock.valid⟩] := by
      unfold Journal.append
      rw [journal, staging, hs, next, clock, clockW]
      rfl
    exact appended ▸ held
  unfold State.opened
  dsimp only
  split
  · exact first.trans (Journal.takesIn.offerOverrun _ _).staged
  · exact first

/-! ### The tables read -/

theorem classed_readIn : (s.begun rate).classed.readIn := by
  have nodes : (s.begun rate).classed.nodes = [] := rfl
  have rooms : (s.begun rate).classed.rooms = [] := rfl
  exact ⟨fun e he => (by rw [nodes] at he; cases he), fun k r hk => (by rw [rooms] at hk; cases hk), rfl, rfl, rfl⟩

theorem scanTables_readIn (h : s.classed.readIn) : (scanTables s).readIn := by
  have read := applyRecs_readIn s.classed.store.scanOrder s.classed h
  unfold scanTables
  exact ⟨by simpa [State.classed] using read.nodes, fun k r hk => read.rooms k r (by simpa [State.classed] using hk),
    by simpa [State.classed] using read.writer, by simpa [State.classed] using read.staging,
    by simpa [State.classed] using read.owed⟩

theorem placeJournal_readIn (h : s.readIn) : (placeJournal s).readIn := by
  unfold placeJournal
  exact ⟨h.nodes, h.rooms, h.writer, h.staging, h.owed⟩

theorem scanTables_notice : (scanTables s).link.notices.get .journal = s.link.notices.get .journal := by
  have readOnly (x : State) : (testReadOnly x).link.notices.get .journal = x.link.notices.get .journal := by
    unfold testReadOnly
    split
    · exact post_notice_other _ _ (by decide)
    · rfl
  unfold scanTables
  rw [readOnly, (moveLogHead_posts false _).notices .journal (by simp)]
  simp

end

end Sys2Proof.Machine

/-! ## The part once it has started (R184 to R189) -/

namespace Sys2Proof.Machine

set_option Elab.async false

/-! ### A state with other lines and nodes -/

section
variable (s : State) (lines : PerLine Line) (nodes : FMap Node)

theorem State.wired_self : s.wired s.lines s.nodes = s := rfl

theorem State.wired_settings : (s.wired lines nodes).settings = s.settings := rfl

theorem State.wired_rooms : (s.wired lines nodes).rooms = s.rooms := rfl

theorem State.wired_cred : (s.wired lines nodes).cred = s.cred := rfl

theorem State.wired_journal : (s.wired lines nodes).journal = s.journal := rfl

theorem State.wired_link : (s.wired lines nodes).link = s.link := rfl

theorem boots.wired : boots s (s.wired lines nodes) :=
  .of_keeps (fun p hp => by cases p <;> first | rfl | simp [bootParts] at hp) rfl rfl

theorem startsAll.wired {s u : State} {l : List LineId} (h : startsAll l s u) :
    u = s.wired u.lines (l.foldl (fun m i => nodesChanged i startsAs m) s.nodes) := h.rest

end

/-! ### Before the line masters start -/

section
variable {y : State} {rate : LinkRate}

theorem beforeLines_line (i : LineId) : (y.beforeLines rate).line i = .start := by
  have lines : (y.beforeLines rate).lines = (y.volatileStart .run rate).lines := by
    unfold State.beforeLines
    rw [show ∀ x : State, (credentialStart x.opened).lines = x.lines from fun x =>
      (by simp : (credentialStart x.opened).lines = x.opened.lines).trans (opened_keeps .lines (by simp))]
    rw [show ∀ x : State, (placeJournal x).lines = x.lines from fun x => by simp, atWork.scanTables_lines]
    rfl
  exact (State.line_congr lines i).trans (atWork.volatileStart_line y .run rate i)

theorem beforeLines_nodes : ∀ e ∈ (y.beforeLines rate).nodes, e.2 = Node.fresh e.2.entry := by
  have nodes : (y.beforeLines rate).nodes = (scanTables (y.begun rate)).nodes := by
    unfold State.beforeLines
    rw [show ∀ x : State, (credentialStart x.opened).nodes = x.nodes from fun x =>
      (by simp : (credentialStart x.opened).nodes = x.opened.nodes).trans (opened_keeps .nodes (by simp))]
    simp
  rw [nodes]
  exact (scanTables_readIn classed_readIn).nodes

theorem beforeLines_unheard : (y.beforeLines rate).nodesUnheard := fun e he => by
  rw [beforeLines_nodes e he]; exact ⟨.inr rfl, rfl, rfl⟩

theorem beforeLines_leaves : (y.beforeLines rate).roomsFresh ∧ (y.beforeLines rate).pendingIn [] := by
  refine credentialStart_leaves ?_
  have read := placeJournal_readIn (scanTables_readIn (classed_readIn (s := y) (rate := rate)))
  unfold State.roomsFresh
  rw [show (placeJournal (scanTables (y.begun rate))).opened.rooms = _ from opened_keeps .rooms (by simp)]
  exact read.rooms

theorem beforeLines_draining : (y.beforeLines rate).draining = false := by
  have power : (y.beforeLines rate).power = (y.begun rate).classed.power :=
    beforeLines_boots.parts .power (by simp [bootParts])
  unfold State.draining
  rw [power]
  rfl

/-! ### The line masters -/

theorem startUp_unidentified (h : (y.beforeLines rate).store.identity.isSome = false) :
    startUp rate y = y.beforeLines rate := by
  rw [startUp_eq]
  unfold endColdStart
  rw [if_neg (by rw [h]; decide)]

theorem startUp_identified (h : (y.beforeLines rate).store.identity.isSome = true) :
    startsAll allLines (y.beforeLines rate) (startUp rate y) := by
  rw [startUp_eq]
  unfold endColdStart
  rw [if_pos h]
  exact startLines_fresh allLines (by decide) _ beforeLines_draining beforeLines_unheard

/-- The line masters that start change their lines and their nodes alone. -/
theorem startUp_rest : ∃ lines nodes, startUp rate y = (y.beforeLines rate).wired lines nodes := by
  cases h : (y.beforeLines rate).store.identity.isSome with
  | false => exact ⟨_, _, (startUp_unidentified h).trans (State.wired_self _).symm⟩
  | true => exact ⟨_, _, (startUp_identified h).wired⟩

theorem startUp_boots : boots (y.begun rate).classed (startUp rate y) := by
  obtain ⟨lines, nodes, h⟩ := startUp_rest (y := y) (rate := rate)
  rw [h]
  exact beforeLines_boots.trans (.wired _ _ _)

/-! ### The end of the step -/

theorem started_boots : boots (y.begun rate).classed (pumpEngine (startUp rate y)) := startUp_boots.trans .pumpEngine

theorem started_keeps : keepsBut bootParts (y.begun rate).classed (finish (startUp rate y)) := by
  refine keepsBut_trans started_boots.parts fun p hp => ?_
  unfold finish
  cases p <;> first | (simp [bootParts] at hp; done) | simp [Part.same]

theorem started_store : (y.begun rate).classed.store.stands (finish (startUp rate y)).store := by
  rw [show (finish (startUp rate y)).store = (pumpEngine (startUp rate y)).store by simp [finish]]
  exact started_boots.store

theorem started_identity : (finish (startUp rate y)).store.identity = foundIdentity y.store.idPlaces :=
  started_store.identity

theorem beforeLines_identity : (y.beforeLines rate).store.identity = foundIdentity y.store.idPlaces :=
  beforeLines_boots.store.identity

theorem started_slots (h : y.store.regionsWf) : keepsSlots y.store (finish (startUp rate y)).store := by
  have stands := started_store (y := y) (rate := rate)
  refine ⟨fun k => ?_, fun k => ?_, stands.idPlaces⟩
  · unfold Store.tsec
    rw [stands.tlog]
    have read := congrArg Sector.cells (classRegion_get h.tlog k)
    exact read
  · unfold Store.jsec
    rw [stands.jreg]
    have read := congrArg Sector.cells (classRegion_get h.jreg k)
    exact read

theorem started_lines (i : LineId) :
    ((finish (startUp rate y)).line i).running = (finish (startUp rate y)).store.identity.isSome ∧
      ((finish (startUp rate y)).line i).queue = (if (finish (startUp rate y)).store.identity.isSome = true ∧
        (finish (startUp rate y)).clock.valid = .invalid then [⟨.standalone, .other, none, 0⟩] else []) ∧
      ((finish (startUp rate y)).store.identity.isSome = true → ((finish (startUp rate y)).line i).phase = 1 ∧
        ((finish (startUp rate y)).line i).periodEnd = some ((finish (startUp rate y)).settings.period.get i)) := by
  have clock : (finish (startUp rate y)).clock = (y.beforeLines rate).clock :=
    (started_keeps .clock (by simp [bootParts])).trans (beforeLines_boots.parts .clock (by simp [bootParts])).symm
  obtain ⟨lines, nodes, wired⟩ := startUp_rest (y := y) (rate := rate)
  have settings : (finish (startUp rate y)).settings = (y.beforeLines rate).settings := by
    rw [show (finish (startUp rate y)).settings = (startUp rate y).settings by simp, wired, State.wired_settings]
  have line : (finish (startUp rate y)).line i = (startUp rate y).line i := finish_line _ _
  rw [line, clock, settings, started_identity, ← beforeLines_identity (rate := rate)]
  cases h : (y.beforeLines rate).store.identity.isSome with
  | false =>
    rw [startUp_unidentified h, beforeLines_line]
    exact ⟨rfl, rfl, nofun⟩
  | true =>
    obtain ⟨running, queue, phase, period⟩ := (startUp_identified h).started i (by cases i <;> decide)
    refine ⟨running, queue.trans ?_, fun _ => ⟨phase, period⟩⟩
    unfold State.firstOrders
    simp

theorem started_nodes (k : Nat) (n : Node) (hn : (finish (startUp rate y)).nodes.get k = some n) :
    n.link = ⟨if (finish (startUp rate y)).store.identity.isSome = true ∧ n.entry.enabled = true then .unknown
        else .disabled, 0, 0, false, false, false, false, none⟩ ∧
      n.door = ⟨.closed, none, .none⟩ ∧ n.bar = ⟨.locked, false, none, none, false, none, none, 0, []⟩ := by
  rw [show (finish (startUp rate y)).nodes = (startUp rate y).nodes by simp] at hn
  rw [started_identity, ← beforeLines_identity (rate := rate)]
  cases h : (y.beforeLines rate).store.identity.isSome with
  | false =>
    rw [startUp_unidentified h] at hn
    have fresh : n = Node.fresh n.entry := beforeLines_nodes _ (FMap.mem_of_get hn)
    rw [fresh]
    exact ⟨rfl, rfl, rfl⟩
  | true =>
    rw [(startUp_identified h).wired] at hn
    obtain ⟨m, hm, hmn⟩ : ∃ m, (y.beforeLines rate).nodes.get k = some m ∧ n = startsAs m := by
      simp only [State.wired, allLines, List.foldl_cons, List.foldl_nil, nodesChanged, FMap.get_mapVals] at hn
      cases hm : (y.beforeLines rate).nodes.get k with
      | none => rw [hm] at hn; cases hn
      | some m =>
        rw [hm] at hn
        refine ⟨m, rfl, ?_⟩
        cases hl : keyLine k <;> simp [hl] at hn <;> exact hn.symm
    have fresh : m = Node.fresh m.entry := beforeLines_nodes _ (FMap.mem_of_get hm)
    rw [hmn, fresh]
    refine ⟨?_, rfl, rfl⟩
    by_cases he : m.entry.enabled = true <;> simp [startsAs, Node.fresh, he]

theorem started_rooms : (finish (startUp rate y)).roomsFresh := by
  obtain ⟨lines, nodes, wired⟩ := startUp_rest (y := y) (rate := rate)
  unfold State.roomsFresh
  rw [show (finish (startUp rate y)).rooms = (startUp rate y).rooms by simp, wired, State.wired_rooms]
  exact beforeLines_leaves.1

theorem started_creds (k : Nat) (r : CredRec) (h : (finish (startUp rate y)).cred.slots.get k = some r) :
    r.state ≠ .pending := by
  obtain ⟨lines, nodes, wired⟩ := startUp_rest (y := y) (rate := rate)
  rw [finish_cred, wired, State.wired_cred] at h
  exact fun hp => nomatch beforeLines_leaves.2 k r h hp

end

/-! ### The link -/

section
variable {e : State} {rate : LinkRate} {holdIn : Bool}

/-- What a cold start leaves of the link, whatever occurrences it may have posted. -/
structure linkStarts (rate : LinkRate) (holdIn : Bool) (posts : NoticeClass → Detail → Prop) (t : State) : Prop where
  rate : t.link.rate = rate
  inbound : t.link.inbound = ⟨[], [], 0, false, false, false⟩
  holdOut : t.link.holdOut = false
  slot : t.link.slot = none
  deferred : t.link.deferred = none
  deferredDone : t.link.deferredDone = none
  errors : t.link.errors = 0
  holdIn : t.link.holdIn = holdIn
  notices : ∀ k, ∃ l : List Detail, (∀ d ∈ l, posts k d) ∧ noticed k (l.foldl Notice.occur ⟨true, false, 0, none⟩) t
  tx : ∀ x, t.link.tx = some x → ∃ c n d, x = .notice c n d

/-- A transmitter with no reply begins a notice, or nothing. -/
theorem pumpTx_begins {p : State} (hs : p.link.slot = none) : (pumpTx p).link = p.link ∨
    ∃ c, (pumpTx p).link = { p.link with
      tx := some (.notice c (p.link.notices.get c).count (p.link.notices.get c).detail)
      notices := p.link.notices.set c (p.link.notices.get c).sent } := by
  unfold pumpTx
  split
  · exact .inl rfl
  · simp only [State.onLink, Link.beginLine]
    split
    · exact .inl rfl
    · split
      · next bound => rw [hs] at bound; cases bound
      · split
        · exact .inl rfl
        · split
          · exact .inl rfl
          · exact .inr ⟨_, rfl⟩

/-- A class's entry as the step ends: the transmitter may have begun its notice. -/
theorem noticed_finish {k : NoticeClass} {n : Notice} (h : (pumpEngine e).link.notices.get k = n) :
    noticed k n (finish e) := by
  have begun := pumpTx_notice (pumpEngine e) k
  unfold Link.begunOr at begun
  rw [h] at begun
  exact begun

theorem noticesStart_get (k : NoticeClass) : Notices.start.get k = ⟨true, false, 0, none⟩ := by cases k <;> rfl

theorem finish_linkStarts (h : (Link.start rate holdIn).hears (pumpEngine e).link) :
    linkStarts rate holdIn startOccurrence (finish e) := by
  let p := pumpEngine e
  have slot : p.link.slot = none := h.field Link.slot fun _ => rfl
  have tx : p.link.tx = none := h.field Link.tx fun _ => rfl
  have kept {β : Type} (f : Link → β) (hf : ∀ (l : Link) x n, f { l with tx := x, notices := n } = f l) :
      f (finish e).link = f (Link.start rate holdIn) := by
    have pumped : f (pumpTx p).link = f p.link := by
      rcases pumpTx_begins slot with same | ⟨c, begins⟩
      · rw [same]
      · rw [begins]; exact hf p.link _ _
    exact pumped.trans (h.field f fun n => hf _ _ n)
  refine ⟨kept Link.rate fun _ _ _ => rfl, kept Link.inbound fun _ _ _ => rfl,
    kept Link.holdOut fun _ _ _ => rfl, kept Link.slot fun _ _ _ => rfl,
    kept Link.deferred fun _ _ _ => rfl, kept Link.deferredDone fun _ _ _ => rfl,
    kept Link.errors fun _ _ _ => rfl, kept Link.holdIn fun _ _ _ => rfl,
    fun k => ?_, fun x hx => ?_⟩
  · obtain ⟨ds, starts, heard⟩ := h.heard k
    refine ⟨ds, starts, noticed_finish ?_⟩
    rw [heard, show (Link.start rate holdIn).notices = Notices.start from rfl, noticesStart_get]
  · rcases pumpTx_begins slot with same | ⟨c, begins⟩
    · rw [show (finish e).link.tx = (pumpTx p).link.tx from rfl, same, tx] at hx; cases hx
    · rw [show (finish e).link.tx = (pumpTx p).link.tx from rfl, begins] at hx
      cases hx
      exact ⟨_, _, _, rfl⟩

end

end Sys2Proof.Machine

/-! ## The journal of a cold start, and every cold start (R44, R184 to R189) -/

namespace Sys2Proof.Machine

set_option Elab.async false

/-! ### The journal's level, and START -/

section
variable {y : State} {rate : LinkRate}

/-- The occurrence of the journal's level as a part starts (R150). -/
def startLevel (j : Journal) : List Detail :=
  if j.writer = .full then [.full (j.newest - j.mark)] else if 9856 ≤ j.newest - j.mark then [.near (j.newest - j.mark)]
  else if 5632 ≤ j.newest - j.mark then [.half (j.newest - j.mark)] else []

theorem postStartLevel_notice (s : State) : (postStartLevel s).link.notices.get .journal =
    (startLevel s.journal).foldl Notice.occur (s.link.notices.get .journal) := by
  have near : Config.levelNear = 9856 := rfl
  have half : Config.levelHalf = 5632 := rfl
  unfold postStartLevel startLevel Journal.uncollected
  dsimp only
  rw [near, half]
  split
  · exact post_notice_self _ _ _
  · split
    · exact post_notice_self _ _ _
    · split
      · exact post_notice_self _ _ _
      · rfl

/-- The part with the journal unit's positions found. -/
def State.placed (y : State) (rate : LinkRate) : State := placeJournal (scanTables (y.begun rate))

theorem beforeLines_eq : y.beforeLines rate = credentialStart (y.placed rate).opened := rfl

theorem placed_takes : takes (postStartLevel (startWriter (y.placed rate)).1) (y.beforeLines rate) :=
  opened_takes.trans takes.credentialStart

theorem started_journal : (finish (startUp rate y)).journal = (y.beforeLines rate).journal := by
  obtain ⟨lines, nodes, wired⟩ := startUp_rest (y := y) (rate := rate)
  rw [show (finish (startUp rate y)).journal = (startUp rate y).journal by simp, wired, State.wired_journal]

/-- The journal's writer and its level are those the start found. -/
theorem started_level : startLevel (finish (startUp rate y)).journal =
    startLevel (startWriter (y.placed rate)).1.journal ∧
    (finish (startUp rate y)).journal.writer = (startWriter (y.placed rate)).1.journal.writer := by
  have same : (postStartLevel (startWriter (y.placed rate)).1).journal = (startWriter (y.placed rate)).1.journal := by simp
  have took := (placed_takes (y := y) (rate := rate)).journal
  rw [same] at took
  rw [started_journal]
  refine ⟨?_, took.writer⟩
  unfold startLevel
  rw [took.writer, took.newest, took.mark]

theorem started_journalNotice (hw : (finish (startUp rate y)).journal.writer ≠ .overrun)
    (hn : (finish (startUp rate y)).journal.nextSeq ≤ max32) :
    noticed .journal ((startLevel (finish (startUp rate y)).journal).foldl Notice.occur ⟨true, false, 0, none⟩)
      (finish (startUp rate y)) := by
  obtain ⟨level, writer⟩ := started_level (y := y) (rate := rate)
  obtain ⟨lines, nodes, wired⟩ := startUp_rest (y := y) (rate := rate)
  rw [writer] at hw
  rw [started_journal] at hn
  have found : (y.placed rate).link.notices.get .journal = ⟨true, false, 0, none⟩ := by
    unfold State.placed
    rw [show (placeJournal (scanTables (y.begun rate))).link = (scanTables (y.begun rate)).link by simp, scanTables_notice]
    rfl
  have before : (y.beforeLines rate).link.notices.get .journal =
      (startLevel (startWriter (y.placed rate)).1.journal).foldl Notice.occur ⟨true, false, 0, none⟩ := by
    rw [← found, ← startWriter_notice hw, ← postStartLevel_notice]
    exact placed_takes.quiet hn
  rw [level]
  refine noticed_finish ?_
  rw [(pumpEngine_posts _).notices .journal (by simp), wired, State.wired_link]
  exact before

theorem placed_jreg : (y.placed rate).store.jreg = classRegion y.store.jreg := by
  unfold State.placed
  rw [show (placeJournal (scanTables (y.begun rate))).store = (scanTables (y.begun rate)).store by simp]
  exact scanTables_boots.store.jreg

theorem placed_nextSeq : (y.placed rate).journal.nextSeq = ((y.placed rate).store.newestRec.map JRec.seq).getD 0 + 1 := by
  have store : (y.placed rate).store = (scanTables (y.begun rate)).store := by unfold State.placed; simp
  rw [store]
  exact placeJournal_nextSeq

theorem beforeLines_staging :
    (y.placed rate).opened.journal.staging <+: (y.beforeLines rate).journal.staging := by
  have took : takes (y.placed rate).opened (credentialStart (y.placed rate).opened) := takes.credentialStart
  rw [beforeLines_eq]
  exact took.journal.staged

theorem head?_of_prefix {α : Type} {a : α} {l : List α} (h : [a] <+: l) : l.head? = some a := by
  obtain ⟨rest, rfl⟩ := h
  rfl

/-- The START record a cold start stages first. -/
theorem started_start (hwf : y.store.jreg.wf) (hw : (finish (startUp rate y)).journal.writer ≠ .fault)
    (hs : ∀ k x, some x ∈ (y.store.jsec k).cells → x.seq < max32) :
    ∃ q clean, (finish (startUp rate y)).journal.staging.head? =
        some ⟨q, (finish (startUp rate y)).clock.minute, (finish (startUp rate y)).clock.second,
          ⟨.start, none, none, none, if clean = true then .clean else .unclean,
            .clock (finish (startUp rate y)).clock.valid, .none⟩⟩ ∧
      (q = 1 ∨ ∃ k x, some x ∈ (y.store.jsec k).cells ∧ x.seq + 1 = q) ∧
      ((∀ k, (y.store.jsec k).cells = []) → q = 1 ∧ clean = true) ∧
      ∀ k x, some x ∈ (y.store.jsec k).cells → (y.store.jsec k).interrupted = false →
        (∀ i z, some z ∈ (y.store.jsec i).cells → z = x ∨ z.seq < x.seq) →
        clean = decide (x.body.kind = .powerDown ∧ x.body.v2 = .complete) := by
  obtain ⟨z, hz⟩ : ∃ z, z = y.placed rate := ⟨_, rfl⟩
  have recs (k : Nat) (r : JRec) : (k, r) ∈ z.store.journalRecs ↔
      some r ∈ (y.store.jsec k).cells ∧ (y.store.jsec k).interrupted = false :=
    journalRecs_classed (by rw [hz]; exact placed_jreg) hwf
  have readIn : z.readIn := by rw [hz]; exact placeJournal_readIn (scanTables_readIn classed_readIn)
  have position : z.journal.nextSeq = 1 ∧ z.store.newestRec = none ∨
      ∃ r, z.store.newestRec = some r ∧ z.journal.nextSeq = r.seq + 1 ∧ ∃ k, some r ∈ (y.store.jsec k).cells := by
    have next : z.journal.nextSeq = (z.store.newestRec.map JRec.seq).getD 0 + 1 := by rw [hz]; exact placed_nextSeq
    cases hr : z.store.newestRec with
    | none => exact .inl ⟨by rw [next, hr]; rfl, rfl⟩
    | some r =>
      obtain ⟨⟨k, hk⟩, -⟩ := newestRec_some hr
      exact .inr ⟨r, rfl, by rw [next, hr]; rfl, k, ((recs k r).mp hk).1⟩
  have below : z.journal.nextSeq ≤ max32 := by
    rcases position with ⟨one, -⟩ | ⟨r, -, next, k, hk⟩
    · rw [one]; decide
    · rw [next]; exact hs k r hk
  have clock : (finish (startUp rate y)).clock = z.clock := by
    rw [hz]
    exact (started_keeps .clock (by simp [bootParts])).trans
      ((scanTables_boots.trans placeJournal_boots).parts .clock (by simp [bootParts])).symm
  have staged : [⟨z.journal.nextSeq, z.clock.minute, z.clock.second, startBody z.store.cleanStart z.clock.valid⟩] <+:
      (finish (startUp rate y)).journal.staging := by
    have first := opened_staging (s := z) (by rw [hz, ← started_level.2]; exact hw) below readIn.staging readIn.owed
    have last : z.opened.journal.staging <+: (y.beforeLines rate).journal.staging := by
      rw [hz]; exact beforeLines_staging
    rw [started_journal]
    exact first.trans last
  refine ⟨z.journal.nextSeq, z.store.cleanStart, ?_, ?_, fun none => ?_, fun k x hx hi hmax => ?_⟩
  · rw [head?_of_prefix staged, clock, startBody]
  · rcases position with ⟨one, -⟩ | ⟨r, -, next, k, hk⟩
    · exact .inl one
    · exact .inr ⟨k, r, hk, next.symm⟩
  · rcases position with ⟨one, empty⟩ | ⟨r, -, -, k, hk⟩
    · exact ⟨one, by unfold Store.cleanStart; rw [empty]⟩
    · rw [none k] at hk; cases hk
  · have newest : z.store.newestRec = some x :=
      newestRec_of_max ((recs k x).mpr ⟨hx, hi⟩) fun e he => hmax e.1 e.2 ((recs e.1 e.2).mp he).1
    unfold Store.cleanStart
    rw [newest]
    exact (Bool.decide_and _ _).symm

end

/-! ### Every cold start -/

section
variable {s : State} {c : Instr} {rate : LinkRate} {lost : Bool}

/-- The state in which a cold start begins. -/
structure startsFromState (s : State) (c : Instr) (lost : Bool) (x : State) : Prop where
  store : x.store = s.store
  freeUses : x.freeUses = s.freeUses
  holdIn : x.link.holdIn = s.link.holdIn
  cardIn : x.enc.cardIn = s.enc.cardIn
  pfw : x.power.pfw = true ↔ startsParked s c
  clock : x.clock = { s.clock with lost := s.clock.lost || lost }

theorem coldStarts_exec (h : coldStarts s c rate lost) :
    ∃ x, exec c s = .next (finish (coldStart rate x)) ∧ startsFromState s c lost x := by
  have kept : s.clock = { s.clock with lost := s.clock.lost || false } := by rw [Bool.or_false]
  rcases h with ⟨rfl, supply, reset⟩ | ⟨rfl, reset, supply, rfl⟩ | ⟨rfl, parked, rfl⟩ |
      ⟨straps, d, rfl, draining, drain, ended, tx, slot, rfl, rfl⟩
  · refine ⟨(s.onPower fun p => { p with supply := true }).onClock fun c => { c with lost := c.lost || lost }, ?_,
      rfl, rfl, rfl, rfl, ?_, rfl⟩
    · show execPowerOn rate lost s = _
      unfold execPowerOn
      simp [supply, reset, done]
    · exact ⟨fun hp => ⟨hp, nofun⟩, And.left⟩
  · refine ⟨s.onPower fun p => { p with resetPin := false }, ?_, rfl, rfl, rfl, rfl, ?_, kept⟩
    · show execResetReleased rate s = _
      unfold execResetReleased
      rw [reset, supply]
      rfl
    · exact ⟨fun hp => ⟨hp, nofun⟩, And.left⟩
  · refine ⟨s.onPower fun p => { p with pfw := false }, ?_, rfl, rfl, rfl, rfl, ?_, kept⟩
    · show execPfwDeasserted rate s = _
      unfold execPfwDeasserted
      rw [if_pos parked]
      rfl
    · exact ⟨nofun, fun hp => absurd rfl (hp.2 rate)⟩
  · refine ⟨s, ?_, rfl, rfl, rfl, rfl, ⟨fun hp => ⟨hp, nofun⟩, And.left⟩, kept⟩
    show execPostDrainColdStart straps s = _
    unfold execPostDrainColdStart
    rw [drain]
    simp [State.draining, draining, ended, tx, slot, done]

/-! ### With PFW asserted -/

variable {x : State}

theorem beginLine_start (rate : LinkRate) (holdIn b : Bool) :
    (Link.start rate holdIn).beginLine b = Link.start rate holdIn := by cases holdIn <;> cases b <;> rfl

/-- A parked part has nothing to begin. -/
theorem finish_parked : finish (parkStart rate x) = parkStart rate x := by
  have engine : pumpEngine (parkStart rate x) = parkStart rate x := if_pos rfl
  have link : (parkStart rate x).link = Link.start rate x.link.holdIn := rfl
  unfold finish
  rw [engine]
  have state : (parkStart rate x).power.state = .parked := rfl
  unfold pumpTx State.onLink
  rw [state, if_neg (by decide), link]
  dsimp only
  rw [beginLine_start]
  rfl

end

end Sys2Proof.Machine

/-! ## A cold start brings the part to RUN or to PARKED (O50) -/

namespace Sys2Proof.Machine

set_option Elab.async false

section
variable {s x y t : State} {c : Instr} {rate : LinkRate} {lost : Bool}

/-! ### The store a cold start begins with -/

/-- A program in progress has run to its end over the store the cut erases leave. -/
theorem endProgram_found (hs : x.store = s.store) (hf : x.freeUses = s.freeUses) :
    (∃ e, (endProgram (x.onStore cutErases)).store = { s.foundStore with engine := e }) ∧
      (endProgram (x.onStore cutErases)).freeUses = s.freeUses + (match s.store.engine with
        | .programming _ => 1
        | _ => 0) := by
  have engine : (x.onStore cutErases).store.engine = (cutErases s.store).engine := by
    show (cutErases x.store).engine = _; rw [hs]
  unfold endProgram State.foundStore
  rw [engine, cutErases_engine]
  cases he : s.store.engine with
  | programming p =>
    refine ⟨⟨.idle, ?_⟩, ?_⟩
    · dsimp only [State.onStore, State.onFreeUses]
      rw [hs, hf]
    · dsimp only [State.onStore, State.onFreeUses]
      rw [hf]
  | idle => exact ⟨⟨_, by show cutErases x.store = _; rw [hs]⟩, hf⟩
  | erasing e => exact ⟨⟨_, by show cutErases x.store = _; rw [hs]⟩, hf⟩

theorem taken_eq (h : x.clock = { s.clock with lost := s.clock.lost || lost }) : x.clock.taken =
    if s.clock.lost = true ∨ lost = true then ⟨0, 0, .invalid, false⟩ else s.clock := by
  unfold HotelClock.taken
  rw [h]
  by_cases hl : s.clock.lost = true ∨ lost = true
  · rw [if_pos (by simpa using hl), if_pos hl]
  · obtain ⟨held, kept⟩ := not_or.mp hl
    rw [if_neg (by simpa using hl), if_neg hl]
    have same : (s.clock.lost || lost) = s.clock.lost := by
      rw [Bool.eq_false_iff.mpr held, Bool.eq_false_iff.mpr kept]; rfl
    rw [same]

/-! ### The part that parks -/

/-- A part that parks (R188). -/
structure parks (s t : State) : Prop where
  state : t.power.state = .parked
  slots : keepsSlots (cutErases s.store) t.store
  engine : t.store.engine = (cutErases s.store).engine
  nextAppend : t.store.nextAppend = s.store.nextAppend
  suspended : t.store.suspended = none
  freeUses : t.freeUses = s.freeUses
  staging : t.journal.staging = []
  queue : t.store.queue = []
  lines : ∀ i, (t.line i).running = false

theorem cutErases_nextAppend (t : Store) : (cutErases t).nextAppend = t.nextAppend := by
  have sector (k : Nat) (x : Store) : (cutSector k x).nextAppend = x.nextAppend := by unfold cutSector; split <;> rfl
  unfold cutErases
  cases t.engine <;> dsimp only <;> split <;> simp [sector]

theorem parkStart_parks (hs : x.store = s.store) (hf : x.freeUses = s.freeUses) :
    parks s (parkStart rate (x.onStore cutErases)) := by
  have store : (x.onStore cutErases).store = cutErases s.store := by show cutErases x.store = _; rw [hs]
  have same : (parkStart rate (x.onStore cutErases)).store = { Store.start with
      tlog := (cutErases s.store).tlog, jreg := (cutErases s.store).jreg, idPlaces := (cutErases s.store).idPlaces
      engine := (cutErases s.store).engine, nextAppend := (cutErases s.store).nextAppend } := by
    rw [← store]; rfl
  refine ⟨rfl, ?_, by rw [same], by rw [same]; exact cutErases_nextAppend _, by rw [same]; rfl, hf, rfl,
    by rw [same]; rfl, fun i => ?_⟩
  · rw [same]
    exact ⟨fun _ => rfl, fun _ => rfl, rfl⟩
  · cases i <;> rfl

theorem parkStart_link : linkStarts rate x.link.holdIn (fun _ _ => False) (parkStart rate x) :=
  ⟨rfl, rfl, rfl, rfl, rfl, rfl, rfl, rfl, fun k => ⟨[], nofun, .inl (by cases k <;> rfl)⟩,
    fun _ h => nomatch h⟩

/-! ### The part that runs -/

theorem linkStarts.mono {holdIn : Bool} {P Q : NoticeClass → Detail → Prop} (h : linkStarts rate holdIn P t)
    (hPQ : ∀ k d, P k d → Q k d) : linkStarts rate holdIn Q t := by
  have notices (k : NoticeClass) : ∃ l : List Detail, (∀ d ∈ l, Q k d) ∧
      noticed k (l.foldl Notice.occur ⟨true, false, 0, none⟩) t := by
    obtain ⟨l, hl, heard⟩ := h.notices k
    exact ⟨l, fun d hd => hPQ k d (hl d hd), heard⟩
  exact { h with notices := notices }

theorem started_link : linkStarts rate y.link.holdIn startOccurrence (finish (startUp rate y)) :=
  finish_linkStarts started_boots.link

/-- The part that runs once it has started, over the store it began with. -/
theorem started_runs (hy : y.store.regionsWf) :
    (finish (startUp rate y)).power.state = .run ∧ (finish (startUp rate y)).power.drain = none ∧
      (finish (startUp rate y)).signals = ⟨false, false, false, false⟩ ∧
      (finish (startUp rate y)).enc = ⟨none, none, y.enc.cardIn, none, none⟩ ∧
      (finish (startUp rate y)).clock = y.clock.taken ∧ (finish (startUp rate y)).freeUses = y.freeUses ∧
      keepsSlots y.store (finish (startUp rate y)).store := by
  have power := started_keeps (y := y) (rate := rate) .power (by simp [bootParts])
  refine ⟨by rw [show (finish (startUp rate y)).power = _ from power]; rfl,
    by rw [show (finish (startUp rate y)).power = _ from power]; rfl, started_keeps .signals (by simp [bootParts]),
    started_keeps .enc (by simp [bootParts]), started_keeps .clock (by simp [bootParts]),
    started_keeps .freeUses (by simp [bootParts]), started_slots hy⟩

/-- What a cold start that runs leaves beside the link (R184 to R189), where `u` is the store it found. -/
theorem started_over {u : Store} {e : Engine} (hu : y.store = { u with engine := e }) (hwf : u.regionsWf)
    (ht : t = finish (startUp rate y)) :
    keepsSlots u t.store ∧
    t.store.identity = u.idPlaces.findSome? (fun p => match p with
      | .written i => some i
      | _ => none) ∧
    (t.journal.writer ≠ .fault → (∀ k r, r ∈ (u.jsec k).cells → ∀ x, r = some x → x.seq < max32) →
      ∃ q clean, t.journal.staging.head? = some ⟨q, t.clock.minute, t.clock.second,
        ⟨.start, none, none, none, if clean = true then .clean else .unclean, .clock t.clock.valid, .none⟩⟩ ∧
      (q = 1 ∨ ∃ k x, some x ∈ (u.jsec k).cells ∧ x.seq + 1 = q) ∧
      ((∀ k, (u.jsec k).cells = []) → q = 1 ∧ clean = true) ∧
      ∀ k x, some x ∈ (u.jsec k).cells → (u.jsec k).interrupted = false →
        (∀ i y, some y ∈ (u.jsec i).cells → y = x ∨ y.seq < x.seq) →
        clean = decide (x.body.kind = .powerDown ∧ x.body.v2 = .complete)) := by
  have sec (k : Nat) : y.store.jsec k = u.jsec k := by unfold Store.jsec; rw [hu]
  have log (k : Nat) : y.store.tsec k = u.tsec k := by unfold Store.tsec; rw [hu]
  have places : y.store.idPlaces = u.idPlaces := by rw [hu]
  have wf : y.store.regionsWf := by rw [hu]; exact ⟨hwf.tlog, hwf.jreg⟩
  have slots := started_slots (rate := rate) wf
  have identity := started_identity (y := y) (rate := rate)
  have start := started_start (rate := rate) wf.jreg
  rw [← ht] at slots identity start
  simp only [sec] at start
  refine ⟨?_, ?_, fun hw hs => start hw fun k x hx => hs k (some x) hx x rfl⟩
  · obtain ⟨cellsT, cellsJ, idPlaces⟩ := slots
    exact ⟨fun k => (cellsT k).trans (by rw [log]), fun k => (cellsJ k).trans (by rw [sec]), idPlaces.trans places⟩
  · rw [identity, places]
    rfl

theorem started_journalLevel (ht : t = finish (startUp rate y)) (n : Nat) (hn : n = t.journal.newest - t.journal.mark)
    (hw : t.journal.writer ≠ .overrun) (hs : t.journal.nextSeq ≤ max32) :
    noticed .journal ((if t.journal.writer = .full then [.full n] else if 9856 ≤ n then [.near n]
      else if 5632 ≤ n then [.half n] else [] : List Detail).foldl Notice.occur ⟨true, false, 0, none⟩) t := by
  have notice := started_journalNotice (y := y) (rate := rate)
  rw [← ht] at notice
  unfold startLevel at notice
  rw [hn]
  exact notice hw hs

/-- Settles O50: a cold start as a chain of steps, each of which leaves what `boots` and `takes` say, over the store as
it is found. -/
theorem coldStartsBegin : Obligations.ColdStartsBegin := by
  intro s c rate lost hlog hjreg hcold
  obtain ⟨x, exec, store, freeUses, holdIn, cardIn, pfw, clock⟩ := coldStarts_exec hcold
  by_cases parked : startsParked s c
  · have starts : coldStart rate x = parkStart rate (x.onStore cutErases) := if_pos (pfw.mpr parked)
    rw [starts, finish_parked] at exec
    have parks := parkStart_parks (rate := rate) store freeUses
    have link := parkStart_link (rate := rate) (x := x.onStore cutErases)
    refine ⟨_, exec, rfl, link.rate, link.inbound, link.holdOut, link.slot, link.deferred, link.deferredDone,
      link.errors, holdIn, rfl, ?_, link.tx, congrArg Encoder.start cardIn, fun _ => ?_, fun h => absurd parked h⟩
    · exact (link.mono (Q := fun k d => ¬ startsParked s c ∧ startOccurrence k d) fun _ _ h => h.elim).notices
    · exact ⟨parks.state, parks.slots, parks.engine, parks.nextAppend, parks.suspended, parks.freeUses, parks.staging,
        parks.queue, parks.lines, rfl⟩
  · obtain ⟨y, hy⟩ : ∃ y, y = endProgram (x.onStore cutErases) := ⟨_, rfl⟩
    obtain ⟨⟨e, found⟩, uses⟩ := endProgram_found store freeUses
    have starts : coldStart rate x = startUp rate y := by
      rw [hy]; exact if_neg fun h => parked (pfw.mp h)
    rw [← hy] at found uses
    have wf := foundStore_wf hlog hjreg
    have clockY : y.clock = x.clock := by rw [hy]; simp
    have encY : y.enc.cardIn = s.enc.cardIn := by
      rw [← cardIn, show y.enc = x.enc by rw [hy]; simp]
    have linkY : y.link.holdIn = s.link.holdIn := by
      rw [← holdIn, show y.link = x.link by rw [hy]; simp]
    obtain ⟨t, ht⟩ : ∃ t, t = finish (startUp rate y) := ⟨_, rfl⟩
    rw [starts, ← ht] at exec
    have link : linkStarts rate y.link.holdIn startOccurrence t := ht ▸ started_link
    obtain ⟨state, drain, signals, enc, clockT, usesT, -⟩ := started_runs (y := y) (rate := rate)
      (by rw [found]; exact ⟨wf.tlog, wf.jreg⟩)
    rw [← ht] at state drain signals enc clockT usesT
    refine ⟨t, exec, drain, link.rate, link.inbound, link.holdOut, link.slot, link.deferred, link.deferredDone,
      link.errors, link.holdIn.trans linkY, signals, ?_, link.tx, by rw [enc, encY], fun h => absurd h parked, ?_⟩
    · exact (link.mono (Q := fun k d => ¬ startsParked s c ∧ startOccurrence k d) fun _ _ h => ⟨parked, h⟩).notices
    · intro _ u hu
      subst hu
      obtain ⟨slots, identity, start⟩ := started_over found wf ht
      refine ⟨state, slots, usesT.trans uses, ?_, identity, ?_, ?_, ?_, ?_, ?_, start⟩
      · rw [clockT, ← taken_eq clock, clockY]
      · rw [ht]; exact started_lines
      · rw [ht]; exact started_nodes
      · rw [ht]; exact started_rooms
      · rw [ht]; exact started_creds
      · exact started_journalLevel ht

end

end Sys2Proof.Machine
